-- ==== Sys2Proof/Word.lean ====
section
/-! DEFINITION. The word types of the IK7264 model and their plainest arithmetic (R4, R5, R6). -/
namespace Sys2Proof

/-- One register: 32 bits (R6). -/
abbrev Word := BitVec 32

/-- A 64-bit quantity: two adjacent registers, the low half at the lower offset (R6). -/
abbrev Word64 := BitVec 64

/-- One byte. -/
abbrev Byte := BitVec 8

/-- One bit as a number: 1 where the condition holds. -/
def bit (b : Bool) : Nat := if b then 1 else 0

end Sys2Proof
end

