-- ==== Sys2Proof/Config.lean ====
section
/-! DEFINITION. What an implementation fixes and what the manual leaves open: free values, without a body. -/
namespace Sys2Proof

/-- The on-die random source from which GENERATE draws keys (R265), applied to the state's free-value counter:
96 bytes, three AES-256 keys of a region, one value per draw.
DESIGN CHOICE (log 5; safe). -/
opaque Config.randomKey : Nat → BitVec 768

/-- What the pad input of an undriven or contended ball reads (R445: 0 or 1, not predictable), applied to the
free-value counter; bit i is ball i.
DESIGN CHOICE (log 5; safe). -/
opaque Config.padLevel : Nat → BitVec 384

/-- The bytes of the boot ROM (R410: the spec gives its place and size, not its contents), by offset.
DESIGN CHOICE (log 5; safe). -/
opaque Config.bootRom : Nat → BitVec 8

/-- The bytes that a snapshot or repair map shows once a write of it was cut short or read back wrong (R520, R521: it
fails its CRC, and its contents are not given), by Drawer offset.
DESIGN CHOICE (log 5; unsafe). -/
opaque Config.tornByte : Nat → BitVec 8

/-- The Panels that fail BIST in a start-up whose command does not tell them (R524), applied to the free-value counter: bit
132d + p is Panel p of die d.
DESIGN CHOICE (log 5; safe). -/
opaque Config.bistFails : Nat → BitVec 528

/-- Where the symbol coders of a bundle's lanes stand after a training block or a pattern that went out an untold number of
times (R291), applied to the free-value counter: of lane k, bits 3k and 3k + 1 the last level, bit 3k + 2 the last lane bit.
DESIGN CHOICE (log 5; safe). -/
opaque Config.coder : Nat → BitVec 27

/-- The header of a TLP that AER logs (R478: the commands carry no header), applied to the free-value counter.
DESIGN CHOICE (log 5; safe). -/
opaque Config.tlpHeader : Nat → BitVec 128

/-- What the identification CSRs mvendorid, marchid, mimpid and mconfigptr read (R408 names the architecture, not these
values), by CSR number.
DESIGN CHOICE (log 5; safe). -/
opaque Config.coreId : Nat → BitVec 32

/-- The bit that is shifted into the bypass register in a scan whose command does not bring it (R542), applied to the free-value
counter.
DESIGN CHOICE (log 5; safe). -/
opaque Config.bypassIn : Nat → Bool

end Sys2Proof
end

