-- ==== Sys2Proof/Syntax.lean ====
section
/-! DEFINITION. The commands of the IK7264 block: one constructor per row of the table of operations and events, with
the row's operands; and the types of those operands. A command is indivisible (95). -/
namespace Sys2Proof

/-- Who makes a register access (R42, R34, R226): the host link, a control core, the loader, or the test port. -/
inductive Requester where
  | host
  | core (c : Nat)
  | loader
  | testPort
  deriving DecidableEq, Repr

/-- The 25 page types of R51. -/
inductive PageType where
  | pnl | die | dvt | mq | hst | pwr | thm | drw | rpr | cyc | clp | ldr | vnr | bnd | ln | gau | trg | cap | meas
  | trc | cc | wd | ring | pin | edl
  deriving DecidableEq, Repr

/-- A page: its type and its PG_ID.INSTANCE (R52): for a die page the die in bits 11:10 and the number in 9:0. -/
structure PageId where
  ty : PageType
  inst : Nat
  deriving DecidableEq, Repr

/-- Which Dowel executes, and at which step of the execution: die, physical Panel, Dowel, step (R57, R71). -/
structure DowelAt where
  die : Nat
  panel : Nat
  dowel : Nat
  step : Nat
  deriving DecidableEq, Repr

/-- How a die-link module's training ended (R129, R130): the lanes that failed in its one direction, and whether the
training succeeded. -/
structure TrainResult where
  lanes : Nat
  ok : Bool
  deriving DecidableEq, Repr

/-- What the wires of a die link did to one frame (R131, R133): the bits of the delivered frame that differ, and
what the eight SECDED decoders found (bit j for codeword j; the code itself is not given).
DESIGN CHOICE (log 19; safe). -/
structure LinkNoise where
  flips : BitVec 640
  corrected : BitVec 8
  uncorrectable : BitVec 8
  deriving DecidableEq, Repr

/-- Who asks Veneer for a line (R254, R269). -/
inductive VRequester where
  | queue (q : Nat)
  | host
  | core (c : Nat)
  | loader
  | capture
  deriving DecidableEq, Repr

/-- The IDENT packet of a partner (R314): device serial, Cabinet identifier, bundle number, LOCKED, the Cabinet step
count it carries, its SEEN flag, and the receiver's own count when the packet is applied. -/
structure IdentPacket where
  serial : Word64
  cabId : Word
  bundle : BitVec 3
  locked : Bool
  count : Word64
  seen : Bool
  at_ : Word64
  deriving DecidableEq, Repr

/-- A TOPO packet (R321): the originating device's serial, its VERSION, and its six bundles: the serial and bundle
number of the device each is UP to, or none. -/
structure TopoEntry where
  serial : Word64
  version : BitVec 16
  nbrs : List (Option (Word64 × BitVec 3))
  deriving DecidableEq, Repr

/-- What a checker found in 2^24 PRBS bits of a receive lane: that it locked, and the errors (R317, R322). -/
structure LaneCheck where
  locked : Bool
  errors : Nat
  deriving DecidableEq, Repr

/-- The check of one lane of a bundle (R322, R326). -/
structure LaneChecked where
  lane : Nat
  check : LaneCheck
  deriving DecidableEq, Repr

/-- What the partner's training blocks show (R313, R317): its DONE, its LOCKED, and its step clock in MHz. -/
structure PartnerClock where
  done : Bool
  locked : Bool
  mhz : Nat
  deriving DecidableEq, Repr

/-- A receive lane that lost its clock recovery for 1 µs, and whether its signal went too (R320, R325); the same for several
lanes at once. -/
structure LaneLoss where
  lane : Nat
  signal : Bool
  deriving DecidableEq, Repr
structure LanesLoss where
  lanes : BitVec 9
  signal : BitVec 9
  deriving DecidableEq, Repr

/-- One of the messages of a vote round on a bundle (R304, R307): its number k, and the copy that came in frames, where it is
not taken from BUNDLE_FRAME. -/
structure VoteCopy where
  k : Nat
  msg : Option (BitVec 50)
  deriving DecidableEq, Repr

/-- How a stop sequence ends: the page, and whether its block could stop (R38, R41); of a CC_ page, whether the 100 µs in
which its core may end the item it holds have passed (R413). -/
structure StopEnd where
  page : PageId
  ok : Bool
  timeUp : Bool
  deriving DecidableEq, Repr

/-- A post window of the dispatcher (R420): the host's or a core's. -/
inductive PostWindow where
  | host
  | core (c : Nat)
  deriving DecidableEq, Repr

/-- What the dispatcher tries to place (R423): what waits in a post window, or in the result slot of a core. -/
inductive PlaceFrom where
  | window (w : PostWindow)
  | slot (c : Nat)
  deriving DecidableEq, Repr

/-- What a ring packet meets on its way (R437): a flit of it fails parity on a ring (its RING_ page), at a stop. -/
inductive RingFault where
  | none
  | parity (ring stop : Nat)
  deriving DecidableEq, Repr

/-- A response packet: the response buffer that it is for, and what it meets on its way. -/
structure RingAnswer where
  tag : Nat
  fault : RingFault
  deriving DecidableEq, Repr

/-- A header that waits on the ring: the response buffer of its request; and, for a request that a unit of H is still to make,
whether it is that of the answer. -/
structure RingHeader where
  tag : Nat
  answer : Bool
  deriving DecidableEq, Repr

/-- What befalls a TLP of the host on the link (R478): nothing; a receiver error or a damaged TLP, which the link sends again; a
damaged DLLP beside it; the replay number rolling over, or the replay timer running out, of what the function sends; a sequence
number that breaks the protocol; a TLP whose ECRC does not fit; or one that is malformed. -/
inductive TlpFault where
  | none
  | receiver
  | badTlp
  | badDllp
  | replayRollover
  | replayTimeout
  | dlProtocol
  | ecrc
  | malformed
  deriving DecidableEq, Repr

/-- What a host access meets: its TLP on the link (R478), and its packets on the ring (R437), of the first packet of several. -/
structure HostTrip where
  out : RingFault
  back : RingFault
  link : TlpFault
  deriving DecidableEq, Repr

/-- A host request to BAR0: a write or a read, whether a write's TLP is poisoned (R478), and its way over the ring. -/
structure HostAccess where
  wr : Bool
  poisoned : Bool
  trip : HostTrip
  deriving DecidableEq, Repr

/-- The length of a host read of BAR2, and its way over the ring. -/
structure HostSpan where
  len : Nat
  trip : HostTrip
  deriving DecidableEq, Repr

/-- Whether a host write TLP is poisoned (R475), and its way over the ring. -/
structure HostTlp where
  poisoned : Bool
  trip : HostTrip
  deriving DecidableEq, Repr

/-- What the target system drives onto the 384 target balls (R445): which balls it drives, and at what level. -/
structure TargetLevels where
  drv : BitVec 384
  lvl : BitVec 384
  deriving DecidableEq, Repr

/-- What comes to hold for MSI-X messages (R483): one vector is unmasked, the function is unmasked, or Bus Master
Enable is set. The last two are configuration writes; no row of the table is for configuration requests, and this one carries
the others too (R469): a write of a double word with its byte enables, and a read.
DESIGN CHOICE (log 37; unsafe). -/
inductive MsixUnmask where
  | vector (v : Nat)
  | function
  | busMaster
  | config (off : Nat) (be : BitVec 4) (v : BitVec 32)
  | configRead (off : Nat)
  deriving DecidableEq, Repr

/-- What start-up finds (R515, R522, R524): the Panels that fail BIST, as (die, physical Panel). -/
structure StartupFindings where
  bistFails : List (Nat × Nat)
  deriving DecidableEq, Repr

/-- One power sample (R502): supply millivolts, milliamps, milliwatts, and milliwatts of the eight rails. -/
structure PowerReading where
  mv : BitVec 16
  ma : BitVec 17
  mw : BitVec 20
  rails : List (BitVec 20)
  deriving DecidableEq, Repr

/-- The cells of the boundary register (R543): three for each of the 384 target pins, then one for each control ball other than
those of the test port, PERST# and TAMPER. -/
abbrev BoundaryCells := BitVec 1154

/-- A scan of the boundary register: the cells shifted in, and what the target and the board drive as the cells are captured, PERST#
and TAMPER as levels. -/
structure BoundaryScan where
  cells : BoundaryCells
  target : TargetLevels
  perst : Bool
  tamper : Bool
  deriving DecidableEq, Repr

/-- The commands. Each docstring gives the row's mnemonic, the rule the table names for it, and the row's summary. -/
inductive Instr where
  /-- REGISTER_WRITE (R548). A write to a register that has no row of its own applies its RW and RWL fields and then its commands in ascending bit order, under the reserved-field, freeze and lock rules. -/
  | registerWrite (rq : Requester) (p : PageId) (off : Nat) (be : BitVec 4) (v : BitVec 32)
  /-- LOWER_HALF_READ (R34). A read of the lower register of a 64-bit quantity copies the upper half into the requester's holding register. -/
  | lowerHalfRead (rq : Requester) (p : PageId) (off : Nat)
  /-- BROADCAST_READ (R56). A broadcast read returns the OR of the register over every addressed instance, and 0 when no instance is addressed. -/
  | broadcastRead (rq : Requester) (code : Nat) (off : Nat)
  /-- BROADCAST_WRITE (R54). A broadcast write acts on every addressed instance exactly as a direct write to that instance would. -/
  | broadcastWrite (rq : Requester) (code : Nat) (off : Nat) (be : BitVec 4) (v : BitVec 32)
  /-- PG_CTL_EN (R40). A write to PG_CTL.EN sets the requested state; an OFF or ON page then begins its start or stop sequence. -/
  | pgCtlEn (rq : Requester) (p : PageId) (en : Bool)
  /-- PG_CTL_SRST (R46). SRST written while the page is OFF and unlocked returns the page to its reset contents, keeping locked pins; outside OFF it sets SEQ_FAIL. -/
  | pgCtlSrst (rq : Requester) (p : PageId)
  /-- PG_CTL_LOCK (R47). A write of 1 to PG_CTL.LOCK freezes every RWL field of the page and SRST, from the next write. -/
  | pgCtlLock (rq : Requester) (p : PageId)
  /-- PG_STICKY_CLEAR (R44). A W1C write clears PG_STICKY bits; an event in the same period leaves its bit at 1. -/
  | pgStickyClear (rq : Requester) (p : PageId) (v : BitVec 32)
  /-- PG_FIRST_CLEAR (R43). Writing 1 to PG_FIRST.VALID clears PG_FIRST and moves PG_SECOND into it. -/
  | pgFirstClear (rq : Requester) (p : PageId)
  /-- PG_SECOND_CLEAR (R43). Writing 1 to PG_SECOND.VALID clears PG_SECOND only. -/
  | pgSecondClear (rq : Requester) (p : PageId)
  /-- START_SEQUENCE_END (R38). A start sequence ends: the page enters ON, or OFF on failure, and begins the opposite sequence at once if EN now differs. -/
  | startSequenceEnd (p : PageId) (ok : Bool)
  /-- STOP_SEQUENCE_END (R38). A stop sequence ends: the page enters OFF, and begins a start sequence at once if EN is 1; one that could not complete sets SEQ_FAIL (R41). -/
  | stopSequenceEnd (e : StopEnd)
  /-- DVT_START_COMPLETE (R143). A DVT_ page waiting in STARTING completes its start once its die's DIE_ page is ON. -/
  | dvtStartComplete (die : Nat)
  /-- CYC_START_CHECKS (R177). After its waits, the CYC_ start sequence checks its conditions and either fails with a reason or sets CYC_COUNT to 0 and enters ON. -/
  | cycStartChecks (timeout : Bool)
  /-- CYC_STOP (R179). The CYC_ stop sequence raises HOST_HOLD and ends in OFF once the Cabinet is held at a boundary. -/
  | cycStop
  /-- NOP (R75). NOP reads nothing, writes no slot and gives result 0. -/
  | nop (d : DowelAt)
  /-- EVAL (R76). EVAL looks up the truth table with operands a, b, c and d, applies INV and writes slot s unless KEEP is 1. -/
  | eval (d : DowelAt)
  /-- EVALC (R77). EVALC computes a sum bit using the carry-in of the Dowel below, or operand d at a chain head. -/
  | evalc (d : DowelAt)
  /-- PRD (R84). PRD delivers its result to a read address bit or to the read strobe of the Panel RAM. -/
  | prd (d : DowelAt)
  /-- PWR (R86). PWR delivers its result to a write address, data or protect bit, or to the write strobe. -/
  | pwr (d : DowelAt)
  /-- MEMQ (R90). MEMQ delivers its result to one request bit of a memory queue of the Panel's die. -/
  | memq (d : DowelAt)
  /-- PROBE (R91). PROBE delivers its result to one bit of the Panel's probe register. -/
  | probe (d : DowelAt)
  /-- PINO (R92). PINO delivers its result to one output data or enable bit of the Panel. -/
  | pino (d : DowelAt)
  /-- STOPIF (R93). STOPIF with result 1 raises the Panel's stop request and ORs in the stop code. -/
  | stopif (d : DowelAt)
  /-- TRIGB (R91). TRIGB delivers its result to one bit of the Panel's trigger register. -/
  | trigb (d : DowelAt)
  /-- RESERVED_OPCODE (R94). An instruction with OP 10 to 15 gives result 0, writes its slot unless KEEP is 1, and sets OPC_RSVD. -/
  | reservedOpcode (d : DowelAt)
  /-- SCRUB (R138). In a step without fetches, the scrubber reads the next instruction word of each Dowel of an ON Panel. -/
  | scrub (die : Nat) (panel : Nat)
  /-- EXPORT_RECORD (R115). In slack steps N to N+4, each Panel sends its probe, trigger and toggle-count bytes to H. -/
  | exportRecord (die : Nat) (panel : Nat)
  /-- CROSSBAR_ROW (R124). At row c, a die crossbar gives each destination the bit named by its source code. -/
  | crossbarRow (g : Nat) (row : Nat)
  /-- BUNDLE_SLOT_ROW (R134). At row h, H applies the bundle slot map between hub channels and bundle Dovetail slots. -/
  | bundleSlotRow (row : Nat)
  /-- DIE_LINK_FRAME (R133). A die-link receiver checks SECDED, the CRC and the header of each received frame and delivers or zeroes its payload. -/
  | dieLinkFrame (die : Nat) (m : Nat) (atHub : Bool) (t : Nat) (noise : LinkNoise)
  /-- DL_LANE (R133). A lane lost while a module is up takes the module down, sets DL_LANE and raises FAULT. -/
  | dlLane (die : Nat) (m : Nat) (lane : Nat) (atHub : Bool)
  /-- DIE_LINK_RETRAIN (R142). A write of DIE_LINK_CTL.RETRAIN retrains the die's modules while the CYC_ page is not ON, and otherwise sets SEQ_FAIL. -/
  | dieLinkRetrain (rq : Requester) (die : Nat)
  /-- DIE_LINK_TRAINING_END (R129). Training of a die's modules ends within 1 ms, with each module up or down. -/
  | dieLinkTrainingEnd (die : Nat) (m : Nat) (failed : TrainResult) (failedRx : Nat)
  /-- DECISION_STEP (R147). At step D each device casts its vote: the set of Clamp causes live on the device. -/
  | decisionStep
  /-- VOTE_RELAY (R304). At V + 48k, a device sends the round's vote message again, with CAUSE ORed over all messages of the round received so far. -/
  | voteRelay (v : BitVec 64) (k : Nat)
  /-- VOTE_MESSAGE (R307). A receiver takes a round's vote message from the frame copy or the spare-lane copy and ORs it into the Cabinet vote. -/
  | voteMessage (b : Nat) (v : BitVec 64) (frame : VoteCopy) (spare : Option (BitVec 128))
  /-- CONFIRM_STEP (R148). At step C every device holds the Cabinet vote of step D. -/
  | confirmStep
  /-- COMMIT_STEP (R163). At step Q each device commits or discards the execution according to the Cabinet vote. -/
  | commitStep
  /-- BOUNDARY (R157). At T the next execution begins, either cycle n+1 or cycle n again, or hold slots begin. -/
  | boundary
  /-- RELEASE_VOTE (R160). During a hold, or before cycle 0, each device casts a release vote CLP_PROP steps before a release point. -/
  | releaseVote
  /-- RELEASE_POINT (R160). At a release point the hold ends if its release vote held no cause, and otherwise another slot follows. -/
  | releasePoint
  /-- CLP_HOST_HOLD (R156). A write to CLP_HOST_HOLD.HOLD raises or withdraws HOST_HOLD, deferred while a commit, snapshot or restore runs. -/
  | clpHostHold (rq : Requester) (hold : Bool)
  /-- CLP_RELEASE_FAULT (R175). Writing 1 to CLP_RELEASE.FAULT clears FAULT on the device and resets CURRENT. -/
  | clpReleaseFault (rq : Requester)
  /-- CLP_RELEASE_STOPIF (R156). Writing 1 to CLP_RELEASE.STOPIF clears STOPIF on the device. -/
  | clpReleaseStopif (rq : Requester)
  /-- CLP_RELEASE_TRIG_STOP (R156). Writing 1 to CLP_RELEASE.TRIG_STOP clears TRIG_STOP on the device. -/
  | clpReleaseTrigStop (rq : Requester)
  /-- CLP_PROP_WRITE (R180). A write to CLP_PROP or CLP_REPLAY_MAX while the CYC_ page is not OFF is ignored and sets SEQ_FAIL. -/
  | clpPropWrite (rq : Requester) (max : Bool) (v : BitVec 32)
  /-- QUEUE_ISSUE (R277). At step N+8 each ON queue takes its record, issues its reads and holds its writes until Q. -/
  | queueIssue (die : Nat) (q : Nat)
  /-- MEMORY_RESPONSE (R280). A queue's response arrives once every read of its record has completed, successfully or with a bus error. -/
  | memoryResponse (die : Nat) (q : Nat)
  /-- GO (R224). Writing 1 to LDR_CTL.GO in IDLE begins a load from the ring, and in any other state sets SEQ_FAIL. -/
  | go (rq : Requester)
  /-- END (R224). Writing 1 to LDR_CTL.END marks the end of the host stream. -/
  | endStream (rq : Requester)
  /-- STREAM_END (R224). Once END is written and LDR_RD_PTR has reached LDR_WR_PTR, the stream ends. -/
  | streamEnd
  /-- ABORT (R239). Writing 1 to LDR_CTL.ABORT abandons the load according to the load state. -/
  | abort (rq : Requester)
  /-- COMMIT (R238). Writing 1 to LDR_CTL.COMMIT in READY orders the commit, and in any other state sets SEQ_FAIL. -/
  | commit (rq : Requester)
  /-- SRC_SELECT (R228). A write to LDR_CTL.SRC chooses whether the ring takes data from the host or from LDR_DATA. -/
  | srcSelect (rq : Requester) (src : Bool)
  /-- LDR_WR_PTR_WRITE (R223). A host write to LDR_WR_PTR hands units to the loader, and is refused when it would overfill the ring or SRC is 1. -/
  | ldrWrPtrWrite (rq : Requester) (v : BitVec 32)
  /-- LDR_DATA (R226). An Update-DR of test-port instruction LDR_DATA appends 32 bits to the ring. -/
  | ldrData (w : BitVec 32)
  /-- LDR_CTRL (R227). An Update-DR of test-port instruction LDR_CTRL acts as one LDR_CTL write of SRC, GO, END, ABORT and COMMIT. -/
  | ldrCtrl (w : BitVec 8)
  /-- SEGMENT_PREFIX (R229). As a segment's prefix arrives, the loader tests its soundness, serial, chain fields and key slot. -/
  | segmentPrefix
  /-- TAG_VERIFY (R230). Once all of a segment's bytes have arrived, the GCM tag is verified and the load moves to CHECK or is refused. -/
  | tagVerify
  /-- CHECK_END (R231). Checking of an authenticated segment ends, and the device commits, forwards, reports READY or refuses. -/
  | checkEnd
  /-- CHAIN_START (R231). A START message starts a load on an IDLE device, or is answered FAIL with code 0xD. -/
  | chainStart (b : Nat) (pos : Nat) (loadId : BitVec 32)
  /-- CHAIN_END (R236). An END message ends the forwarded stream, refusing with LD_TRUNC where bytes are missing. -/
  | chainEnd
  /-- CHAIN_READY (R231). A READY from downstream is passed upstream, or at the head leads to COMMIT. -/
  | chainReady
  /-- CHAIN_FAIL (R237). A FAIL from downstream is passed upstream unchanged, and the device discards its segment with LD_CHAIN. -/
  | chainFail (pos : Nat) (code : Nat) (check : Nat)
  /-- CHAIN_COMMIT (R238). A COMMIT message in READY is passed downstream and the device enters COMMIT_WAIT. -/
  | chainCommit (loadId : BitVec 32)
  /-- CHAIN_ABORT (R551). An ABORT from upstream abandons the load according to the receiving device's state. -/
  | chainAbort (pos : Nat) (loadId : BitVec 32)
  /-- CHAIN_DONE (R240). A DONE message is relayed upstream, and the head sets its bit in LDR_CHAIN_ACK. -/
  | chainDone (pos : Nat)
  /-- CHAIN_TIMEOUT (R235). No downstream answer within LDR_CHAIN_TMO after END acts as FAIL with code 0xE. -/
  | chainTimeout
  /-- COMMIT_BEGIN (R241). A device in COMMIT_WAIT begins its commit once its CYC_ page is OFF, or the device is held for a partial image. -/
  | commitBegin
  /-- COMMIT_END (R244). The image has been written into the device; IMAGE is set, DONE is sent upstream and the load ends with LD_OK. -/
  | commitEnd
  /-- BURN (R219). Writing 1 to LDR_KEY_CTL.BURN programs fuse slot SLOT from LDR_KEY_DATA, or is refused with KEY_FAIL. -/
  | burn (rq : Requester) (slot : BitVec 2)
  /-- RETIRE (R219). Writing 1 to LDR_KEY_CTL.RETIRE permanently retires fuse slot SLOT. -/
  | retire (rq : Requester) (slot : BitVec 2)
  /-- BATT_WRITE (R220). Writing 1 to LDR_KEY_CTL.BATT_WRITE copies LDR_KEY_DATA into the battery slot and makes it valid. -/
  | battWrite (rq : Requester)
  /-- BATT_CLEAR (R220). Writing 1 to LDR_KEY_CTL.BATT_CLEAR clears the battery slot. -/
  | battClear (rq : Requester)
  /-- TAMPER (R541). TAMPER held high for 100 µs fires the tamper input and clears the battery slot. -/
  | tamper
  /-- VBAT_LOW (R220). VBAT falling below 2.5 V clears the battery slot. -/
  | vbatLow
  /-- LINE_ACCESS (R254). Veneer handles one line access of a requester: it checks region, access, key and integrity, then performs the access or fails it. -/
  | lineAccess (who : VRequester) (line : Nat) (wr : Option (BitVec 512 × BitVec 64))
  /-- REGION_ENABLE (R256). Writing 1 to VNR_RGN_CFG.EN enables a region, or is refused with CFG_ERR. -/
  | regionEnable (rq : Requester) (stack : Nat) (rgn : Nat)
  /-- GENERATE (R265). GENERATE draws fresh keys for an EMPTY key ID and makes it ACTIVE. -/
  | generate (rq : Requester) (id : BitVec 4)
  /-- FLUSH (R266). FLUSH makes an ACTIVE key ID FLUSHING. -/
  | flush (rq : Requester) (id : BitVec 4)
  /-- FLUSH_END (R266). Once the ID's writes and counter blocks are in HBM, the ID returns to ACTIVE. -/
  | flushEnd (id : Nat)
  /-- VNR_RETIRE (R267). RETIRE makes an ACTIVE key ID RETIRING. -/
  | vnrRetire (rq : Requester) (id : BitVec 4)
  /-- RETIRE_END (R267). Once accepted accesses complete, the keys are erased, the ID becomes EMPTY and its Sealed regions become UNSEALED. -/
  | retireEnd (id : Nat)
  /-- SEAL (R263). SEAL starts sealing a region under a new GEN, or is refused with CFG_ERR. -/
  | seal (rq : Requester) (stack : Nat) (region : BitVec 4) (zero : Bool)
  /-- SEAL_END (R263). The seal ends and the region's STATE becomes READY. -/
  | sealEnd (stack : Nat)
  /-- BUNDLE_FRAME (R301). A bundle receiver decodes a frame and checks its header, delivering or zeroing its slots. -/
  | bundleFrame (b : Nat) (cnt : BitVec 64) (raw : BitVec 531)
  /-- LOSS_OF_ALIGNMENT (R320). 64 consecutive failed frames with signal present set LOSS and return the bundle to DETECT. -/
  | lossOfAlignment (b : Nat)
  /-- DATA_UNIT (R311). A DATA unit or LOAD frame delivers forwarded image bytes to the receiving loader. -/
  | dataUnit (b : Nat) (bytes : List (BitVec 8))
  /-- RETRY (R310). A received RETRY makes the sender send RESUME and resend from the named unit. -/
  | retry (b : Nat) (unit : BitVec 24)
  /-- RETRY_RESEND (R310). Every 256 steps the receiver sends an outstanding RETRY again. -/
  | retryResend (b : Nat)
  /-- RESUME (R310). A RESUME carrying the awaited number ends the outstanding RETRY. -/
  | resume (b : Nat) (unit : BitVec 24)
  /-- LANEMAP (R326). A LANEMAP that arrives at least 64 steps before its switch count schedules the new transmit lane map. -/
  | lanemap (b : Nat) (failed : Nat) (spare : Nat) (sw : BitVec 16)
  /-- TIME (R315). A received TIME packet fills the BND_TS_ registers while FULL is 0, or increments MISS. -/
  | time (b : Nat) (seq : BitVec 8) (tx : BitVec 64) (echoSeq : BitVec 8) (echoRx : BitVec 64)
  /-- TIME_TIMER (R315). Every INTERVAL µs the device sends a TIME packet on every UP bundle. -/
  | timeTimer
  /-- STATE (R309). A received STATE packet tells whether the partner's CYC_ page is OFF, which sets the load mode of the direction. -/
  | state (b : Nat) (off : Bool)
  /-- STATE_TIMER (R309). Every 65,536 steps the device sends STATE on every UP bundle. -/
  | stateTimer
  /-- IDENT (R318). A received IDENT is checked for self, Cabinet, facing bundle and count, and may bring the bundle UP. -/
  | ident (b : Nat) (pk : IdentPacket)
  /-- IDENT_RESEND (R318). In IDENT, each end sends IDENT every 256 steps. -/
  | identResend (b : Nat)
  /-- TOPO (R321). A received TOPO updates the topology table and is relayed when its VERSION is newer. -/
  | topo (b : Nat) (pk : TopoEntry)
  /-- TOPO_TIMER (R321). Every 2^24 steps the device sends TOPO on every UP bundle. -/
  | topoTimer
  /-- TOPO_STABLE (R321). After 2^24 steps without a change, the topology table becomes STABLE. -/
  | topoStable
  /-- MESH (R329). A received MESH packet is held for firmware, or dropped with MESH_DROP when 8 are held. -/
  | mesh (b : Nat) (tag : BitVec 4) (data : BitVec 128)
  /-- ATTACH (R316). Signal on at least 8 receive lanes for 1 ms takes a bundle from DETECT to LANE_TRAIN and sets ATTACH. -/
  | attach (b : Nat) (lanes : BitVec 9)
  /-- LANE_VERDICT (R317). Once both ends have given their lane verdicts, the lane map is set, or the bundle fails with LANES. -/
  | laneVerdict (b : Nat) (own : List LaneCheck) (partner : BitVec 9) (clock : PartnerClock)
  /-- CLOCK_LOCK (R313). A FOLLOW device locks its step clock to its upstream bundle and becomes LOCKED. -/
  | clockLock
  /-- ALIGN_DONE (R316). When every lane is deskewed and 256 frames have decoded, the bundle moves from ALIGN to IDENT. -/
  | alignDone (b : Nat) (flight : Nat)
  /-- TRAINING_TIMEOUT (R316). A training stage not finished within its limit sends the bundle to FAILED with a reason. -/
  | trainingTimeout (b : Nat) (flight : Nat)
  /-- FAILED_RESTART (R316). One second after entering FAILED, a bundle starts again at DETECT. -/
  | failedRestart (b : Nat)
  /-- DETACH (R320). Loss of signal on two or more lanes within 1 µs is a detach, and the bundle returns to DETECT. -/
  | detach (b : Nat) (loss : LanesLoss)
  /-- LANE_FAIL (R325). An active receive lane without signal for 1 µs fails and starts a failover, with REPLAY raised. -/
  | laneFail (b : Nat) (loss : LaneLoss)
  /-- SPARE_CHECK_END (R326). The check of 2^24 spare bits ends, and more than 16 errors mark the bundle degraded. -/
  | spareCheckEnd (b : Nat) (found : LaneChecked)
  /-- FAILOVER_LANEMAP (R326). Once the device is held, it sends LANEMAP with the switch count SW. -/
  | failoverLanemap (b : Nat)
  /-- LANEMAP_SWITCH (R326). At count SW the partner, and at SW + 32 the device, apply the new lane map. -/
  | lanemapSwitch (b : Nat) (rx : Bool)
  /-- LANEMAP_RESEND (R326). After 512 steps without a good frame, the device sends a new LANEMAP. -/
  | lanemapResend (b : Nat)
  /-- FAILOVER_END (R326). The 256th consecutive good frame under the new map ends the failover and clears its REPLAY. -/
  | failoverEnd (b : Nat)
  /-- FAILOVER_TIMEOUT (R326). A failover not ended within 2 ms marks the bundle degraded. -/
  | failoverTimeout (b : Nat)
  /-- BND_RETRAIN (R319). Writing 1 to BND_CTL.RETRAIN takes an UP bundle back to DETECT while the CYC_ page is OFF. -/
  | bndRetrain (rq : Requester) (b : Nat)
  /-- FAILOVER (R325). Writing 1 to BND_CTL.FAILOVER fails receive lane FAIL_LANE, or is refused with SEQ_FAIL. -/
  | failover (rq : Requester) (b : Nat) (lane : BitVec 4)
  /-- TRAIN_EN (R328). A write to BND_CTL.TRAIN_EN holds the bundle DOWN or lets it train; writing 0 clears DEGRADED. -/
  | trainEn (rq : Requester) (b : Nat) (en : Bool)
  /-- BND_INJ_ARM (R323). Writing 1 to BND_INJ.ARM corrupts SYMBOLS information symbols of the next frame sent. -/
  | bndInjArm (rq : Requester) (b : Nat) (symbols : BitVec 3)
  /-- LN_INJ (R323). Writing 1 to LN_CTL.INJ inverts one PRBS bit on the lane's transmitter. -/
  | lnInj (rq : Requester) (lane : Nat)
  /-- LN_TEST_WRITE (R324). A write of LN_CTL.LOOP or PRBS_ON enters or leaves a loop or PRBS test, or is refused with SEQ_FAIL. -/
  | lnTestWrite (rq : Requester) (lane : Nat) (loop : BitVec 2) (prbs : BitVec 2) (prbsOn : Bool)
  /-- MESH_SEND (R329). Writing 1 to BND_MESH_CTL.SEND sends BND_MESH_TX with TAG. -/
  | meshSend (rq : Requester) (b : Nat) (tag : BitVec 4)
  /-- MESH_POP (R329). Writing 1 to BND_MESH_CTL.POP discards the oldest MESH packet held. -/
  | meshPop (rq : Requester) (b : Nat)
  /-- BND_TS_ACK (R315). Writing 1 to BND_TS_ACK clears FULL. -/
  | bndTsAck (rq : Requester) (b : Nat)
  /-- BND_CLK_WRITE (R313). A change of BND_CLK MODE or UPSTREAM while the CYC_ page is OFF retrains every bundle. -/
  | bndClkWrite (rq : Requester) (mode : Bool) (upstream : BitVec 3)
  /-- GAU_INC (R335). A write to the upper register of GAU_INC makes the 40-bit value the new increment. -/
  | gauInc (rq : Requester) (k : Nat) (v : BitVec 32)
  /-- GAU_ADJ (R336). A write to the upper register of GAU_ADJ adds a signed value to the Gauge and sets STEPPED. -/
  | gauAdj (rq : Requester) (k : Nat) (v : BitVec 32)
  /-- GAU_SET (R336). A write to the upper register of GAU_SET replaces the Gauge value and sets STEPPED. -/
  | gauSet (rq : Requester) (k : Nat) (v : BitVec 32)
  /-- GAU_CTL_SRC (R346). A write of GAU_CTL SRC, EDGE or FALL changes the source, entering holdover or ending it. -/
  | gauCtlSrc (rq : Requester) (k : Nat) (src : BitVec 2) (edge : BitVec 5) (fall : Bool)
  /-- PPS_EDGE (R343). A PPS edge is tested against the period and, when valid, sets the new increment. -/
  | ppsEdge (k : Nat)
  /-- TCLK_WINDOW_END (R345). At the end of a TCLK window the edge count is tested, and a valid window sets the new increment. -/
  | tclkWindowEnd (k : Nat)
  /-- PPS_LOST (R346). No valid PPS edge within 2 × Π ns puts the Gauge in holdover with reason LOST. -/
  | ppsLost (k : Nat)
  /-- GAU_EVT_ARM (R354). A write of ARM in GAU_EVT_CTL arms or disarms an event unit, or is refused with CFG_ERR. -/
  | gauEvtArm (rq : Requester) (k : Nat) (arm : Bool)
  /-- ONE_SHOT_FIRE (R351). A one-shot unit fires at the first tick at which A is due. -/
  | oneShotFire (k : Nat)
  /-- PERIODIC_FIRE (R352). A periodic unit fires when A is due and advances A by B, counting skipped firings. -/
  | periodicFire (k : Nat)
  /-- WINDOW_FIRE (R353). A window unit fires when its output becomes active at A, and goes inactive at B. -/
  | windowFire (k : Nat)
  /-- PULSE_END (R351). A pulse ends at the first tick at which the firing time plus WIDTH is due. -/
  | pulseEnd (k : Nat)
  /-- CYCLE_RECORD (R368). At Q, H assembles a committed cycle's record and passes it to the averager, sequencer, measurement units and capture. -/
  | cycleRecord
  /-- CAPTURE_WRITE (R385). A posted capture write completes, and a Veneer bus error puts the unit in ERROR. -/
  | captureWrite
  /-- TRG_CTL_ARM (R377). ARM written from 0 to 1 resets the sequencer to state 0. -/
  | trgCtlArm (rq : Requester) (arm : Bool)
  /-- CAP_CTL_ARM (R380). ARM written from 0 to 1 starts capture in PRE, or is refused with CFG_ERR. -/
  | capCtlArm (rq : Requester) (arm : Bool)
  /-- MEAS_CTL_ARM (R386). ARM written from 0 to 1 clears the measurement results, or is refused with CFG_ERR. -/
  | measCtlArm (rq : Requester) (k : Nat) (arm : Bool)
  /-- TRG_ACT_CTL_WRITE (R388). Writing EN = 1 or K restarts the block counting of the averager. -/
  | trgActCtlWrite (rq : Requester) (v : BitVec 32)
  /-- SNAP (R390). Writing 1 to CAP_CTL.SNAP starts a snapshot, or is refused with CFG_ERR. -/
  | snap (rq : Requester)
  /-- SNAP_END (R391). A snapshot ends with SNAP_DONE and CAP_SNAP_LEN, or with SNAP_FAIL on a bus error. -/
  | snapEnd
  /-- RESTORE (R393). Writing 1 to CAP_CTL.RESTORE starts a restore, or is refused with CFG_ERR. -/
  | restore (rq : Requester)
  /-- RESTORE_PASS_END (R393). The first pass of a restore ends and starts the writing pass, or fails with RESTORE_FAIL. -/
  | restorePassEnd
  /-- RESTORE_END (R394). The second pass ends with RESTORE_DONE, or with RESTORE_FAIL and RESTORE_BAD. -/
  | restoreEnd
  /-- TRC_CTL_RUN (R395). RUN written from 0 to 1 starts a trace with SYNC and TIMESTAMP, and a write of 0 writes STOP. -/
  | trcCtlRun (rq : Requester) (c : Nat) (run : Bool)
  /-- TRC_CTL_TRIG (R400). Writing 1 to TRC_CTL.TRIG is the trace trigger when TRIG_SRC is 3. -/
  | trcCtlTrig (rq : Requester) (c : Nat)
  /-- TRC_AUTH (R398). A write to TRC_AUTH takes effect only from a core in machine mode, and is otherwise denied with AUTH_DENIED. -/
  | trcAuth (rq : Requester) (c : Nat) (m : Bool)
  /-- TRACE_SYNC (R399). After 4,096 bytes since the last SYNC, a SYNC packet is written. -/
  | traceSync (c : Nat)
  /-- TRACE_TIMESTAMP (R399). A TIMESTAMP is written when the last one plus TRC_TS_INTERVAL is due on Gauge 0. -/
  | traceTimestamp (c : Nat)
  /-- TRACE_STOP (R400). TRC_POST bytes after the trigger, the unit writes STOP and stops. -/
  | traceStop (c : Nat)
  /-- TRACE_OVERFLOW (R401). When room returns after dropped packets, the unit writes OVERFLOW, SYNC and TIMESTAMP. -/
  | traceOverflow (c : Nat)
  /-- CORE_INSTRUCTION (R408). A control core executes one RISC-V instruction. -/
  | coreInstruction (c : Nat)
  /-- WFI (R414). WFI puts the core in core sleep, and the trace unit writes POWERDOWN. -/
  | wfi (c : Nat)
  /-- CORE_WAKE (R414). A sleeping core wakes on any interrupt that is pending and enabled. -/
  | coreWake (c : Nat)
  /-- MACHINE_TIMER_INTERRUPT (R409). A machine timer interrupt becomes pending once time reaches CC_MTIMECMP. -/
  | machineTimerInterrupt (c : Nat)
  /-- MACHINE_EXTERNAL_INTERRUPT (R416). A machine external interrupt is pending while an enabled source is asserted. -/
  | machineExternalInterrupt (c : Nat)
  /-- CC_MSIP (R409). A write to CC_MSIP raises or clears the machine software interrupt. -/
  | ccMsip (rq : Requester) (c : Nat) (v : Bool)
  /-- CC_IRQ_LOC_SELECT (R417). A write of CC_IRQ_LOC.SRC selects the source whose first asserting page is located. -/
  | ccIrqLocSelect (rq : Requester) (c : Nat) (src : BitVec 6)
  /-- CC_ALARM_ACK (R418). Writing 1 to CC_ALARM_ACK clears the core's alarm latch. -/
  | ccAlarmAck (c : Nat)
  /-- POST (R420). A write to word 3 of a post window commits one work item as a post and sets BUSY. -/
  | post (w : PostWindow) (word3 : BitVec 32)
  /-- POST_PLACE (R422). A waiting post is placed once its flow and its list have room, and BUSY clears. -/
  | postPlace (p : PlaceFrom)
  /-- DISPATCH (R425). The dispatcher gives the most urgent list head to the lowest idle core that its list names. -/
  | dispatch
  /-- CC_WD_DONE (R426). A write to CC_WD_DONE ends the held item and routes its result. -/
  | ccWdDone (rq : Requester) (c : Nat) (v : BitVec 3)
  /-- FLOW_RELEASE (R427). A flow releases the outcome of its next SEQ and posts any result. -/
  | flowRelease (f : Nat)
  /-- DELAY_TICK (R428). When X is due on its Gauge, delay list NOW advances by one tick. -/
  | delayTick (k : Nat)
  /-- DELAY_LIST_ENABLE (R428). A write of WD_DLY_CFG.EN starts a delay list, or drains it when written 0. -/
  | delayListEnable (rq : Requester) (k : Nat) (en : Bool) (gauge : BitVec 4)
  /-- READ (R433). A READ request packet reaches its destination node and is answered. -/
  | read (src : Nat) (tag : Nat) (fault : RingFault)
  /-- WRITE (R433). A WRITE request packet reaches its destination node and is performed. -/
  | write (src : Nat) (tag : Nat) (fault : RingFault)
  /-- BCAST_WRITE (R436). A BCAST_WRITE is performed in every addressed instance and answered only then. -/
  | bcastWrite (src : Nat) (tag : Nat) (fault : RingFault)
  /-- BCAST_READ (R433). A BCAST_READ returns the OR over the addressed instances. -/
  | bcastRead (src : Nat) (tag : Nat) (fault : RingFault)
  /-- AMO (R433). An AMO request is performed atomically at its destination. -/
  | amo (src : Nat) (tag : Nat) (fault : RingFault)
  /-- RSP_DATA (R434). A data response reaches the requester's response buffer. -/
  | rspData (src : Nat) (a : RingAnswer)
  /-- RSP_ACK (R434). An acknowledge response completes a write at the requester. -/
  | rspAck (src : Nat) (a : RingAnswer)
  /-- RSP_ERR (R434). An error response completes the access with its STATUS. -/
  | rspErr (src : Nat) (a : RingAnswer)
  /-- RING_TIMEOUT (R437). No answer within 2^20 periods completes the access with STATUS 4 and sets TIMEOUT. -/
  | ringTimeout (src : Nat) (tag : Nat)
  /-- BUFFER_QUARANTINE_END (R437). 2^20 periods after a timeout, the response buffer may be reused. -/
  | bufferQuarantineEnd (src : Nat) (tag : Nat)
  /-- URGENCY_RISE (R435). Each 256 periods a header waits, its URG rises by one, and at 7 it sets URG_MAX. -/
  | urgencyRise (src : Nat) (header : RingHeader) (ring : Nat) (stop : Nat)
  /-- ROUTE_TABLE_UPDATE (R436). A route table write takes effect once the interface has no request outstanding to that node. -/
  | routeTableUpdate (node : Nat) (dst : Nat)
  /-- PIN_BANK_VSEL (R443). A write that changes VSEL is accepted only while the page is OFF and no pin is locked. -/
  | pinBankVsel (rq : Requester) (p : Nat) (vsel : BitVec 2)
  /-- PIN_CFG_WRITE (R461). A write of FUNC or SEL switches the pin at once, or at the next step 0 while the CYC_ page is ON. -/
  | pinCfgWrite (rq : Requester) (p : Nat) (pin : BitVec 5) (half : BitVec 16)
  /-- PIN_SAMPLE (R450). In step timing, sample bits are captured 16 steps before an execution's step 0. -/
  | pinSample (t : TargetLevels)
  /-- SAMPLE_INSTANT (R451). In Gauge timing, the port captures its pins when PIN_SMP_T is due and advances it. -/
  | sampleInstant (p : Nat) (t : TargetLevels)
  /-- DRIVE_INSTANT (R453). In Gauge timing, the pads take the pending outputs when PIN_DRV_T is due. -/
  | driveInstant (p : Nat)
  /-- PIN_TIME_WRITE (R455). An upper-half write of a pin timing register puts the 64-bit value in force, or is refused with CFG_ERR. -/
  | pinTimeWrite (rq : Requester) (p : Nat) (which : BitVec 2) (hi : BitVec 32)
  /-- GPIO_WRITE (R456). A write to PIN_GPIO_OUT or PIN_GPIO_OE reaches GPIO pins within 10 ns. -/
  | gpioWrite (rq : Requester) (p : Nat) (oe : Bool) (be : BitVec 4) (v : BitVec 32)
  /-- UART_TX_WRITE (R458). A byte written to PIN_UART_TX is appended to the transmit FIFO, or dropped when it is full. -/
  | uartTxWrite (rq : Requester) (p : Nat) (b : BitVec 8)
  /-- UART_RX_BYTE (R458). A received byte enters the receive FIFO with its error flags, or is dropped when it is full. -/
  | uartRxByte (p : Nat) (b : BitVec 8) (parity : Bool) (stop : Bool)
  /-- UART_POP (R458). Writing 1 to PIN_UART_POP discards the oldest received byte. -/
  | uartPop (rq : Requester) (p : Nat)
  /-- I2C_CMD (R459). A write to PIN_I2C_CMD starts an I2C command, or sets SEQ_FAIL while BUSY. -/
  | i2cCmd (rq : Requester) (p : Nat) (v : BitVec 13)
  /-- I2C_COMMAND_END (R459). An I2C command completes, possibly with ACK_ERR or ARB_LOST. -/
  | i2cCommandEnd (p : Nat) (ack : Bool) (lost : Bool) (rdata : BitVec 8)
  /-- PIN_LOCK_KEY (R463). A write of 0x0000_4C4B to PIN_LOCK_KEY opens a lock sequence for the requester. -/
  | pinLockKey (rq : Requester) (p : Nat) (v : BitVec 32)
  /-- PIN_LOCK (R463). A PIN_LOCK write within 64 periods of the key locks the masked pins, and otherwise sets SEQ_FAIL. -/
  | pinLock (rq : Requester) (p : Nat) (mask : BitVec 32)
  /-- LOCK_KEY_EXPIRY (R463). A lock key lapses 64 periods after it was written. -/
  | lockKeyExpiry (rq : Requester) (p : Nat)
  /-- WAKE_PIN (R465). A wake input held at POL for 1 µs asserts, setting WAKE or waking the device. -/
  | wakePin (k : Nat)
  /-- BAR0_REQUEST (R473). A host BAR0 request is carried out as a register access, or ends as UR with BAR0_ERR. -/
  | bar0Request (op : HostAccess) (addr : Nat) (len : Nat) (data : BitVec 64)
  /-- BAR2_READ (R475). A host BAR2 read is split into lines through Veneer and completes successfully or with Completer Abort. -/
  | bar2Read (addr : Nat) (span : HostSpan)
  /-- BAR2_WRITE (R475). A host BAR2 write performs each succeeding line, and any failure sets BAR2_WR_ERR. -/
  | bar2Write (addr : Nat) (data : List (BitVec 8)) (tlp : HostTlp)
  /-- FUNCTION_LEVEL_RESET (R485). A function-level reset resets the function, MSI-X and the HST_ page. -/
  | functionLevelReset
  /-- FLR_COMPLETE (R486). A function-level reset completes within 1 ms and sets LINK_RST. -/
  | flrComplete
  /-- HOT_RESET (R485). A hot reset resets the function and HST_ page and retrains the link. -/
  | hotReset
  /-- LINK_DOWN_RESET (R485). A link-down reset resets the function and HST_ page and retrains the link. -/
  | linkDownReset
  /-- PERST (R485). PERST# asserted for 100 ns resets the function and HST_ page and retrains the link. -/
  | perst
  /-- LINK_DOWN (R487). The link leaves L0 or L1 without a reset and sets LINK_DOWN. -/
  | linkDown
  /-- D3HOT (R471). Entering D3hot makes BAR0 and BAR2 requests complete as UR. -/
  | d3hot (enter : Bool)
  /-- HST_ALARM_ACK (R482). Writing 1 to HST_ALARM_ACK clears the host alarm latch. -/
  | hstAlarmAck (rq : Requester)
  /-- HST_MSIX_SEND (R483). A control-core write of HST_MSIX_SEND makes a vector event. -/
  | hstMsixSend (rq : Requester) (v : BitVec 7)
  /-- HST_REARM (R483). A write of HST_REARM makes a vector event when the vector's condition is 1. -/
  | hstRearm (rq : Requester) (v : BitVec 7)
  /-- MSIX_UNMASK (R483). Unmasking an entry, or setting Bus Master Enable, sends a pending message and clears its PBA bit. -/
  | msixUnmask (u : MsixUnmask)
  /-- HST_DOORBELL_SET (R481). A write to HST_DOORBELL_SET sets doorbell bits and asserts host source 33. -/
  | hstDoorbellSet (rq : Requester) (v : BitVec 32)
  /-- POWER_ON (R488). Power-on or a wake from Dormant starts start-up. -/
  | powerOn (p : StartupFindings)
  /-- STARTUP_END (R516). At the end of start-up, the step count and counters start, the state is HOLD and pages with EN = 1 start. -/
  | startupEnd
  /-- VSTBY_LOSS (R490). VSTBY falling below 3.0 V puts the device in Off. -/
  | vstbyLoss
  /-- VIN_LOW (R489). VIN between 11.0 V and 11.4 V for 10 µs sets VIN_LOW. -/
  | vinLow
  /-- VIN_UV (R489). VIN below 11.0 V for 10 µs sends the device to Dormant at once. -/
  | vinUv
  /-- VIN_OV (R489). VIN above 13.2 V for 10 µs sends the device to Dormant at once. -/
  | vinOv
  /-- OVERPOWER (R489). Input power above 640 W for 20 µs sends the device to Dormant at once. -/
  | overpower
  /-- REQUEST_HOLD (R491). A write of TARGET 1 to PWR_CMD wakes the device toward Hold. -/
  | requestHold (rq : Requester)
  /-- REQUEST_IDLE (R491). A write of TARGET 2 to PWR_CMD enters Idle from Hold, or is refused with REQ_REFUSED. -/
  | requestIdle (rq : Requester)
  /-- REQUEST_RETAIN (R491). A write of TARGET 3 to PWR_CMD enters Retain from Idle. -/
  | requestRetain (rq : Requester)
  /-- REQUEST_DORMANT (R491). A write of TARGET 4 to PWR_CMD enters Dormant from any state. -/
  | requestDormant (rq : Requester)
  /-- TRANSITION_END (R492). A power-state transition ends, and any pending request is examined. -/
  | transitionEnd
  /-- WAKE_TIMER (R497). The wake timer expires and wakes the device. -/
  | wakeTimer
  /-- BUNDLE_WAKE (R497). Signal on 8 or more receive lanes of a training-enabled bundle wakes an Idle device. -/
  | bundleWake (b : Nat)
  /-- VIN_RESTORED (R497). VIN back in range for 10 ms after VIN_UV wakes the device from Dormant. -/
  | vinRestored
  /-- POWER_SAMPLE (R502). Every 1 µs the device samples VIN, current and power and updates pavg. -/
  | powerSample (m : PowerReading)
  /-- THERMAL_SAMPLE (R506). Every 10 µs the device reads its seven temperature sensors. -/
  | thermalSample (t : List (Option (BitVec 16)))
  /-- PWR_STEP_CLK (R505). A write of PWR_STEP_CLK while the CYC_ page is OFF relocks the step clock and retrains links. -/
  | pwrStepClk (rq : Requester) (mhz : BitVec 11)
  /-- THM_LIMIT_WRITE (R509). A write of THM_LIMIT with any field out of range is ignored and sets CFG_ERR. -/
  | thmLimitWrite (rq : Requester) (v : BitVec 32)
  /-- DRW_RST (R512). A write of 0x5752_5354 to DRW_RST starts a warm reset, and any other value sets SEQ_FAIL. -/
  | drwRst (rq : Requester) (v : BitVec 32) (p : StartupFindings)
  /-- WARM_RST (R512). An Update-DR of test-port instruction WARM_RST with bit 0 set starts a warm reset. -/
  | warmRst (bit : Bool) (p : StartupFindings)
  /-- DRAWER_COMMIT (R520). Writing 1 to DRW_CTL.COMMIT copies the retained registers and writes the working snapshot, or is refused. -/
  | drawerCommit (rq : Requester)
  /-- DRAWER_COMMIT_END (R520). The read-back ends with COMMIT_DONE, or with COMMIT_FAIL on a mismatch. -/
  | drawerCommitEnd (ok : Bool)
  /-- DRAWER_WINDOW_WRITE (R518). A write through the Drawer window lands in the lane table or the user area, or sets WR_DENIED. -/
  | drawerWindowWrite (rq : Requester) (off : Nat) (be : BitVec 4) (v : BitVec 32)
  /-- MARK (R525). A write of RPR_CMD with MARK = 1 marks a Panel for retirement with reason FIRMWARE. -/
  | mark (rq : Requester) (die : Nat) (panel : Nat)
  /-- EXTEST (R544). Update-IR of EXTEST drives the target pads from the boundary register, or selects bypass while the CYC_ page is not OFF. -/
  | extest (scan : BoundaryScan)
  /-- SAMPLE_PRELOAD (R542). The SAMPLE/PRELOAD instruction selects the boundary register. -/
  | samplePreload (scan : BoundaryScan)
  /-- IDCODE (R542). The IDCODE instruction selects the 32-bit identification register. -/
  | idcode
  /-- BYPASS (R542). The BYPASS instruction, or any unlisted code, selects the 1-bit bypass register. -/
  | bypass (code : BitVec 8)
  /-- TEST_LOGIC_RESET (R542). Test-Logic-Reset, entered through TRST# or TMS, selects IDCODE. -/
  | testLogicReset
  /-- REFERENCE_TICK (R333). At each reference tick, every ON Gauge adds GAU_INC_NOW to its value and residue, applies pending ADJ or SET, and captures its source edges. -/
  | referenceTick (t : TargetLevels)
  /-- UART_BYTE_SENT (R458). The UART transmitter finishes sending a byte and removes it from the transmit FIFO, then starts the next byte or idles the line at 1. -/
  | uartByteSent (p : Nat)
  /-- DELAY_LIST_DRAIN (R428). While a disabled delay list is not empty, one item per period moves to its ready list as if due, and DRAINING falls to 0 once the list is empty. -/
  | delayListDrain (k : Nat)
  /-- LIST_HEAD_AGING (R429). A list head's urgency rises with its age until it exceeds a thread core's RUN_URG, and source 34 of that core is asserted. -/
  | listHeadAging (l : Nat)
  /-- LINK_RETRAINED (R485). The host link finishes retraining after PERST#, a hot reset, a link-down reset or a loss of the link, returns to L0, and sets LINK_RST where a reset has ended. -/
  | linkRetrained (speed : BitVec 4) (width : BitVec 5)
  deriving DecidableEq, Repr

end Sys2Proof
end

