-- ==== Sys2Proof/Decode.lean ====
section
/-! DEFINITION. The decoder of table words. The table of commands gives its rows no bits, so no word spells a command. -/
namespace Sys2Proof

/-- The command that a word spells by the table's bits: the rows have none.
DESIGN CHOICE (log 6; safe). -/
def decodeTableWord (_nbits _w : Nat) : Option Instr := none

end Sys2Proof
end

