-- ==== Sys2Proof/Machine/Bits.lean ====
section
/-! DEFINITION. Bit fields, byte orders and small list helpers. -/
namespace Sys2Proof.Machine

/-- Bits hi..lo of a number. -/
def fld (v hi lo : Nat) : Nat := v / 2 ^ lo % 2 ^ (hi + 1 - lo)

/-- Bits hi..lo of a word replaced. -/
def setFld (w : Word) (hi lo v : Nat) : Word :=
  BitVec.ofNat 32 (w.toNat - fld w.toNat hi lo * 2 ^ lo + v % 2 ^ (hi + 1 - lo) * 2 ^ lo)

/-- A number as n bytes, least significant first (R5). -/
def bytesLE : Nat → Nat → List Nat
  | 0, _ => []
  | n + 1, v => v % 256 :: bytesLE n (v / 256)

/-- A number as n bytes, most significant first. -/
def bytesBE (n v : Nat) : List Nat := (bytesLE n v).reverse

/-- The number of bytes given least significant first (R5). -/
def numLE : List Nat → Nat
  | [] => 0
  | b :: r => b % 256 + 256 * numLE r

/-- Up to four bytes of a list as a 32-bit word, least significant first. -/
def wordLE (bs : List Nat) : Nat := numLE (bs.take 4)

/-- Replace the element at an index; nothing where the index is past the end. -/
def setAt {α : Type} (l : List α) (i : Nat) (v : α) : List α := l.set i v

/-- Signed comparison of 64-bit times: has `now` reached `target` (signed64(now - target) is not negative)? -/
def reached64 (now target : Nat) : Bool := decide ((now + 2 ^ 64 - target % 2 ^ 64) % 2 ^ 64 < 2 ^ 63)

/-- The same for 32 bits. -/
def reached32 (now target : Nat) : Bool := decide ((now + 2 ^ 32 - target % 2 ^ 32) % 2 ^ 32 < 2 ^ 31)

/-- Saturating addition below 2^n. -/
def satAdd (n a b : Nat) : Nat := if a + b < 2 ^ n then a + b else 2 ^ n - 1

end Sys2Proof.Machine
end

