-- ==== Sys2Proof/Machine/Crypto.lean ====
section
/-! DEFINITION. The published ciphers and checks the spec names: AES-256 (R213, R258, R260), XTS-AES-256 of IEEE 1619
(R258), GHASH and AES-256-GCM (R213, R260), CRC-32 (R131, R212, R519), Reed-Solomon over GF(2^9) (R297). A block is a list
of bytes, the first byte the leftmost of the standard's block. -/
namespace Sys2Proof.Machine

/-- The AES S-box, entry x in bits 8x+7..8x. -/
def sboxBits : Nat := 0x16bb54b00f2d99416842e6bf0d89a18cdf2855cee9871e9b948ed9691198f8e19e1dc186b95735610ef6034866b53e708a8bbd4b1f74dde8c6b4a61c2e2578ba08ae7a65eaf4566ca94ed58d6d37c8e779e4959162acd3c25c2406490a3a32e0db0b5ede14b8ee4688902a22dc4f816073195d643d7ea7c41744975fec130ccdd2f3ff1021dab6bcf5389d928f40a351a89f3c507f02f94585334d43fbaaefd0cf584c4a39becb6a5bb1fc20ed00d153842fe329b3d63b52a05a6e1b1a2c830975b227ebe28012079a059618c323c7041531d871f1e5a534ccf73f362693fdb7c072a49cafa2d4adf04759fa7dc982ca76abd7fe2b670130c56f6bf27b777c63

/-- The inverse AES S-box, in the same form. -/
def invSboxBits : Nat := 0x7d0c2155631469e126d677ba7e042b17619953833cbbebc8b0f52aae4d3be0a0ef9cc9939f7ae52d0d4ab519a97f51605fec8027591012b131c7078833a8dd1ff45acd78fec0db9a2079d2c64b3e56fc1bbe18aa0e62b76f89c5291d711af1476edf751ce837f9e28535ade72274ac9673e6b4f0cecff297eadc674f4111913a6b8a130103bdafc1020f3fca8f1e2cd00645b3b80558e4f70ad3bc8c00abd890849d8da75746155edab9edfd5048706c92b6655dcc5ca4d41698688664f6f87225d18b6d49a25b76b224d92866a12e084ec3fa420b954cee3d23c2a632947b54cbe9dec444438e3487ff2f9b8239e37cfbd7f3819ea340bf38a53630d56a0952

/-- S-box lookup of one byte. -/
def subByte (x : Nat) : Nat := sboxBits >>> (8 * x) % 256

/-- Inverse S-box lookup of one byte. -/
def invSubByte (x : Nat) : Nat := invSboxBits >>> (8 * x) % 256

/-- Multiplication by x in the AES field. -/
def xtime (x : Nat) : Nat := if x < 128 then 2 * x else (2 * x) % 256 ^^^ 0x1b

/-- Multiplication in the AES field by a small constant (four bits). -/
def aesMul (c x : Nat) : Nat :=
  let x2 := xtime x
  let x4 := xtime x2
  let x8 := xtime x4
  (if c % 2 = 1 then x else 0) ^^^ (if c / 2 % 2 = 1 then x2 else 0) ^^^ (if c / 4 % 2 = 1 then x4 else 0) ^^^
    (if c / 8 % 2 = 1 then x8 else 0)

/-- Byte-wise exclusive OR of two lists. -/
def xorBytes (a b : List Nat) : List Nat := List.zipWith (· ^^^ ·) a b

/-- The 60 words of the AES-256 key schedule, newest first, from the eight key words. -/
def expandKeyAux (fuel i rcon : Nat) (ws : List (List Nat)) : List (List Nat) :=
  match fuel with
  | 0 => ws
  | fuel + 1 =>
    let prev := ws.getD 0 []
    let old := ws.getD 7 []
    let t :=
      if i % 8 = 0 then
        match prev with
        | a :: r => xorBytes ((r ++ [a]).map subByte) [rcon, 0, 0, 0]
        | [] => []
      else if i % 8 = 4 then prev.map subByte
      else prev
    expandKeyAux fuel (i + 1) (if i % 8 = 0 then xtime rcon else rcon) (xorBytes old t :: ws)

/-- Cut a list of bytes into words of four. -/
def wordsOf (bs : List Nat) : List (List Nat) :=
  (List.range (bs.length / 4)).map (fun i => (bs.drop (4 * i)).take 4)

/-- The 15 round keys of an AES-256 key of 32 bytes. -/
def roundKeys (key : List Nat) : List (List Nat) :=
  let ws := (expandKeyAux 52 8 1 (wordsOf key).reverse).reverse
  (List.range 15).map (fun r => ((ws.drop (4 * r)).take 4).flatten)

/-- ShiftRows: byte (row, column) comes from column + row. -/
def shiftRows (s : List Nat) : List Nat :=
  (List.range 16).map (fun i => s.getD ((i + 4 * (i % 4)) % 16) 0)

/-- Inverse ShiftRows. -/
def invShiftRows (s : List Nat) : List Nat :=
  (List.range 16).map (fun i => s.getD ((i + 16 - 4 * (i % 4)) % 16) 0)

/-- MixColumns with the coefficient row c0 c1 c2 c3 of a circulant. -/
def mixWith (c : List Nat) (s : List Nat) : List Nat :=
  (List.range 16).map (fun i =>
    let col := 4 * (i / 4)
    (List.range 4).foldl (fun acc k => acc ^^^ aesMul (c.getD ((k + 4 - i % 4) % 4) 0) (s.getD (col + k) 0)) 0)

/-- AES-256 encryption of one block under expanded round keys. -/
def aesEncWith (rks : List (List Nat)) (blk : List Nat) : List Nat :=
  let s0 := xorBytes blk (rks.getD 0 [])
  let s13 := ((rks.drop 1).take 13).foldl
    (fun s rk => xorBytes (mixWith [2, 3, 1, 1] (shiftRows (s.map subByte))) rk) s0
  xorBytes (shiftRows (s13.map subByte)) (rks.getD 14 [])

/-- AES-256 decryption of one block under expanded round keys. -/
def aesDecWith (rks : List (List Nat)) (blk : List Nat) : List Nat :=
  let s0 := xorBytes blk (rks.getD 14 [])
  let s13 := ((rks.drop 1).take 13).reverse.foldl
    (fun s rk => mixWith [14, 11, 13, 9] (xorBytes ((invShiftRows s).map invSubByte) rk)) s0
  xorBytes ((invShiftRows s13).map invSubByte) (rks.getD 0 [])

/-- AES-256 of one block under a 256-bit key, whose most significant byte is the key's first byte. -/
def aesEnc (key : BitVec 256) (blk : List Nat) : List Nat := aesEncWith (roundKeys (bytesBE 32 key.toNat)) blk

/-- A block as a number, first byte most significant. -/
def blockNat (b : List Nat) : Nat := b.foldl (fun acc x => acc * 256 + x) 0

/-- Multiplication in the GCM field: bit 127 of the number is the leftmost bit. -/
def gfMul128 (x y : Nat) : Nat :=
  ((List.range 128).foldl (fun (zv : Nat × Nat) i =>
    let z := if x.testBit (127 - i) then zv.1 ^^^ zv.2 else zv.1
    let v := if zv.2 % 2 = 1 then (zv.2 / 2) ^^^ (0xe1 * 2 ^ 120) else zv.2 / 2
    (z, v)) (0, y)).1

/-- GHASH over 16-byte blocks under hash key h. -/
def ghash (h : Nat) (blocks : List (List Nat)) : Nat :=
  blocks.foldl (fun y b => gfMul128 (y ^^^ blockNat b) h) 0

/-- Cut bytes into blocks of 16, the last padded with zeros. -/
def blocks16 (bs : List Nat) : List (List Nat) :=
  (List.range ((bs.length + 15) / 16)).map (fun i =>
    let b := (bs.drop (16 * i)).take 16
    b ++ List.replicate (16 - b.length) 0)

/-- AES-256-GCM with a 12-byte nonce: the plaintext (or ciphertext) of the data under counter mode. -/
def gcmCrypt (key : BitVec 256) (nonce : List Nat) (data : List Nat) : List Nat :=
  let rks := roundKeys (bytesBE 32 key.toNat)
  ((blocks16 data).zipIdx.flatMap (fun bi =>
    xorBytes bi.1 (aesEncWith rks (nonce ++ bytesBE 4 (bi.2 + 2))))).take data.length

/-- AES-256-GCM tag (16 bytes) over associated data and ciphertext. -/
def gcmTag (key : BitVec 256) (nonce : List Nat) (aad ct : List Nat) : List Nat :=
  let rks := roundKeys (bytesBE 32 key.toNat)
  let h := blockNat (aesEncWith rks (List.replicate 16 0))
  let y := ghash h (blocks16 aad ++ blocks16 ct ++
    [bytesBE 8 (8 * aad.length) ++ bytesBE 8 (8 * ct.length)])
  xorBytes (bytesBE 16 y) (aesEncWith rks (nonce ++ bytesBE 4 1))

/-- The XTS tweak of the next block: multiplication by alpha of a little-endian 128-bit number. -/
def xtsNext (t : Nat) : Nat := if t < 2 ^ 127 then 2 * t else (2 * t) % 2 ^ 128 ^^^ 0x87

/-- XTS-AES-256 of one 64-byte data unit (R258); `enc` true encrypts. -/
def xtsUnit (enc : Bool) (key1 key2 : BitVec 256) (unit : Nat) (data : List Nat) : List Nat :=
  let rk1 := roundKeys (bytesBE 32 key1.toNat)
  let t0 := numLE (aesEncWith (roundKeys (bytesBE 32 key2.toNat)) (bytesLE 16 unit))
  ((blocks16 data).foldl (fun (at_ : List Nat × Nat) b =>
    let tw := bytesLE 16 at_.2
    let x := xorBytes b tw
    let y := if enc then aesEncWith rk1 x else aesDecWith rk1 x
    (at_.1 ++ xorBytes y tw, xtsNext at_.2)) ([], t0)).1

/-- One bit into the CRC-32 register (R131): polynomial 0x04C1_1DB7, most significant bit first. -/
def crcBit (c : Nat) (b : Bool) : Nat :=
  let top := xor (c.testBit 31) b
  let c2 := (2 * c) % 2 ^ 32
  if top then c2 ^^^ 0x04c11db7 else c2

/-- The CRC-32 of n bits of a number, bit 0 first: initial value all ones, no final inversion (R131). -/
def crcBits (n v : Nat) : Nat := (List.range n).foldl (fun c i => crcBit c (v.testBit i)) 0xffffffff

/-- The CRC-32 of bytes in ascending order, each bit 0 first (R519). -/
def crcBytes (bs : List Nat) : Nat :=
  bs.foldl (fun c x => (List.range 8).foldl (fun c i => crcBit c (x.testBit i)) c) 0xffffffff

/-! ### The Reed-Solomon code of the bundle frame (R299) -/

/-- Multiplication in GF(2^9) with x^9 + x^4 + 1. -/
def gf9Mul (x y : Nat) : Nat :=
  ((List.range 9).foldl (fun (zv : Nat × Nat) i =>
    (if x.testBit i then zv.1 ^^^ zv.2 else zv.1,
     if zv.2 < 256 then 2 * zv.2 else (2 * zv.2) ^^^ 0x211)) (0, y)).1

/-- Powers of an element. -/
def gf9Pow (x : Nat) : Nat → Nat
  | 0 => 1
  | n + 1 => gf9Mul x (gf9Pow x n)

/-- The inverse of a non-zero element: its 510th power. -/
def gf9Inv (x : Nat) : Nat := gf9Pow x 510

/-- Symbol i of a codeword, by power of x: parity symbols 0 to 3, then information symbols. -/
def rsSymbol (raw i : Nat) : Nat := if i < 4 then raw / 2 ^ (495 + 9 * i) % 512 else raw / 2 ^ (9 * (i - 4)) % 512

/-- Change symbol i of a frame by e. -/
def rsFlip (raw i e : Nat) : Nat := raw ^^^ (e * 2 ^ (if i < 4 then 495 + 9 * i else 9 * (i - 4)))

/-- Syndrome k of a frame: its codeword at α^k, α being 2. -/
def rsSyndrome (raw k : Nat) : Nat :=
  (List.range 59).reverse.foldl (fun acc i => gf9Mul acc (gf9Pow 2 k) ^^^ rsSymbol raw i) 0

/-- Decode a frame: the number of symbols corrected and the corrected frame, or none where more than two are in error. -/
def rsDecode (raw : Nat) : Option (Nat × Nat) :=
  let s0 := rsSyndrome raw 0
  let s1 := rsSyndrome raw 1
  let s2 := rsSyndrome raw 2
  let s3 := rsSyndrome raw 3
  if s0 = 0 ∧ s1 = 0 ∧ s2 = 0 ∧ s3 = 0 then some (0, raw)
  else
    match (List.range 59).find? (fun i =>
      let x := gf9Pow 2 i
      s0 != 0 && s1 == gf9Mul s0 x && s2 == gf9Mul s1 x && s3 == gf9Mul s2 x) with
    | some i => some (1, rsFlip raw i s0)
    | none =>
      let pairs := (List.range 59).flatMap (fun j => (List.range j).map (fun i => (i, j)))
      match pairs.find? (fun ij =>
        let a := gf9Pow 2 ij.1
        let b := gf9Pow 2 ij.2
        s2 == gf9Mul s1 (a ^^^ b) ^^^ gf9Mul s0 (gf9Mul a b) &&
          s3 == gf9Mul s2 (a ^^^ b) ^^^ gf9Mul s1 (gf9Mul a b)) with
      | some (i, j) =>
        let a := gf9Pow 2 i
        let b := gf9Pow 2 j
        let ej := gf9Mul (s1 ^^^ gf9Mul s0 a) (gf9Inv (a ^^^ b))
        some (2, rsFlip (rsFlip raw j ej) i (s0 ^^^ ej))
      | none => none

end Sys2Proof.Machine
end

