-- ==== Sys2Proof/Machine/Store.lean ====
section
/-! DEFINITION. A sparse store: a list of (key, value) pairs in one canonical form: keys strictly rising, and no entry
equal to what an unlisted key reads as (the default, a function of the key). Equal stores are equal lists. -/
namespace Sys2Proof.Machine

/-- A sparse store of values by number; with bytes it is a list of Host.Cell. -/
abbrev Tab (β : Type) := List (Nat × β)

/-- What key k holds: its entry, or the default. -/
def Tab.get {β : Type} (d : Nat → β) (t : Tab β) (k : Nat) : β :=
  match t with
  | [] => d k
  | (i, v) :: r => if i = k then v else Tab.get d r k

/-- Put one entry, keeping the keys rising. -/
def Tab.put {β : Type} (t : Tab β) (k : Nat) (v : β) : Tab β :=
  match t with
  | [] => [(k, v)]
  | (i, w) :: r =>
    if k < i then (k, v) :: (i, w) :: r
    else if k = i then (k, v) :: r
    else (i, w) :: Tab.put r k v

/-- Remove every entry of one key. -/
def Tab.drop {β : Type} (t : Tab β) (k : Nat) : Tab β :=
  match t with
  | [] => []
  | (i, w) :: r => if i = k then Tab.drop r k else (i, w) :: Tab.drop r k

/-- Write: a key that gets its default value is unlisted. -/
def Tab.set {β : Type} [DecidableEq β] (d : Nat → β) (t : Tab β) (k : Nat) (v : β) : Tab β :=
  if v = d k then Tab.drop t k else Tab.put t k v

/-- Every key of the store lies above lo. -/
def Tab.above {β : Type} (lo : Nat) (t : Tab β) : Bool :=
  match t with
  | [] => true
  | (i, _) :: _ => decide (lo < i)

/-- The canonical form: keys strictly rising, no entry equal to the default of its key. -/
def Tab.wf {β : Type} [DecidableEq β] (d : Nat → β) (t : Tab β) : Bool :=
  match t with
  | [] => true
  | (i, v) :: r => Tab.above i r && !decide (v = d i) && Tab.wf d r

/-- Keep the entries whose key passes a test. -/
def Tab.keep {β : Type} (p : Nat → Bool) (t : Tab β) : Tab β := t.filter (fun e => p e.1)

/-- Rewrite every entry listed, in key order; an unlisted key stays unlisted. -/
def Tab.mapAll {β : Type} [DecidableEq β] (d : Nat → β) (f : Nat → β → β) (t : Tab β) : Tab β :=
  t.foldl (fun acc e => Tab.set d acc e.1 (f e.1 e.2)) []

/-- The default of a store that reads zero where nothing is listed.
DESIGN CHOICE (log 4; unsafe). -/
def zeroAt (w : Nat) : Nat → BitVec w := fun _ => 0

end Sys2Proof.Machine
end

