-- ==== Sys2Proof/Machine/Regs.lean ====
section
/-! DEFINITION. The register tables of every page type: offsets, fields, access codes, retained flags, after-reset
values, transcribed from the register tables of the chapters; the common header of R35; page types of R51. -/
namespace Sys2Proof.Machine

/-- The rates and widths of the host link, as HST_LINK_STS codes them (R469, R487). -/
def linkRateOk (speed : Nat) : Bool := decide (1 ≤ speed) && decide (speed ≤ 5)
def linkWidthOk (width : Nat) : Bool := width == 1 || width == 2 || width == 4 || width == 8 || width == 16

/-- The access codes of R7. -/
inductive Access where
  | ro | rw | w1c | w1s | wo | rwl
  deriving DecidableEq, Repr

/-- One field of a register table: its bits, access code, retained flag and after-reset value. -/
structure FieldSpec where
  name : String
  hi : Nat
  lo : Nat
  acc : Access
  ret : Bool
  reset : Nat
  deriving DecidableEq, Repr

/-- One row of a page's register table, `count` registers from `off`, `stride` bytes apart. `half` is 1 for the
lower register of a 64-bit quantity, 2 for the upper, 0 otherwise (R6, R34). `only` is the instances that have it:
0 all, 1 instance 0 alone, 2 all but instance 0, 3 instances 2 to 5. -/
structure RegSpec where
  name : String
  off : Nat
  stride : Nat
  count : Nat
  half : Nat
  only : Nat
  fields : List FieldSpec
  deriving DecidableEq, Repr

/-- The page type code of R51. -/
def pageCode : PageType → Nat
  | .pnl => 0x1
  | .die => 0x2
  | .dvt => 0x3
  | .mq => 0x4
  | .hst => 0x10
  | .pwr => 0x11
  | .thm => 0x12
  | .drw => 0x13
  | .rpr => 0x14
  | .cyc => 0x15
  | .clp => 0x16
  | .ldr => 0x17
  | .vnr => 0x18
  | .bnd => 0x19
  | .ln => 0x1a
  | .gau => 0x1b
  | .trg => 0x1c
  | .cap => 0x1d
  | .meas => 0x1e
  | .trc => 0x1f
  | .cc => 0x20
  | .wd => 0x21
  | .ring => 0x22
  | .pin => 0x23
  | .edl => 0x24

/-- The page type of a code; none for a reserved code (R51). -/
def pageOfCode (c : Nat) : Option PageType :=
  if c = 0x1 then some .pnl else
  if c = 0x2 then some .die else
  if c = 0x3 then some .dvt else
  if c = 0x4 then some .mq else
  if c = 0x10 then some .hst else
  if c = 0x11 then some .pwr else
  if c = 0x12 then some .thm else
  if c = 0x13 then some .drw else
  if c = 0x14 then some .rpr else
  if c = 0x15 then some .cyc else
  if c = 0x16 then some .clp else
  if c = 0x17 then some .ldr else
  if c = 0x18 then some .vnr else
  if c = 0x19 then some .bnd else
  if c = 0x1a then some .ln else
  if c = 0x1b then some .gau else
  if c = 0x1c then some .trg else
  if c = 0x1d then some .cap else
  if c = 0x1e then some .meas else
  if c = 0x1f then some .trc else
  if c = 0x20 then some .cc else
  if c = 0x21 then some .wd else
  if c = 0x22 then some .ring else
  if c = 0x23 then some .pin else
  if c = 0x24 then some .edl else
  none

/-- The factory EN of a page (R51): Gauge 0 and control core 0 alone among their types. -/
def factoryEn (ty : PageType) (inst : Nat) : Nat :=
  match ty with
  | .pnl => 0
  | .die => 1
  | .dvt => 0
  | .mq => 0
  | .hst | .pwr | .thm | .drw | .rpr => 1
  | .cyc | .clp => 0
  | .ldr | .vnr | .bnd | .ln => 1
  | .gau => if inst = 0 then 1 else 0
  | .trg | .cap | .meas | .trc => 0
  | .cc => if inst = 0 then 1 else 0
  | .wd | .ring => 1
  | .pin | .edl => 0

/-- The block sticky bits of a page that its chapter defines (PG_STICKY[31:8], R35). -/
def blockSticky (ty : PageType) (inst : Nat) : Word :=
  match ty with
  | .pnl => 0xf3f00
  | .die => 0x1f00
  | .dvt => 0x0
  | .mq => 0xf00
  | .hst => 0x1f00
  | .pwr => 0x3f00
  | .thm => 0x1f00
  | .drw => 0x1f00
  | .rpr => 0x1f00
  | .cyc => 0x0
  | .clp => 0x300
  | .ldr => 0x1f00
  | .vnr => 0x2f00
  | .bnd => if inst = 0 then 0xffff00 else 0x3fff00
  | .ln => 0xf00
  | .gau => if inst = 0 then 0x7f00 else 0x3f00
  | .trg => 0x1f00
  | .cap => 0xff00
  | .meas => 0x300
  | .trc => 0x7f00
  | .cc => 0xf00
  | .wd => 0x1f00
  | .ring => 0x1f00
  | .pin => 0x3f00
  | .edl => 0x700

/-- PG_RETAIN.MASK of a page type (R35, R36). -/
def retainMask (ty : PageType) (inst : Nat) : Word :=
  match ty with
  | .pnl => 0x0
  | .die => 0x0
  | .dvt => 0x0
  | .mq => 0x0
  | .hst => 0x0
  | .pwr => 0x1c
  | .thm => 0x600
  | .drw => 0x1
  | .rpr => 0xc
  | .cyc => 0x0
  | .clp => 0x3
  | .ldr => 0x3f0
  | .vnr => 0x0
  | .bnd => if inst = 0 then 0x70001 else 0x1
  | .ln => 0x0
  | .gau => 0xf031
  | .trg => 0x0
  | .cap => 0x0
  | .meas => 0x0
  | .trc => 0x0
  | .cc => 0x1
  | .wd => 0x0
  | .ring => 0x0
  | .pin => 0x7ffff
  | .edl => 0xfff

/-- The registers of the PNL_ page above the header (R140). -/
def pnlRegs : List RegSpec := [
  ⟨"PNL_BIND", 0x40, 0x0, 1, 0, 0, [⟨"BOUND", 31, 31, .ro, false, 0⟩, ⟨"LPANEL", 6, 0, .ro, false, 0⟩]⟩,
  ⟨"PNL_ECC_CNT", 0x44, 0x0, 1, 0, 0, [⟨"IS", 31, 16, .rw, false, 0⟩, ⟨"PR", 15, 0, .rw, false, 0⟩]⟩
]

/-- The registers of the DIE_ page above the header (R141). -/
def dieRegs : List RegSpec := [
  ⟨"DIE_LINK_STS", 0x40, 0x0, 1, 0, 0, [⟨"UP3", 31, 31, .ro, false, 0⟩,
    ⟨"REPAIRS3", 27, 24, .ro, false, 0⟩,
    ⟨"UP2", 23, 23, .ro, false, 0⟩,
    ⟨"REPAIRS2", 19, 16, .ro, false, 0⟩,
    ⟨"UP1", 15, 15, .ro, false, 0⟩,
    ⟨"REPAIRS1", 11, 8, .ro, false, 0⟩,
    ⟨"UP0", 7, 7, .ro, false, 0⟩,
    ⟨"REPAIRS0", 3, 0, .ro, false, 0⟩]⟩,
  ⟨"DIE_LINK_CTL", 0x44, 0x0, 1, 0, 0, [⟨"RETRAIN", 0, 0, .wo, false, 0⟩]⟩,
  ⟨"DIE_DL_CE_CNT", 0x48, 0x0, 1, 0, 0, [⟨"COUNT", 31, 0, .rw, false, 0⟩]⟩,
  ⟨"DIE_DL_POISON_CNT", 0x4c, 0x0, 1, 0, 0, [⟨"COUNT", 31, 0, .rw, false, 0⟩]⟩
]

/-- The registers of the DVT_ page above the header (R143). -/
def dvtRegs : List RegSpec := [
  ⟨"DVT_MODE", 0x40, 0x0, 1, 0, 0, [⟨"FWD", 0, 0, .ro, false, 0⟩]⟩,
  ⟨"DVT_PMAP", 0x100, 0x4, 64, 0, 0, [⟨"VALID1", 31, 31, .ro, false, 0⟩,
    ⟨"PHYS1", 23, 16, .ro, false, 0⟩,
    ⟨"VALID0", 15, 15, .ro, false, 0⟩,
    ⟨"PHYS0", 7, 0, .ro, false, 0⟩]⟩
]

/-- The registers of the MQ_ page above the header (R286). -/
def mqRegs : List RegSpec := [
  ⟨"MQ_CFG", 0x40, 0x0, 1, 0, 0, [⟨"DESC", 31, 0, .ro, false, 0⟩]⟩,
  ⟨"MQ_WIN_BASE_LO", 0x44, 0x0, 1, 1, 0, [⟨"BASE", 31, 0, .ro, false, 0⟩]⟩,
  ⟨"MQ_WIN_BASE_HI", 0x48, 0x0, 1, 2, 0, [⟨"BASE", 3, 0, .ro, false, 0⟩]⟩,
  ⟨"MQ_STS", 0x4c, 0x0, 1, 0, 0, [⟨"LATE", 8, 8, .ro, false, 0⟩, ⟨"PENDING", 3, 0, .ro, false, 0⟩]⟩,
  ⟨"MQ_LATE_CNT", 0x50, 0x0, 1, 0, 0, [⟨"COUNT", 31, 0, .rw, false, 0⟩]⟩,
  ⟨"MQ_ERR_CNT", 0x54, 0x0, 1, 0, 0, [⟨"WR", 31, 16, .rw, false, 0⟩, ⟨"RD", 15, 0, .rw, false, 0⟩]⟩
]

/-- The registers of the HST_ page above the header (R487). -/
def hstRegs : List RegSpec := [
  ⟨"HST_GROUP_SEL", 0x40, 0x0, 1, 0, 0, [⟨"MASK", 15, 0, .rw, false, 1⟩]⟩,
  ⟨"HST_LINK_STS", 0x44, 0x0, 1, 0, 0, [⟨"D3HOT", 17, 17, .ro, false, 0⟩,
    ⟨"L1", 16, 16, .ro, false, 0⟩,
    ⟨"WIDTH", 8, 4, .ro, false, 0⟩,
    ⟨"SPEED", 3, 0, .ro, false, 0⟩]⟩,
  ⟨"HST_DOORBELL", 0x48, 0x0, 1, 0, 0, [⟨"BELL", 31, 0, .w1c, false, 0⟩]⟩,
  ⟨"HST_DOORBELL_SET", 0x4c, 0x0, 1, 0, 0, [⟨"BELL", 31, 0, .w1s, false, 0⟩]⟩,
  ⟨"HST_ALARM_ACK", 0x50, 0x0, 1, 0, 0, [⟨"ACK", 0, 0, .wo, false, 0⟩]⟩,
  ⟨"HST_MSIX_SEND", 0x54, 0x0, 1, 0, 0, [⟨"VECTOR", 6, 0, .wo, false, 0⟩]⟩,
  ⟨"HST_REARM", 0x58, 0x0, 1, 0, 0, [⟨"VECTOR", 6, 0, .wo, false, 0⟩]⟩,
  ⟨"HST_VEC_MAP", 0x100, 0x4, 34, 0, 0, [⟨"EN", 31, 31, .rw, false, 0⟩, ⟨"VECTOR", 6, 0, .rw, false, 0⟩]⟩
]

/-- The registers of the PWR_ page above the header (R510). -/
def pwrRegs : List RegSpec := [
  ⟨"PWR_CMD", 0x40, 0x0, 1, 0, 0, [⟨"TARGET", 2, 0, .wo, false, 0⟩]⟩,
  ⟨"PWR_STS", 0x44, 0x0, 1, 0, 0, [⟨"LAST_WAKE", 15, 12, .ro, false, 0⟩,
    ⟨"THERM_LIVE", 9, 9, .ro, false, 0⟩,
    ⟨"CAP_LIVE", 8, 8, .ro, false, 0⟩,
    ⟨"PENDING", 6, 4, .ro, false, 0⟩,
    ⟨"MOVING", 3, 3, .ro, false, 0⟩,
    ⟨"STATE", 2, 0, .ro, false, 1⟩]⟩,
  ⟨"PWR_STEP_CLK", 0x48, 0x0, 1, 0, 0, [⟨"MHZ", 10, 0, .rwl, true, 0x640⟩]⟩,
  ⟨"PWR_CAP", 0x4c, 0x0, 1, 0, 0, [⟨"EN", 31, 31, .rw, true, 0⟩,
    ⟨"TAU", 27, 24, .rw, true, 6⟩,
    ⟨"HYST", 23, 16, .rw, true, 0xa⟩,
    ⟨"LIMIT", 9, 0, .rw, true, 0x258⟩]⟩,
  ⟨"PWR_WAKE_EN", 0x50, 0x0, 1, 0, 0, [⟨"EN", 3, 0, .rw, true, 0xf⟩]⟩,
  ⟨"PWR_WAKE_TMR", 0x54, 0x0, 1, 0, 0, [⟨"US", 31, 0, .rw, false, 0⟩]⟩,
  ⟨"PWR_DORMANT_REC", 0x58, 0x0, 1, 0, 0, [⟨"VALID", 31, 31, .w1c, false, 0⟩, ⟨"CAUSE", 3, 0, .ro, false, 0⟩]⟩,
  ⟨"PWR_VIN", 0x60, 0x0, 1, 0, 0, [⟨"MV", 15, 0, .ro, false, 0⟩]⟩,
  ⟨"PWR_IIN", 0x64, 0x0, 1, 0, 0, [⟨"MA", 16, 0, .ro, false, 0⟩]⟩,
  ⟨"PWR_PIN", 0x68, 0x0, 1, 0, 0, [⟨"MW", 19, 0, .ro, false, 0⟩]⟩,
  ⟨"PWR_PAVG", 0x6c, 0x0, 1, 0, 0, [⟨"MW", 19, 0, .ro, false, 0⟩]⟩,
  ⟨"PWR_RAIL", 0x70, 0x4, 8, 0, 0, [⟨"MW", 19, 0, .ro, false, 0⟩]⟩
] ++ [
  ⟨"PWR_ENERGY_LO", 0x90, 0x0, 1, 1, 0, [⟨"UJ", 31, 0, .ro, false, 0⟩]⟩,
  ⟨"PWR_ENERGY_HI", 0x94, 0x0, 1, 2, 0, [⟨"UJ", 31, 0, .ro, false, 0⟩]⟩,
  ⟨"PWR_CAP_CNT", 0x98, 0x0, 1, 0, 0, [⟨"COUNT", 31, 0, .rw, false, 0⟩]⟩
]

/-- The registers of the THM_ page above the header (R511). -/
def thmRegs : List RegSpec := [
  ⟨"THM_TEMP", 0x40, 0x4, 7, 0, 0, [⟨"VALID", 31, 31, .ro, false, 0⟩, ⟨"TEMP", 15, 0, .ro, false, 0⟩]⟩,
  ⟨"THM_MAX", 0x60, 0x0, 1, 0, 0, [⟨"SENSOR", 18, 16, .ro, false, 0⟩, ⟨"TEMP", 15, 0, .ro, false, 0⟩]⟩,
  ⟨"THM_LIMIT", 0x64, 0x0, 1, 0, 0, [⟨"HYST", 19, 16, .rwl, true, 5⟩,
    ⟨"HBM_THR", 15, 8, .rwl, true, 0x5f⟩,
    ⟨"DIE_THR", 7, 0, .rwl, true, 0x73⟩]⟩,
  ⟨"THM_ALERT", 0x68, 0x0, 1, 0, 0, [⟨"HBM_ALERT", 15, 8, .rw, true, 0x55⟩, ⟨"DIE_ALERT", 7, 0, .rw, true, 0x69⟩]⟩,
  ⟨"THM_TRIP_REC", 0x6c, 0x0, 1, 0, 0, [⟨"VALID", 31, 31, .w1c, false, 0⟩,
    ⟨"SENSOR", 18, 16, .ro, false, 0⟩,
    ⟨"TEMP", 15, 0, .ro, false, 0⟩]⟩
]

/-- The registers of the DRW_ page above the header (R529). -/
def drwRegs : List RegSpec := [
  ⟨"DRW_CTL", 0x40, 0x0, 1, 0, 0, [⟨"COMMIT_DIS", 8, 8, .rwl, true, 0⟩, ⟨"COMMIT", 0, 0, .wo, true, 0⟩]⟩,
  ⟨"DRW_STS", 0x44, 0x0, 1, 0, 0, [⟨"LAST_OK", 3, 3, .ro, false, 0⟩,
    ⟨"FACTORY_BAD", 2, 2, .ro, false, 0⟩,
    ⟨"SOURCE", 1, 1, .ro, false, 0⟩,
    ⟨"BUSY", 0, 0, .ro, false, 0⟩]⟩,
  ⟨"DRW_COMMITS", 0x48, 0x0, 1, 0, 0, [⟨"COUNT", 31, 0, .ro, false, 0⟩]⟩,
  ⟨"DRW_RST", 0x4c, 0x0, 1, 0, 0, [⟨"KEY", 31, 0, .wo, false, 0⟩]⟩,
  ⟨"DRW_RST_CAUSE", 0x50, 0x0, 1, 0, 0, [⟨"REQ", 7, 4, .ro, false, 0⟩, ⟨"CAUSE", 3, 0, .ro, false, 1⟩]⟩,
  ⟨"DRW_SERIAL_LO", 0x58, 0x0, 1, 1, 0, [⟨"SERIAL", 31, 0, .ro, false, 0⟩]⟩,
  ⟨"DRW_SERIAL_HI", 0x5c, 0x0, 1, 2, 0, [⟨"SERIAL", 31, 0, .ro, false, 0⟩]⟩,
  ⟨"DRW_WIN", 0x60, 0x0, 1, 0, 0, [⟨"WIN", 11, 0, .rw, false, 0⟩]⟩
]

/-- The registers of the RPR_ page above the header (R530). -/
def rprRegs : List RegSpec := [
  ⟨"RPR_USABLE", 0x40, 0x0, 1, 0, 0, [⟨"USABLE3", 31, 24, .ro, false, 0x80⟩,
    ⟨"USABLE2", 23, 16, .ro, false, 0x80⟩,
    ⟨"USABLE1", 15, 8, .ro, false, 0x80⟩,
    ⟨"USABLE0", 7, 0, .ro, false, 0x80⟩]⟩,
  ⟨"RPR_GOOD", 0x44, 0x0, 1, 0, 0, [⟨"GOOD3", 31, 24, .ro, false, 0x84⟩,
    ⟨"GOOD2", 23, 16, .ro, false, 0x84⟩,
    ⟨"GOOD1", 15, 8, .ro, false, 0x84⟩,
    ⟨"GOOD0", 7, 0, .ro, false, 0x84⟩]⟩,
  ⟨"RPR_CE_THR", 0x48, 0x0, 1, 0, 0, [⟨"THR", 15, 0, .rw, true, 0x100⟩]⟩,
  ⟨"RPR_CTL", 0x4c, 0x0, 1, 0, 0, [⟨"RETEST", 1, 1, .rw, true, 0⟩, ⟨"BIST_WARM", 0, 0, .rw, true, 1⟩]⟩,
  ⟨"RPR_CMD", 0x50, 0x0, 1, 0, 0, [⟨"MARK", 31, 31, .wo, false, 0⟩,
    ⟨"DIE", 9, 8, .wo, false, 0⟩,
    ⟨"PANEL", 7, 0, .wo, false, 0⟩]⟩,
  ⟨"RPR_SEL", 0x54, 0x0, 1, 0, 0, [⟨"DIE", 1, 0, .rw, false, 0⟩]⟩,
  ⟨"RPR_REASON", 0x100, 0x4, 33, 0, 0, [⟨"REASON3", 31, 24, .ro, false, 0⟩,
    ⟨"REASON2", 23, 16, .ro, false, 0⟩,
    ⟨"REASON1", 15, 8, .ro, false, 0⟩,
    ⟨"REASON0", 7, 0, .ro, false, 0⟩]⟩
]

/-- The registers of the CYC_ page above the header (R181). -/
def cycRegs : List RegSpec := [
  ⟨"CYC_LEN", 0x40, 0x0, 1, 0, 0, [⟨"S", 25, 16, .ro, false, 0⟩, ⟨"N", 12, 0, .ro, false, 0⟩]⟩,
  ⟨"CYC_STS", 0x44, 0x0, 1, 0, 0, [⟨"REPLAYING", 2, 2, .ro, false, 0⟩,
    ⟨"HELD", 1, 1, .ro, false, 1⟩,
    ⟨"RUN", 0, 0, .ro, false, 0⟩]⟩,
  ⟨"CYC_COUNT_LO", 0x48, 0x0, 1, 1, 0, [⟨"COUNT", 31, 0, .ro, false, 0⟩]⟩,
  ⟨"CYC_COUNT_HI", 0x4c, 0x0, 1, 2, 0, [⟨"COUNT", 31, 0, .ro, false, 0⟩]⟩
]

/-- The registers of the CLP_ page above the header (R182). -/
def clpRegs : List RegSpec := [
  ⟨"CLP_PROP", 0x40, 0x0, 1, 0, 0, [⟨"PROP", 9, 0, .rwl, true, 0x10⟩]⟩,
  ⟨"CLP_REPLAY_MAX", 0x44, 0x0, 1, 0, 0, [⟨"MAX", 2, 0, .rwl, true, 3⟩]⟩,
  ⟨"CLP_HOST_HOLD", 0x48, 0x0, 1, 0, 0, [⟨"HOLD", 0, 0, .rw, false, 1⟩]⟩,
  ⟨"CLP_CAUSE", 0x4c, 0x0, 1, 0, 0, [⟨"CAUSE", 7, 0, .w1c, false, 0⟩]⟩,
  ⟨"CLP_LIVE", 0x50, 0x0, 1, 0, 0, [⟨"LOCAL", 15, 8, .ro, false, 8⟩, ⟨"CABINET", 7, 0, .ro, false, 0⟩]⟩,
  ⟨"CLP_RELEASE", 0x54, 0x0, 1, 0, 0, [⟨"FAULT", 7, 7, .wo, false, 0⟩,
    ⟨"STOPIF", 5, 5, .wo, false, 0⟩,
    ⟨"TRIG_STOP", 4, 4, .wo, false, 0⟩]⟩,
  ⟨"CLP_REPLAY_CNT", 0x58, 0x0, 1, 0, 0, [⟨"TOTAL", 31, 16, .rw, false, 0⟩, ⟨"CURRENT", 2, 0, .ro, false, 0⟩]⟩,
  ⟨"CLP_HOLD_CNT", 0x5c, 0x0, 1, 0, 0, [⟨"SLOTS", 31, 0, .rw, false, 0⟩]⟩
]

/-- The registers of the LDR_ page above the header (R250). -/
def ldrRegs : List RegSpec := [
  ⟨"LDR_CTL", 0x40, 0x0, 1, 0, 0, [⟨"SRC", 8, 8, .rw, false, 0⟩,
    ⟨"COMMIT", 3, 3, .wo, false, 0⟩,
    ⟨"ABORT", 2, 2, .wo, false, 0⟩,
    ⟨"END", 1, 1, .wo, false, 0⟩,
    ⟨"GO", 0, 0, .wo, false, 0⟩]⟩,
  ⟨"LDR_STS", 0x44, 0x0, 1, 0, 0, [⟨"CHAIN_LEN", 23, 16, .ro, false, 0⟩,
    ⟨"CHAIN_POS", 15, 8, .ro, false, 0⟩,
    ⟨"FORERUNNER", 5, 5, .ro, false, 0⟩,
    ⟨"IMAGE", 4, 4, .ro, false, 0⟩,
    ⟨"STATE", 2, 0, .ro, false, 0⟩]⟩,
  ⟨"LDR_RESULT", 0x48, 0x0, 1, 0, 0, [⟨"FAIL_CODE", 27, 24, .ro, false, 0⟩,
    ⟨"FAIL_POS", 21, 16, .ro, false, 0⟩,
    ⟨"CHECK", 8, 4, .ro, false, 0⟩,
    ⟨"CODE", 3, 0, .ro, false, 0xf⟩]⟩,
  ⟨"LDR_LOAD_ID", 0x4c, 0x0, 1, 0, 0, [⟨"ID", 31, 0, .ro, false, 0⟩]⟩,
  ⟨"LDR_RING_BASE_LO", 0x50, 0x0, 1, 1, 0, [⟨"BASE", 31, 16, .rwl, true, 0⟩]⟩,
  ⟨"LDR_RING_BASE_HI", 0x54, 0x0, 1, 2, 0, [⟨"BASE", 3, 0, .rwl, true, 0xb⟩]⟩,
  ⟨"LDR_RING_SIZE", 0x58, 0x0, 1, 0, 0, [⟨"LOG2", 5, 0, .rwl, true, 0x1e⟩]⟩,
  ⟨"LDR_WORK_BASE_LO", 0x5c, 0x0, 1, 1, 0, [⟨"BASE", 31, 16, .rwl, true, 0⟩]⟩,
  ⟨"LDR_WORK_BASE_HI", 0x60, 0x0, 1, 2, 0, [⟨"BASE", 3, 0, .rwl, true, 0xa⟩]⟩,
  ⟨"LDR_CHAIN_TMO", 0x64, 0x0, 1, 0, 0, [⟨"MS", 15, 0, .rw, true, 0x3e8⟩]⟩,
  ⟨"LDR_WR_PTR", 0x68, 0x0, 1, 0, 0, [⟨"PTR", 31, 0, .rw, false, 0⟩]⟩,
  ⟨"LDR_RD_PTR", 0x6c, 0x0, 1, 0, 0, [⟨"PTR", 31, 0, .ro, false, 0⟩]⟩
] ++ [
  ⟨"LDR_KEY_STS", 0x70, 0x0, 1, 0, 0, [⟨"BATT_VALID", 8, 8, .ro, false, 0⟩,
    ⟨"RETIRED", 7, 4, .ro, false, 0⟩,
    ⟨"PROG", 3, 0, .ro, false, 0⟩]⟩,
  ⟨"LDR_KEY_CTL", 0x74, 0x0, 1, 0, 0, [⟨"BATT_CLEAR", 11, 11, .wo, false, 0⟩,
    ⟨"BATT_WRITE", 10, 10, .wo, false, 0⟩,
    ⟨"RETIRE", 9, 9, .wo, false, 0⟩,
    ⟨"BURN", 8, 8, .wo, false, 0⟩,
    ⟨"SLOT", 1, 0, .rwl, false, 0⟩]⟩,
  ⟨"LDR_KEY_DATA", 0x80, 0x4, 8, 0, 0, [⟨"KEY", 31, 0, .wo, false, 0⟩]⟩,
  ⟨"LDR_CHAIN_ACK_LO", 0xc0, 0x0, 1, 1, 0, [⟨"ACK", 31, 0, .ro, false, 0⟩]⟩,
  ⟨"LDR_CHAIN_ACK_HI", 0xc4, 0x0, 1, 2, 0, [⟨"ACK", 31, 0, .ro, false, 0⟩]⟩,
  ⟨"LDR_BYTES_LO", 0xc8, 0x0, 1, 1, 0, [⟨"COUNT", 31, 0, .ro, false, 0⟩]⟩,
  ⟨"LDR_BYTES_HI", 0xcc, 0x0, 1, 2, 0, [⟨"COUNT", 31, 0, .ro, false, 0⟩]⟩
]

/-- The registers of the VNR_ page above the header (R285). -/
def vnrRegs : List RegSpec := [
  ⟨"VNR_KEY_CTL", 0x40, 0x0, 1, 0, 1, [⟨"RETIRE", 10, 10, .wo, false, 0⟩,
    ⟨"FLUSH", 9, 9, .wo, false, 0⟩,
    ⟨"GENERATE", 8, 8, .wo, false, 0⟩,
    ⟨"ID", 3, 0, .rw, false, 0⟩]⟩,
  ⟨"VNR_KEY_STS", 0x44, 0x0, 1, 0, 1, [⟨"STATE", 31, 0, .ro, false, 0⟩]⟩,
  ⟨"VNR_SEAL_CTL", 0x48, 0x0, 1, 0, 0, [⟨"ZERO", 9, 9, .wo, false, 0⟩,
    ⟨"SEAL", 8, 8, .wo, false, 0⟩,
    ⟨"REGION", 3, 0, .rw, false, 0⟩]⟩,
  ⟨"VNR_SEAL_STS", 0x4c, 0x0, 1, 0, 0, [⟨"BUSY", 0, 0, .ro, false, 0⟩]⟩,
  ⟨"VNR_ALARM_CNT", 0x50, 0x0, 1, 0, 0, [⟨"COUNT", 31, 0, .rw, false, 0⟩]⟩,
  ⟨"VNR_POISON_STS", 0x54, 0x0, 1, 0, 0, [⟨"USED", 6, 0, .ro, false, 0⟩]⟩,
  ⟨"VNR_FIRST_ADDR_LO", 0x58, 0x0, 1, 1, 0, [⟨"ADDR", 31, 0, .ro, false, 0⟩]⟩,
  ⟨"VNR_FIRST_ADDR_HI", 0x5c, 0x0, 1, 2, 0, [⟨"ADDR", 3, 0, .ro, false, 0⟩]⟩,
  ⟨"VNR_SECOND_ADDR_LO", 0x60, 0x0, 1, 1, 0, [⟨"ADDR", 31, 0, .ro, false, 0⟩]⟩,
  ⟨"VNR_SECOND_ADDR_HI", 0x64, 0x0, 1, 2, 0, [⟨"ADDR", 3, 0, .ro, false, 0⟩]⟩,
  ⟨"VNR_RGN_CFG", 0x100, 0x20, 16, 0, 0, [⟨"POISONED", 18, 18, .ro, false, 0⟩,
    ⟨"STATE", 17, 16, .ro, false, 0⟩,
    ⟨"ACCESS", 12, 8, .rwl, false, 0⟩,
    ⟨"KEYID", 7, 4, .rwl, false, 0⟩,
    ⟨"MODE", 2, 1, .rwl, false, 0⟩,
    ⟨"EN", 0, 0, .rwl, false, 0⟩]⟩,
  ⟨"VNR_RGN_BASE", 0x104, 0x20, 16, 0, 0, [⟨"VALUE", 19, 0, .rwl, false, 0⟩]⟩
] ++ [
  ⟨"VNR_RGN_SIZE", 0x108, 0x20, 16, 0, 0, [⟨"VALUE", 19, 0, .rwl, false, 0⟩]⟩,
  ⟨"VNR_RGN_META", 0x10c, 0x20, 16, 0, 0, [⟨"VALUE", 19, 0, .rwl, false, 0⟩]⟩,
  ⟨"VNR_RGN_GEN", 0x110, 0x20, 16, 0, 0, [⟨"GEN", 30, 0, .ro, false, 0⟩]⟩
]

/-- The registers of the BND_ page above the header (R329). BND_TOPO_NBR is read as one quantity under R34, as the other pairs of
the entry shown are: its table does not say so.
DESIGN CHOICE (log 46; unsafe). -/
def bndRegs : List RegSpec := [
  ⟨"BND_CTL", 0x40, 0x0, 1, 0, 0, [⟨"TRAIN_EN", 8, 8, .rwl, true, 1⟩,
    ⟨"FAIL_LANE", 7, 4, .rw, true, 0⟩,
    ⟨"FAILOVER", 1, 1, .wo, false, 0⟩,
    ⟨"RETRAIN", 0, 0, .wo, false, 0⟩]⟩,
  ⟨"BND_STS", 0x44, 0x0, 1, 0, 0, [⟨"MARGIN", 29, 24, .ro, false, 0⟩,
    ⟨"PEER_BUNDLE", 22, 20, .ro, false, 0⟩,
    ⟨"TX_SPARE", 19, 16, .ro, false, 0xf⟩,
    ⟨"FAIL_REASON", 15, 12, .ro, false, 0⟩,
    ⟨"RX_SPARE", 11, 8, .ro, false, 0xf⟩,
    ⟨"TX_SPARE_USED", 7, 7, .ro, false, 0⟩,
    ⟨"LOAD_MODE", 6, 6, .ro, false, 0⟩,
    ⟨"DEGRADED", 5, 5, .ro, false, 0⟩,
    ⟨"RX_SPARE_USED", 4, 4, .ro, false, 0⟩,
    ⟨"STATE", 3, 0, .ro, false, 0⟩]⟩,
  ⟨"BND_PEER_SERIAL_LO", 0x48, 0x0, 1, 1, 0, [⟨"SERIAL", 31, 0, .ro, false, 0⟩]⟩,
  ⟨"BND_PEER_SERIAL_HI", 0x4c, 0x0, 1, 2, 0, [⟨"SERIAL", 31, 0, .ro, false, 0⟩]⟩,
  ⟨"BND_FEC_CE_CNT", 0x54, 0x0, 1, 0, 0, [⟨"COUNT", 31, 0, .rw, false, 0⟩]⟩,
  ⟨"BND_FEC_UE_CNT", 0x58, 0x0, 1, 0, 0, [⟨"COUNT", 31, 0, .rw, false, 0⟩]⟩,
  ⟨"BND_INJ", 0x5c, 0x0, 1, 0, 0, [⟨"ARM", 3, 3, .wo, false, 0⟩, ⟨"SYMBOLS", 2, 0, .rw, false, 0⟩]⟩,
  ⟨"BND_EVT_CNT", 0x64, 0x0, 1, 0, 0, [⟨"RETRY", 31, 16, .rw, false, 0⟩, ⟨"VOTE_LOST", 15, 0, .rw, false, 0⟩]⟩,
  ⟨"BND_MESH_TX", 0x70, 0x4, 4, 0, 0, [⟨"DATA", 31, 0, .rw, false, 0⟩]⟩,
  ⟨"BND_CLK", 0x80, 0x0, 1, 0, 1, [⟨"HOLDOVER", 9, 9, .ro, false, 0⟩,
    ⟨"LOCKED", 8, 8, .ro, false, 0⟩,
    ⟨"UPSTREAM", 6, 4, .rwl, true, 0⟩,
    ⟨"MODE", 0, 0, .rwl, true, 0⟩]⟩,
  ⟨"BND_CAB_ID", 0x84, 0x0, 1, 0, 1, [⟨"ID", 31, 0, .rwl, true, 0⟩]⟩,
  ⟨"BND_TIME_CTL", 0x88, 0x0, 1, 0, 1, [⟨"INTERVAL", 31, 16, .rw, true, 0x3e8⟩, ⟨"EN", 0, 0, .rw, true, 1⟩]⟩
] ++ [
  ⟨"BND_MESH_CTL", 0xc0, 0x0, 1, 0, 0, [⟨"RX_TAG", 27, 24, .ro, false, 0⟩,
    ⟨"RX_COUNT", 23, 20, .ro, false, 0⟩,
    ⟨"TX_BUSY", 16, 16, .ro, false, 0⟩,
    ⟨"POP", 9, 9, .wo, false, 0⟩,
    ⟨"SEND", 8, 8, .wo, false, 0⟩,
    ⟨"TAG", 3, 0, .rw, false, 0⟩]⟩,
  ⟨"BND_MESH_RX", 0xd0, 0x4, 4, 0, 0, [⟨"DATA", 31, 0, .ro, false, 0⟩]⟩,
  ⟨"BND_TS_TX_LO", 0xe0, 0x0, 1, 1, 0, [⟨"TIME", 31, 0, .ro, false, 0⟩]⟩,
  ⟨"BND_TS_TX_HI", 0xe4, 0x0, 1, 2, 0, [⟨"TIME", 31, 0, .ro, false, 0⟩]⟩,
  ⟨"BND_TS_RX_LO", 0xe8, 0x0, 1, 1, 0, [⟨"TIME", 31, 0, .ro, false, 0⟩]⟩,
  ⟨"BND_TS_RX_HI", 0xec, 0x0, 1, 2, 0, [⟨"TIME", 31, 0, .ro, false, 0⟩]⟩,
  ⟨"BND_TS_REMOTE_LO", 0xf0, 0x0, 1, 1, 0, [⟨"TIME", 31, 0, .ro, false, 0⟩]⟩,
  ⟨"BND_TS_REMOTE_HI", 0xf4, 0x0, 1, 2, 0, [⟨"TIME", 31, 0, .ro, false, 0⟩]⟩,
  ⟨"BND_TS_ECHO_LO", 0xf8, 0x0, 1, 1, 0, [⟨"TIME", 31, 0, .ro, false, 0⟩]⟩,
  ⟨"BND_TS_ECHO_HI", 0xfc, 0x0, 1, 2, 0, [⟨"TIME", 31, 0, .ro, false, 0⟩]⟩,
  ⟨"BND_TS_STS", 0x100, 0x0, 1, 0, 0, [⟨"MISS", 31, 28, .rw, false, 0⟩,
    ⟨"FULL", 24, 24, .ro, false, 0⟩,
    ⟨"ECHO_SEQ", 23, 16, .ro, false, 0⟩,
    ⟨"RX_SEQ", 15, 8, .ro, false, 0⟩,
    ⟨"TX_SEQ", 7, 0, .ro, false, 0⟩]⟩,
  ⟨"BND_TS_ACK", 0x104, 0x0, 1, 0, 0, [⟨"ACK", 0, 0, .wo, false, 0⟩]⟩
] ++ [
  ⟨"BND_CSC_LO", 0x180, 0x0, 1, 1, 1, [⟨"COUNT", 31, 0, .ro, false, 0⟩]⟩,
  ⟨"BND_CSC_HI", 0x184, 0x0, 1, 2, 1, [⟨"COUNT", 31, 0, .ro, false, 0⟩]⟩,
  ⟨"BND_TOPO_STS", 0x188, 0x0, 1, 0, 1, [⟨"OVERFLOW", 17, 17, .ro, false, 0⟩,
    ⟨"STABLE", 16, 16, .ro, false, 0⟩,
    ⟨"DEVICES", 14, 8, .ro, false, 1⟩,
    ⟨"DIAMETER", 5, 0, .ro, false, 0⟩]⟩,
  ⟨"BND_TOPO_IDX", 0x18c, 0x0, 1, 0, 1, [⟨"ENTRY", 5, 0, .rw, false, 0⟩]⟩,
  ⟨"BND_TOPO_SERIAL_LO", 0x190, 0x0, 1, 1, 1, [⟨"SERIAL", 31, 0, .ro, false, 0⟩]⟩,
  ⟨"BND_TOPO_SERIAL_HI", 0x194, 0x0, 1, 2, 1, [⟨"SERIAL", 31, 0, .ro, false, 0⟩]⟩,
  ⟨"BND_TOPO_NBR_LO", 0x198, 0x0, 1, 1, 1, [⟨"VALID3", 31, 31, .ro, false, 0⟩,
    ⟨"NBR3", 29, 24, .ro, false, 0⟩,
    ⟨"VALID2", 23, 23, .ro, false, 0⟩,
    ⟨"NBR2", 21, 16, .ro, false, 0⟩,
    ⟨"VALID1", 15, 15, .ro, false, 0⟩,
    ⟨"NBR1", 13, 8, .ro, false, 0⟩,
    ⟨"VALID0", 7, 7, .ro, false, 0⟩,
    ⟨"NBR0", 5, 0, .ro, false, 0⟩]⟩,
  ⟨"BND_TOPO_NBR_HI", 0x19c, 0x0, 1, 2, 1, [⟨"VALID5", 15, 15, .ro, false, 0⟩,
    ⟨"NBR5", 13, 8, .ro, false, 0⟩,
    ⟨"VALID4", 7, 7, .ro, false, 0⟩,
    ⟨"NBR4", 5, 0, .ro, false, 0⟩]⟩
]

/-- The registers of the LN_ page above the header (R331). -/
def lnRegs : List RegSpec := [
  ⟨"LN_CTL", 0x40, 0x0, 1, 0, 0, [⟨"INJ", 8, 8, .wo, false, 0⟩,
    ⟨"PRBS_ON", 6, 6, .rw, false, 0⟩,
    ⟨"PRBS", 5, 4, .rw, false, 0⟩,
    ⟨"LOOP", 1, 0, .rw, false, 0⟩]⟩,
  ⟨"LN_STS", 0x44, 0x0, 1, 0, 0, [⟨"PRBS_LOCK", 14, 14, .ro, false, 0⟩,
    ⟨"CDR_LOCK", 13, 13, .ro, false, 0⟩,
    ⟨"SIG", 12, 12, .ro, false, 0⟩,
    ⟨"TX_LOGICAL", 11, 8, .ro, false, 0⟩,
    ⟨"TX_ROLE", 7, 6, .ro, false, 3⟩,
    ⟨"RX_LOGICAL", 5, 2, .ro, false, 0⟩,
    ⟨"RX_ROLE", 1, 0, .ro, false, 3⟩]⟩,
  ⟨"LN_PRBS_ERR", 0x48, 0x0, 1, 0, 0, [⟨"COUNT", 31, 0, .rw, false, 0⟩]⟩,
  ⟨"LN_EQ_LO", 0x4c, 0x0, 1, 1, 0, [⟨"ENTRY", 31, 0, .ro, false, 0⟩]⟩,
  ⟨"LN_EQ_HI", 0x50, 0x0, 1, 2, 0, [⟨"ENTRY", 31, 0, .ro, false, 0⟩]⟩
]

/-- The registers of the GAU_ page above the header (R365). -/
def gauRegs : List RegSpec := [
  ⟨"GAU_CTL", 0x40, 0x0, 1, 0, 2, [⟨"FALL", 9, 9, .rwl, true, 0⟩, ⟨"EDGE", 8, 4, .rwl, true, 0⟩, ⟨"SRC", 1, 0, .rwl, true, 0⟩]⟩,
  ⟨"GAU_STS", 0x44, 0x0, 1, 0, 0, [⟨"GOOD", 6, 4, .ro, false, 0⟩,
    ⟨"HOLDOVER", 1, 1, .ro, false, 0⟩,
    ⟨"TRACK", 0, 0, .ro, false, 0⟩]⟩,
  ⟨"GAU_VALUE_LO", 0x48, 0x0, 1, 1, 0, [⟨"VALUE", 31, 0, .ro, false, 0⟩]⟩,
  ⟨"GAU_VALUE_HI", 0x4c, 0x0, 1, 2, 0, [⟨"VALUE", 31, 0, .ro, false, 0⟩]⟩,
  ⟨"GAU_INC_LO", 0x50, 0x0, 1, 1, 0, [⟨"INC", 31, 0, .rw, true, 0⟩]⟩,
  ⟨"GAU_INC_HI", 0x54, 0x0, 1, 2, 0, [⟨"INC", 7, 0, .rw, true, 1⟩]⟩,
  ⟨"GAU_INC_NOW_LO", 0x58, 0x0, 1, 1, 0, [⟨"INC", 31, 0, .ro, false, 0⟩]⟩,
  ⟨"GAU_INC_NOW_HI", 0x5c, 0x0, 1, 2, 0, [⟨"INC", 7, 0, .ro, false, 1⟩]⟩,
  ⟨"GAU_ADJ_LO", 0x60, 0x0, 1, 1, 0, [⟨"VALUE", 31, 0, .wo, false, 0⟩]⟩,
  ⟨"GAU_ADJ_HI", 0x64, 0x0, 1, 2, 0, [⟨"VALUE", 31, 0, .wo, false, 0⟩]⟩,
  ⟨"GAU_SET_LO", 0x68, 0x0, 1, 1, 0, [⟨"VALUE", 31, 0, .wo, false, 0⟩]⟩,
  ⟨"GAU_SET_HI", 0x6c, 0x0, 1, 2, 0, [⟨"VALUE", 31, 0, .wo, false, 0⟩]⟩
] ++ [
  ⟨"GAU_PPS_PERIOD", 0x70, 0x0, 1, 0, 0, [⟨"PERIOD", 31, 0, .rw, true, 0x3b9aca00⟩]⟩,
  ⟨"GAU_TCLK_NS_LO", 0x74, 0x0, 1, 1, 0, [⟨"NS", 31, 0, .rw, true, 0⟩]⟩,
  ⟨"GAU_TCLK_NS_HI", 0x78, 0x0, 1, 2, 0, [⟨"NS", 7, 0, .rw, true, 0xa⟩]⟩,
  ⟨"GAU_TCLK_WIN", 0x7c, 0x0, 1, 0, 0, [⟨"WIN", 4, 0, .rw, true, 0x14⟩]⟩,
  ⟨"GAU_EDGE_VALUE_LO", 0x80, 0x0, 1, 1, 0, [⟨"VALUE", 31, 0, .ro, false, 0⟩]⟩,
  ⟨"GAU_EDGE_VALUE_HI", 0x84, 0x0, 1, 2, 0, [⟨"VALUE", 31, 0, .ro, false, 0⟩]⟩,
  ⟨"GAU_EDGE_MEAS", 0x88, 0x0, 1, 0, 0, [⟨"COUNT", 31, 0, .ro, false, 0⟩]⟩,
  ⟨"GAU_EDGE_REJ", 0x8c, 0x0, 1, 0, 0, [⟨"COUNT", 31, 0, .rw, false, 0⟩]⟩,
  ⟨"GAU_EVT_CTL", 0xc0, 0x0, 1, 0, 0, [⟨"INV", 8, 8, .rw, false, 0⟩,
    ⟨"GAUGE", 7, 4, .rw, false, 0⟩,
    ⟨"MODE", 2, 1, .rw, false, 0⟩,
    ⟨"ARM", 0, 0, .rw, false, 0⟩]⟩,
  ⟨"GAU_EVT_STS", 0xc4, 0x0, 1, 0, 0, [⟨"PENDING", 2, 2, .ro, false, 0⟩,
    ⟨"OUT", 1, 1, .ro, false, 0⟩,
    ⟨"FIRED", 0, 0, .ro, false, 0⟩]⟩,
  ⟨"GAU_EVT_A_LO", 0xc8, 0x0, 1, 1, 0, [⟨"TIME", 31, 0, .rw, false, 0⟩]⟩,
  ⟨"GAU_EVT_A_HI", 0xcc, 0x0, 1, 2, 0, [⟨"TIME", 31, 0, .rw, false, 0⟩]⟩
] ++ [
  ⟨"GAU_EVT_B_LO", 0xd0, 0x0, 1, 1, 0, [⟨"TIME", 31, 0, .rw, false, 0⟩]⟩,
  ⟨"GAU_EVT_B_HI", 0xd4, 0x0, 1, 2, 0, [⟨"TIME", 31, 0, .rw, false, 0⟩]⟩,
  ⟨"GAU_EVT_WIDTH", 0xd8, 0x0, 1, 0, 0, [⟨"VALUE", 31, 0, .rw, false, 0⟩]⟩,
  ⟨"GAU_EVT_MISS", 0xdc, 0x0, 1, 0, 0, [⟨"VALUE", 31, 0, .rw, false, 0⟩]⟩,
  ⟨"GAU_PACE_CTL", 0x100, 0x0, 1, 0, 1, [⟨"GAUGE", 7, 4, .rw, false, 0⟩, ⟨"EN", 0, 0, .rw, false, 0⟩]⟩,
  ⟨"GAU_PACE_T0_LO", 0x108, 0x0, 1, 1, 1, [⟨"TIME", 31, 0, .rw, false, 0⟩]⟩,
  ⟨"GAU_PACE_T0_HI", 0x10c, 0x0, 1, 2, 1, [⟨"TIME", 31, 0, .rw, false, 0⟩]⟩,
  ⟨"GAU_PACE_P_LO", 0x110, 0x0, 1, 1, 1, [⟨"TIME", 31, 0, .rw, false, 0⟩]⟩,
  ⟨"GAU_PACE_P_HI", 0x114, 0x0, 1, 2, 1, [⟨"TIME", 31, 0, .rw, false, 0⟩]⟩,
  ⟨"GAU_PACE_LEAD", 0x118, 0x0, 1, 0, 1, [⟨"VALUE", 31, 0, .rw, false, 0xa0000⟩]⟩,
  ⟨"GAU_PACE_TOL", 0x11c, 0x0, 1, 0, 1, [⟨"VALUE", 31, 0, .rw, false, 0x280000⟩]⟩,
  ⟨"GAU_PACE_NEXT_LO", 0x120, 0x0, 1, 1, 1, [⟨"TIME", 31, 0, .ro, false, 0⟩]⟩
] ++ [
  ⟨"GAU_PACE_NEXT_HI", 0x124, 0x0, 1, 2, 1, [⟨"TIME", 31, 0, .ro, false, 0⟩]⟩,
  ⟨"GAU_PACE_START_LO", 0x128, 0x0, 1, 1, 1, [⟨"TIME", 31, 0, .ro, false, 0⟩]⟩,
  ⟨"GAU_PACE_START_HI", 0x12c, 0x0, 1, 2, 1, [⟨"TIME", 31, 0, .ro, false, 0⟩]⟩,
  ⟨"GAU_PACE_LATE_CNT", 0x130, 0x0, 1, 0, 1, [⟨"VALUE", 31, 0, .rw, false, 0⟩]⟩
]

/-- The registers of the TRG_ page above the header (R404). -/
def trgRegs : List RegSpec := [
  ⟨"TRG_CTL", 0x40, 0x0, 1, 0, 0, [⟨"ARM", 0, 0, .rw, false, 0⟩]⟩,
  ⟨"TRG_STS", 0x44, 0x0, 1, 0, 0, [⟨"AUTO_FIRED", 5, 5, .ro, false, 0⟩,
    ⟨"TRIGGERED", 4, 4, .ro, false, 0⟩,
    ⟨"STATE", 3, 0, .ro, false, 0⟩]⟩,
  ⟨"TRG_TRIG_CYCLE_LO", 0x48, 0x0, 1, 1, 0, [⟨"CYCLE", 31, 0, .ro, false, 0⟩]⟩,
  ⟨"TRG_TRIG_CYCLE_HI", 0x4c, 0x0, 1, 2, 0, [⟨"CYCLE", 31, 0, .ro, false, 0⟩]⟩,
  ⟨"TRG_AUTO_CTL", 0x50, 0x0, 1, 0, 0, [⟨"STOP", 8, 8, .rw, false, 0⟩, ⟨"GAUGE", 7, 4, .rw, false, 0⟩, ⟨"EN", 0, 0, .rw, false, 0⟩]⟩,
  ⟨"TRG_AUTO_TMO_LO", 0x58, 0x0, 1, 1, 0, [⟨"TIME", 31, 0, .rw, false, 0⟩]⟩,
  ⟨"TRG_AUTO_TMO_HI", 0x5c, 0x0, 1, 2, 0, [⟨"TIME", 31, 0, .rw, false, 0⟩]⟩,
  ⟨"TRG_TMR_CTL", 0x60, 0x0, 1, 0, 0, [⟨"DUE", 23, 20, .ro, false, 0⟩,
    ⟨"RUN", 19, 16, .ro, false, 0⟩,
    ⟨"GAUGE", 15, 0, .rw, false, 0⟩]⟩,
  ⟨"TRG_TMR_DUR_LO", 0x80, 0x8, 4, 1, 0, [⟨"TIME", 31, 0, .rw, false, 0⟩]⟩,
  ⟨"TRG_TMR_DUR_HI", 0x84, 0x8, 4, 2, 0, [⟨"TIME", 31, 0, .rw, false, 0⟩]⟩,
  ⟨"TRG_CNT", 0xa0, 0x4, 4, 0, 0, [⟨"VALUE", 31, 0, .ro, false, 0⟩]⟩,
  ⟨"TRG_CNT_LIM", 0xb0, 0x4, 4, 0, 0, [⟨"VALUE", 31, 0, .rw, false, 0⟩]⟩
] ++ [
  ⟨"TRG_SEL_A_LO", 0x200, 0x20, 16, 1, 0, [⟨"CMP", 31, 0, .rw, false, 0⟩]⟩,
  ⟨"TRG_SEL_A_HI", 0x204, 0x20, 16, 2, 0, [⟨"OTHER", 27, 0, .rw, false, 0⟩]⟩,
  ⟨"TRG_CTL_A", 0x208, 0x20, 16, 0, 0, [⟨"TMR_CLR", 31, 28, .rw, false, 0⟩,
    ⟨"TMR_START", 27, 24, .rw, false, 0⟩,
    ⟨"CNT_CLR", 23, 20, .rw, false, 0⟩,
    ⟨"CNT_INC", 19, 16, .rw, false, 0⟩,
    ⟨"CAP_STOP", 12, 12, .rw, false, 0⟩,
    ⟨"CAP_START", 11, 11, .rw, false, 0⟩,
    ⟨"MARK", 10, 10, .rw, false, 0⟩,
    ⟨"STOP", 9, 9, .rw, false, 0⟩,
    ⟨"TRIGGER", 8, 8, .rw, false, 0⟩,
    ⟨"NEXT", 7, 4, .rw, false, 0⟩,
    ⟨"FUNC", 1, 0, .rw, false, 0⟩]⟩,
  ⟨"TRG_SEL_B_LO", 0x210, 0x20, 16, 1, 0, [⟨"CMP", 31, 0, .rw, false, 0⟩]⟩,
  ⟨"TRG_SEL_B_HI", 0x214, 0x20, 16, 2, 0, [⟨"OTHER", 27, 0, .rw, false, 0⟩]⟩,
  ⟨"TRG_CTL_B", 0x218, 0x20, 16, 0, 0, [⟨"TMR_CLR", 31, 28, .rw, false, 0⟩,
    ⟨"TMR_START", 27, 24, .rw, false, 0⟩,
    ⟨"CNT_CLR", 23, 20, .rw, false, 0⟩,
    ⟨"CNT_INC", 19, 16, .rw, false, 0⟩,
    ⟨"CAP_STOP", 12, 12, .rw, false, 0⟩,
    ⟨"CAP_START", 11, 11, .rw, false, 0⟩,
    ⟨"MARK", 10, 10, .rw, false, 0⟩,
    ⟨"STOP", 9, 9, .rw, false, 0⟩,
    ⟨"TRIGGER", 8, 8, .rw, false, 0⟩,
    ⟨"NEXT", 7, 4, .rw, false, 0⟩,
    ⟨"FUNC", 1, 0, .rw, false, 0⟩]⟩,
  ⟨"TRG_CMP_CTL", 0x400, 0x20, 32, 0, 0, [⟨"MODE", 9, 8, .rw, false, 0⟩,
    ⟨"PLANE", 6, 6, .rw, false, 0⟩,
    ⟨"GROUP", 5, 0, .rw, false, 0⟩]⟩,
  ⟨"TRG_CMP_VALUE_LO", 0x408, 0x20, 32, 1, 0, [⟨"V", 31, 0, .rw, false, 0⟩]⟩,
  ⟨"TRG_CMP_VALUE_HI", 0x40c, 0x20, 32, 2, 0, [⟨"V", 31, 0, .rw, false, 0⟩]⟩,
  ⟨"TRG_CMP_MASK_LO", 0x410, 0x20, 32, 1, 0, [⟨"M", 31, 0, .rw, false, 0⟩]⟩,
  ⟨"TRG_CMP_MASK_HI", 0x414, 0x20, 32, 2, 0, [⟨"M", 31, 0, .rw, false, 0⟩]⟩,
  ⟨"TRG_ACT_CTL", 0x800, 0x0, 1, 0, 0, [⟨"EN", 16, 16, .rw, false, 0⟩,
    ⟨"GAUGE", 15, 12, .rw, false, 0⟩,
    ⟨"DIR", 9, 8, .rw, false, 0⟩,
    ⟨"K", 4, 0, .rw, false, 0⟩]⟩
] ++ [
  ⟨"TRG_ACT_THR", 0x810, 0x4, 4, 0, 0, [⟨"VALUE", 23, 0, .rw, false, 0⟩]⟩,
  ⟨"TRG_ACT_LAST", 0x820, 0x4, 4, 0, 0, [⟨"VALID", 31, 31, .ro, false, 0⟩, ⟨"VALUE", 23, 0, .ro, false, 0⟩]⟩,
  ⟨"TRG_ACT_XFRAC", 0x830, 0x4, 4, 0, 0, [⟨"VALID", 31, 31, .ro, false, 0⟩,
    ⟨"DOWN", 16, 16, .ro, false, 0⟩,
    ⟨"FRAC", 8, 0, .ro, false, 0⟩]⟩,
  ⟨"TRG_ACT_XTIME_LO", 0x840, 0x8, 4, 1, 0, [⟨"TIME", 31, 0, .ro, false, 0⟩]⟩,
  ⟨"TRG_ACT_XTIME_HI", 0x844, 0x8, 4, 2, 0, [⟨"TIME", 31, 0, .ro, false, 0⟩]⟩
]

/-- The registers of the CAP_ page above the header (R405). -/
def capRegs : List RegSpec := [
  ⟨"CAP_CTL", 0x40, 0x0, 1, 0, 0, [⟨"RESTORE", 9, 9, .wo, false, 0⟩,
    ⟨"SNAP", 8, 8, .wo, false, 0⟩,
    ⟨"MODE", 1, 1, .rw, false, 0⟩,
    ⟨"ARM", 0, 0, .rw, false, 0⟩]⟩,
  ⟨"CAP_STS", 0x44, 0x0, 1, 0, 0, [⟨"RESTORE_BAD", 10, 10, .ro, false, 0⟩,
    ⟨"RESTORE_BUSY", 9, 9, .ro, false, 0⟩,
    ⟨"SNAP_BUSY", 8, 8, .ro, false, 0⟩,
    ⟨"GATE", 4, 4, .ro, false, 0⟩,
    ⟨"WRAPPED", 3, 3, .ro, false, 0⟩,
    ⟨"STATE", 2, 0, .ro, false, 0⟩]⟩,
  ⟨"CAP_BASE_LO", 0x48, 0x0, 1, 1, 0, [⟨"BASE", 31, 16, .rw, false, 0⟩]⟩,
  ⟨"CAP_BASE_HI", 0x4c, 0x0, 1, 2, 0, [⟨"BASE", 3, 0, .rw, false, 0⟩]⟩,
  ⟨"CAP_SIZE", 0x50, 0x0, 1, 0, 0, [⟨"LOG2", 5, 0, .rw, false, 0⟩]⟩,
  ⟨"CAP_GROUPS_LO", 0x58, 0x0, 1, 1, 0, [⟨"MASK", 31, 0, .rw, false, 0⟩]⟩,
  ⟨"CAP_GROUPS_HI", 0x5c, 0x0, 1, 2, 0, [⟨"MASK", 31, 0, .rw, false, 0⟩]⟩,
  ⟨"CAP_POST", 0x60, 0x0, 1, 0, 0, [⟨"VALUE", 31, 0, .rw, false, 0⟩]⟩,
  ⟨"CAP_WR_SLOT", 0x64, 0x0, 1, 0, 0, [⟨"VALUE", 31, 0, .ro, false, 0⟩]⟩,
  ⟨"CAP_TRIG_SLOT", 0x68, 0x0, 1, 0, 0, [⟨"VALUE", 31, 0, .ro, false, 0⟩]⟩,
  ⟨"CAP_DROP_CNT", 0x6c, 0x0, 1, 0, 0, [⟨"VALUE", 31, 0, .rw, false, 0⟩]⟩,
  ⟨"CAP_CAPACITY", 0x70, 0x0, 1, 0, 0, [⟨"VALUE", 31, 0, .ro, false, 0⟩]⟩
] ++ [
  ⟨"CAP_SNAP_BASE_LO", 0x80, 0x0, 1, 1, 0, [⟨"BASE", 31, 16, .rw, false, 0⟩]⟩,
  ⟨"CAP_SNAP_BASE_HI", 0x84, 0x0, 1, 2, 0, [⟨"BASE", 3, 0, .rw, false, 0⟩]⟩,
  ⟨"CAP_SNAP_LEN", 0x88, 0x0, 1, 0, 0, [⟨"VALUE", 19, 0, .ro, false, 0⟩]⟩,
  ⟨"CAP_SNAP_EXT_BASE_LO", 0xc0, 0x10, 8, 1, 0, [⟨"BASE", 31, 16, .rw, false, 0⟩]⟩,
  ⟨"CAP_SNAP_EXT_BASE_HI", 0xc4, 0x10, 8, 2, 0, [⟨"BASE", 3, 0, .rw, false, 0⟩]⟩,
  ⟨"CAP_SNAP_EXT_SIZE", 0xc8, 0x10, 8, 0, 0, [⟨"VALUE", 19, 0, .rw, false, 0⟩]⟩
]

/-- The registers of the MEAS_ page above the header (R406). -/
def measRegs : List RegSpec := [
  ⟨"MEAS_CTL", 0x40, 0x0, 1, 0, 0, [⟨"WIDTH_M1", 29, 24, .rw, false, 0⟩,
    ⟨"LSB", 21, 16, .rw, false, 0⟩,
    ⟨"GROUP", 13, 8, .rw, false, 0⟩,
    ⟨"PLANE", 4, 4, .rw, false, 0⟩,
    ⟨"MODE", 3, 1, .rw, false, 0⟩,
    ⟨"ARM", 0, 0, .rw, false, 0⟩]⟩,
  ⟨"MEAS_STS", 0x44, 0x0, 1, 0, 0, [⟨"VALID", 0, 0, .ro, false, 0⟩]⟩,
  ⟨"MEAS_LAST_LO", 0x48, 0x0, 1, 1, 0, [⟨"VALUE", 31, 0, .ro, false, 0⟩]⟩,
  ⟨"MEAS_LAST_HI", 0x4c, 0x0, 1, 2, 0, [⟨"VALUE", 31, 0, .ro, false, 0⟩]⟩,
  ⟨"MEAS_MIN_LO", 0x50, 0x0, 1, 1, 0, [⟨"VALUE", 31, 0, .ro, false, 0⟩]⟩,
  ⟨"MEAS_MIN_HI", 0x54, 0x0, 1, 2, 0, [⟨"VALUE", 31, 0, .ro, false, 0⟩]⟩,
  ⟨"MEAS_MAX_LO", 0x58, 0x0, 1, 1, 0, [⟨"VALUE", 31, 0, .ro, false, 0⟩]⟩,
  ⟨"MEAS_MAX_HI", 0x5c, 0x0, 1, 2, 0, [⟨"VALUE", 31, 0, .ro, false, 0⟩]⟩,
  ⟨"MEAS_N_LO", 0x60, 0x0, 1, 1, 0, [⟨"VALUE", 31, 0, .ro, false, 0⟩]⟩,
  ⟨"MEAS_N_HI", 0x64, 0x0, 1, 2, 0, [⟨"VALUE", 31, 0, .ro, false, 0⟩]⟩,
  ⟨"MEAS_TIME_LO", 0x68, 0x0, 1, 1, 0, [⟨"VALUE", 31, 0, .ro, false, 0⟩]⟩,
  ⟨"MEAS_TIME_HI", 0x6c, 0x0, 1, 2, 0, [⟨"VALUE", 31, 0, .ro, false, 0⟩]⟩
] ++ [
  ⟨"MEAS_AT_LO", 0x70, 0x0, 1, 1, 0, [⟨"VALUE", 31, 0, .ro, false, 0⟩]⟩,
  ⟨"MEAS_AT_HI", 0x74, 0x0, 1, 2, 0, [⟨"VALUE", 31, 0, .ro, false, 0⟩]⟩
]

/-- The registers of the TRC_ page above the header (R407). -/
def trcRegs : List RegSpec := [
  ⟨"TRC_CTL", 0x40, 0x0, 1, 0, 0, [⟨"TRIG", 8, 8, .wo, false, 0⟩,
    ⟨"TRIG_SRC", 5, 4, .rw, false, 0⟩,
    ⟨"DEST", 3, 3, .rw, false, 0⟩,
    ⟨"DTRACE", 2, 2, .rw, false, 0⟩,
    ⟨"ITRACE", 1, 1, .rw, false, 0⟩,
    ⟨"RUN", 0, 0, .rw, false, 0⟩]⟩,
  ⟨"TRC_STS", 0x44, 0x0, 1, 0, 0, [⟨"WRAPPED", 3, 3, .ro, false, 0⟩,
    ⟨"SUSPENDED", 2, 2, .ro, false, 0⟩,
    ⟨"STOPPED", 1, 1, .ro, false, 0⟩,
    ⟨"TRIGGERED", 0, 0, .ro, false, 0⟩]⟩,
  ⟨"TRC_AUTH", 0x48, 0x0, 1, 0, 0, [⟨"M", 0, 0, .rw, false, 0⟩]⟩,
  ⟨"TRC_POST", 0x4c, 0x0, 1, 0, 0, [⟨"VALUE", 31, 0, .rw, false, 0⟩]⟩,
  ⟨"TRC_TS_INTERVAL_LO", 0x50, 0x0, 1, 1, 0, [⟨"VALUE", 31, 0, .rw, false, 0⟩]⟩,
  ⟨"TRC_TS_INTERVAL_HI", 0x54, 0x0, 1, 2, 0, [⟨"VALUE", 31, 0, .rw, false, 0⟩]⟩,
  ⟨"TRC_HBM_BASE_LO", 0x58, 0x0, 1, 1, 0, [⟨"VALUE", 31, 16, .rw, false, 0⟩]⟩,
  ⟨"TRC_HBM_BASE_HI", 0x5c, 0x0, 1, 2, 0, [⟨"VALUE", 3, 0, .rw, false, 0⟩]⟩,
  ⟨"TRC_HBM_SIZE", 0x60, 0x0, 1, 0, 0, [⟨"LOG2", 5, 0, .rw, false, 0⟩]⟩,
  ⟨"TRC_WR_OFF", 0x64, 0x0, 1, 0, 0, [⟨"VALUE", 31, 0, .ro, false, 0⟩]⟩,
  ⟨"TRC_TRIG_OFF", 0x68, 0x0, 1, 0, 0, [⟨"VALUE", 31, 0, .ro, false, 0⟩]⟩,
  ⟨"TRC_OVF_CNT", 0x6c, 0x0, 1, 0, 0, [⟨"VALUE", 31, 0, .rw, false, 0⟩]⟩
] ++ [
  ⟨"TRC_RANGE_START", 0x80, 0x10, 4, 0, 0, [⟨"ADDR", 31, 0, .rw, false, 0⟩]⟩,
  ⟨"TRC_RANGE_END", 0x84, 0x10, 4, 0, 0, [⟨"ADDR", 31, 0, .rw, false, 0⟩]⟩,
  ⟨"TRC_RANGE_CTL", 0x88, 0x10, 4, 0, 0, [⟨"DATA", 1, 1, .rw, false, 0⟩, ⟨"INSTR", 0, 0, .rw, false, 0⟩]⟩,
  ⟨"TRC_BUF_WIN", 0xc0, 0x0, 1, 0, 0, [⟨"VALUE", 6, 0, .rw, false, 0⟩]⟩
]

/-- The registers of the CC_ page above the header (R438). -/
def ccRegs : List RegSpec := [
  ⟨"CC_BOOT", 0x40, 0x0, 1, 0, 0, [⟨"ADDR", 31, 2, .rwl, true, 0x8000000⟩]⟩,
  ⟨"CC_GROUP_SEL", 0x44, 0x0, 1, 0, 0, [⟨"MASK", 15, 0, .rw, false, 1⟩]⟩,
  ⟨"CC_HBM_WIN", 0x48, 0x0, 1, 0, 0, [⟨"WIN", 4, 0, .rw, false, 0⟩]⟩,
  ⟨"CC_STS", 0x4c, 0x0, 1, 0, 0, [⟨"STATE", 4, 0, .ro, false, 0⟩]⟩,
  ⟨"CC_MSIP", 0x50, 0x0, 1, 0, 0, [⟨"MSIP", 0, 0, .rw, false, 0⟩]⟩,
  ⟨"CC_MTIMECMP_LO", 0x58, 0x0, 1, 1, 0, [⟨"CMP", 31, 0, .rw, false, 0xffffffff⟩]⟩,
  ⟨"CC_MTIMECMP_HI", 0x5c, 0x0, 1, 2, 0, [⟨"CMP", 31, 0, .rw, false, 0xffffffff⟩]⟩,
  ⟨"CC_IRQ_EN_LO", 0x60, 0x0, 1, 1, 0, [⟨"EN", 31, 0, .rw, false, 0⟩]⟩,
  ⟨"CC_IRQ_EN_HI", 0x64, 0x0, 1, 2, 0, [⟨"EN", 31, 0, .rw, false, 0⟩]⟩,
  ⟨"CC_IRQ_PEND_LO", 0x68, 0x0, 1, 1, 0, [⟨"PEND", 31, 0, .ro, false, 0⟩]⟩,
  ⟨"CC_IRQ_PEND_HI", 0x6c, 0x0, 1, 2, 0, [⟨"PEND", 31, 0, .ro, false, 0⟩]⟩,
  ⟨"CC_IRQ_LOC", 0x70, 0x0, 1, 0, 0, [⟨"FOUND", 31, 31, .ro, false, 0⟩,
    ⟨"PAGE", 25, 12, .ro, false, 0⟩,
    ⟨"SRC", 5, 0, .rw, false, 0⟩]⟩
] ++ [
  ⟨"CC_ALARM_ACK", 0x74, 0x0, 1, 0, 0, [⟨"ACK", 0, 0, .wo, false, 0⟩]⟩,
  ⟨"CC_WD_CTL", 0x80, 0x0, 1, 0, 0, [⟨"RUN_URG", 13, 8, .rw, false, 0⟩,
    ⟨"THREAD", 1, 1, .rw, false, 0⟩,
    ⟨"POOL", 0, 0, .rw, false, 0⟩]⟩,
  ⟨"CC_WD_ITEM", 0x90, 0x4, 4, 0, 0, [⟨"WORD", 31, 0, .ro, false, 0⟩]⟩,
  ⟨"CC_WD_POST", 0xa0, 0x4, 4, 0, 0, [⟨"WORD", 31, 0, .rw, false, 0⟩]⟩,
  ⟨"CC_WD_RESULT", 0xb0, 0x4, 4, 0, 0, [⟨"WORD", 31, 0, .rw, false, 0⟩]⟩,
  ⟨"CC_WD_DONE", 0xc0, 0x0, 1, 0, 0, [⟨"TO_THREAD", 2, 2, .wo, false, 0⟩,
    ⟨"RESULT", 1, 1, .wo, false, 0⟩,
    ⟨"DONE", 0, 0, .wo, false, 0⟩]⟩
]

/-- The registers of the WD_ page above the header (R439). -/
def wdRegs : List RegSpec := [
  ⟨"WD_CTL", 0x40, 0x0, 1, 0, 0, [⟨"TRACE_EN", 0, 0, .rw, false, 0⟩]⟩,
  ⟨"WD_TRACE_BASE", 0x44, 0x0, 1, 0, 0, [⟨"BASE", 21, 0, .rw, false, 0⟩]⟩,
  ⟨"WD_TRACE_SIZE", 0x48, 0x0, 1, 0, 0, [⟨"LOG2", 4, 0, .rw, false, 0xc⟩]⟩,
  ⟨"WD_TRACE_WR", 0x4c, 0x0, 1, 0, 0, [⟨"OFFSET", 21, 0, .ro, false, 0⟩]⟩,
  ⟨"WD_TRACE_DROP", 0x50, 0x0, 1, 0, 0, [⟨"COUNT", 31, 0, .rw, false, 0⟩]⟩,
  ⟨"WD_POOL_FREE", 0x54, 0x0, 1, 0, 0, [⟨"FREE", 12, 0, .ro, false, 0x1000⟩]⟩,
  ⟨"WD_HPOST", 0x60, 0x4, 4, 0, 0, [⟨"WORD", 31, 0, .rw, false, 0⟩]⟩,
  ⟨"WD_HPSTS", 0x70, 0x0, 1, 0, 0, [⟨"BUSY", 0, 0, .ro, false, 0⟩]⟩,
  ⟨"WD_LIST_CFG", 0x100, 0x4, 64, 0, 0, [⟨"CORES", 23, 16, .rw, false, 0xff⟩,
    ⟨"AGE_SHIFT", 12, 8, .rw, false, 0⟩,
    ⟨"AGE_EN", 7, 7, .rw, false, 0⟩,
    ⟨"PRIO", 5, 0, .rw, false, 0⟩]⟩,
  ⟨"WD_LIST_CAP", 0x200, 0x4, 64, 0, 0, [⟨"CAP", 12, 0, .rw, false, 0x40⟩]⟩,
  ⟨"WD_LIST_CNT", 0x300, 0x4, 64, 0, 0, [⟨"COUNT", 12, 0, .ro, false, 0⟩]⟩,
  ⟨"WD_DLY_CFG", 0x400, 0x20, 4, 0, 0, [⟨"DRAINING", 9, 9, .ro, false, 0⟩,
    ⟨"EN", 8, 8, .rw, false, 0⟩,
    ⟨"GAUGE", 3, 0, .rw, false, 0⟩]⟩
] ++ [
  ⟨"WD_DLY_TICK_LO", 0x408, 0x20, 4, 1, 0, [⟨"TICK", 31, 0, .rw, false, 0x3e80000⟩]⟩,
  ⟨"WD_DLY_TICK_HI", 0x40c, 0x20, 4, 2, 0, [⟨"TICK", 31, 0, .rw, false, 0⟩]⟩,
  ⟨"WD_DLY_NOW", 0x410, 0x20, 4, 0, 0, [⟨"NOW", 31, 0, .ro, false, 0⟩]⟩,
  ⟨"WD_DLY_CNT", 0x414, 0x20, 4, 0, 0, [⟨"COUNT", 12, 0, .ro, false, 0⟩]⟩,
  ⟨"WD_FLOW_STS", 0x500, 0x4, 16, 0, 0, [⟨"NEXT_SEQ", 23, 8, .ro, false, 0⟩, ⟨"OUTSTANDING", 6, 0, .ro, false, 0⟩]⟩
]

/-- The registers of the RING_ page above the header (R440). -/
def ringRegs : List RegSpec := [
  ⟨"RING_FLITS", 0x40, 0x0, 1, 0, 0, [⟨"COUNT", 31, 0, .rw, false, 0⟩]⟩,
  ⟨"RING_URG_MAX", 0x44, 0x0, 1, 0, 0, [⟨"COUNT", 31, 0, .rw, false, 0⟩]⟩,
  ⟨"RING_TMO", 0x48, 0x0, 1, 0, 0, [⟨"COUNT", 31, 0, .rw, false, 0⟩]⟩,
  ⟨"RING_LATE", 0x4c, 0x0, 1, 0, 0, [⟨"COUNT", 31, 0, .rw, false, 0⟩]⟩,
  ⟨"RING_RT", 0x100, 0x4, 80, 0, 1, [⟨"ENTRIES", 31, 0, .rw, false, 0⟩]⟩,
  ⟨"RING_RT_DIE", 0x100, 0x4, 12, 0, 3, [⟨"ENTRIES", 31, 0, .rw, false, 0⟩]⟩
]

/-- The registers of the PIN_ page above the header (R466). -/
def pinRegs : List RegSpec := [
  ⟨"PIN_BANK", 0x40, 0x0, 1, 0, 0, [⟨"VSEL", 1, 0, .rwl, true, 0⟩]⟩,
  ⟨"PIN_CFG", 0x44, 0x4, 16, 0, 0, [⟨"LOCKED1", 31, 31, .ro, false, 0⟩,
    ⟨"DRIVE1", 26, 26, .rwl, true, 0⟩,
    ⟨"PULL1", 25, 24, .rwl, true, 0⟩,
    ⟨"SEL1", 23, 20, .rwl, true, 0⟩,
    ⟨"FUNC1", 19, 16, .rwl, true, 0⟩,
    ⟨"LOCKED0", 15, 15, .ro, false, 0⟩,
    ⟨"DRIVE0", 10, 10, .rwl, true, 0⟩,
    ⟨"PULL0", 9, 8, .rwl, true, 0⟩,
    ⟨"SEL0", 7, 4, .rwl, true, 0⟩,
    ⟨"FUNC0", 3, 0, .rwl, true, 0⟩]⟩,
  ⟨"PIN_UART_CFG", 0x84, 0x0, 1, 0, 0, [⟨"EN", 19, 19, .rwl, true, 0⟩,
    ⟨"STOP2", 18, 18, .rwl, true, 0⟩,
    ⟨"ODD", 17, 17, .rwl, true, 0⟩,
    ⟨"PAR", 16, 16, .rwl, true, 0⟩,
    ⟨"DIV", 15, 0, .rwl, true, 0⟩]⟩,
  ⟨"PIN_I2C_CFG", 0x88, 0x0, 1, 0, 0, [⟨"EN", 16, 16, .rwl, true, 0⟩, ⟨"DIV", 9, 0, .rwl, true, 0⟩]⟩,
  ⟨"PIN_UART_TX", 0xc0, 0x0, 1, 0, 0, [⟨"BYTE", 7, 0, .wo, false, 0⟩]⟩,
  ⟨"PIN_UART_RX", 0xc4, 0x0, 1, 0, 0, [⟨"FERR", 10, 10, .ro, false, 0⟩,
    ⟨"PERR", 9, 9, .ro, false, 0⟩,
    ⟨"VALID", 8, 8, .ro, false, 0⟩,
    ⟨"BYTE", 7, 0, .ro, false, 0⟩]⟩,
  ⟨"PIN_UART_POP", 0xc8, 0x0, 1, 0, 0, [⟨"POP", 0, 0, .wo, false, 0⟩]⟩,
  ⟨"PIN_UART_STS", 0xcc, 0x0, 1, 0, 0, [⟨"RX_COUNT", 12, 8, .ro, false, 0⟩, ⟨"TX_COUNT", 4, 0, .ro, false, 0⟩]⟩,
  ⟨"PIN_I2C_CMD", 0xd0, 0x0, 1, 0, 0, [⟨"NACK", 12, 12, .wo, false, 0⟩,
    ⟨"READ", 11, 11, .wo, false, 0⟩,
    ⟨"WRITE", 10, 10, .wo, false, 0⟩,
    ⟨"STOP", 9, 9, .wo, false, 0⟩,
    ⟨"START", 8, 8, .wo, false, 0⟩,
    ⟨"DATA", 7, 0, .wo, false, 0⟩]⟩,
  ⟨"PIN_I2C_STS", 0xd4, 0x0, 1, 0, 0, [⟨"ARB_LOST", 10, 10, .ro, false, 0⟩,
    ⟨"ACK_ERR", 9, 9, .ro, false, 0⟩,
    ⟨"BUSY", 8, 8, .ro, false, 0⟩,
    ⟨"RDATA", 7, 0, .ro, false, 0⟩]⟩,
  ⟨"PIN_GPIO_OUT", 0xe0, 0x0, 1, 0, 0, [⟨"OUT", 31, 0, .rw, false, 0⟩]⟩,
  ⟨"PIN_GPIO_OE", 0xe4, 0x0, 1, 0, 0, [⟨"OE", 31, 0, .rw, false, 0⟩]⟩
] ++ [
  ⟨"PIN_IN", 0xe8, 0x0, 1, 0, 0, [⟨"LEVEL", 31, 0, .ro, false, 0⟩]⟩,
  ⟨"PIN_SMP", 0xec, 0x0, 1, 0, 0, [⟨"LEVEL", 31, 0, .ro, false, 0⟩]⟩,
  ⟨"PIN_TIME_CTL", 0xf0, 0x0, 1, 0, 0, [⟨"GAUGE", 7, 4, .rw, false, 0⟩,
    ⟨"DRV_GAUGE", 1, 1, .rw, false, 0⟩,
    ⟨"SMP_GAUGE", 0, 0, .rw, false, 0⟩]⟩,
  ⟨"PIN_STS", 0xf4, 0x0, 1, 0, 0, [⟨"STALE", 2, 2, .ro, false, 0⟩,
    ⟨"SWITCH_PENDING", 1, 1, .ro, false, 0⟩,
    ⟨"BANK_GOOD", 0, 0, .ro, false, 0⟩]⟩,
  ⟨"PIN_LOCK_KEY", 0xf8, 0x0, 1, 0, 0, [⟨"KEY", 31, 0, .wo, false, 0⟩]⟩,
  ⟨"PIN_LOCK", 0xfc, 0x0, 1, 0, 0, [⟨"MASK", 31, 0, .w1s, false, 0⟩]⟩,
  ⟨"PIN_TIMES_LO", 0x100, 0x8, 4, 1, 0, [⟨"TIME", 31, 0, .rw, false, 0⟩]⟩,
  ⟨"PIN_TIMES_HI", 0x104, 0x8, 4, 2, 0, [⟨"TIME", 31, 0, .rw, false, 0⟩]⟩
]

/-- The registers of the EDL_ page above the header (R468). -/
def edlRegs : List RegSpec := [
  ⟨"EDL_SRC", 0x40, 0x4, 4, 0, 0, [⟨"LINES", 31, 0, .rwl, true, 0xffffffff⟩]⟩,
  ⟨"EDL_WAKE", 0x50, 0x4, 8, 0, 0, [⟨"EN", 15, 15, .rwl, true, 0⟩,
    ⟨"POL", 14, 14, .rwl, true, 0⟩,
    ⟨"PIN", 8, 0, .rwl, true, 0⟩]⟩,
  ⟨"EDL_LEVEL", 0x70, 0x0, 1, 0, 0, [⟨"LINE", 31, 0, .ro, false, 0⟩]⟩
]

/-- The block registers of a page type. -/
def blockRegs : PageType → List RegSpec
  | .pnl => pnlRegs
  | .die => dieRegs
  | .dvt => dvtRegs
  | .mq => mqRegs
  | .hst => hstRegs
  | .pwr => pwrRegs
  | .thm => thmRegs
  | .drw => drwRegs
  | .rpr => rprRegs
  | .cyc => cycRegs
  | .clp => clpRegs
  | .ldr => ldrRegs
  | .vnr => vnrRegs
  | .bnd => bndRegs
  | .ln => lnRegs
  | .gau => gauRegs
  | .trg => trgRegs
  | .cap => capRegs
  | .meas => measRegs
  | .trc => trcRegs
  | .cc => ccRegs
  | .wd => wdRegs
  | .ring => ringRegs
  | .pin => pinRegs
  | .edl => edlRegs

/-- The defined bits of PG_STICKY of a page: the four header bits and the block's (R35). -/
def stickyMask (ty : PageType) (inst : Nat) : Word := 0xf ||| blockSticky ty inst

/-- The common page header of R35, as register rows. PG_STICKY's reserved positions are reserved in PG_STICKY_EN
too, so their masks stand in `regMask`, not in the field list. -/
def headerRegs (ty : PageType) (inst : Nat) : List RegSpec := [
  ⟨"PG_ID", 0x000, 4, 1, 0, 0, [⟨"TYPE", 31, 20, .ro, false, pageCode ty⟩, ⟨"INSTANCE", 11, 0, .ro, false, inst⟩]⟩,
  ⟨"PG_VER", 0x004, 4, 1, 0, 0, [⟨"MAJOR", 31, 24, .ro, false, 1⟩, ⟨"MINOR", 23, 16, .ro, false, 0⟩]⟩,
  ⟨"PG_CTL", 0x008, 4, 1, 0, 0, [⟨"LOCK", 2, 2, .w1s, false, 0⟩, ⟨"SRST", 1, 1, .wo, false, 0⟩,
    ⟨"EN", 0, 0, .rwl, true, factoryEn ty inst⟩]⟩,
  ⟨"PG_STS", 0x00c, 4, 1, 0, 0, [⟨"NOT_ON", 5, 5, .ro, false, 0⟩, ⟨"STOP_PENDING", 4, 4, .ro, false, 0⟩,
    ⟨"BUSY", 3, 3, .ro, false, 0⟩, ⟨"RESTART_PENDING", 2, 2, .ro, false, 0⟩, ⟨"STATE", 1, 0, .ro, false, 0⟩]⟩,
  ⟨"PG_STICKY", 0x010, 4, 1, 0, 0, [⟨"BLK", 31, 8, .w1c, false, 0⟩, ⟨"CAPT_LOST", 3, 3, .w1c, false, 0⟩,
    ⟨"SEQ_FAIL", 2, 2, .w1c, false, 0⟩, ⟨"LOCKVIOL", 1, 1, .w1c, false, 0⟩, ⟨"RSVD", 0, 0, .w1c, false, 0⟩]⟩,
  ⟨"PG_STICKY_EN", 0x014, 4, 1, 0, 0, [⟨"IEN", 31, 0, .rw, true, 0⟩]⟩,
  ⟨"PG_FIRST", 0x018, 4, 1, 0, 0, [⟨"VALID", 31, 31, .w1c, false, 0⟩, ⟨"BIT", 28, 24, .ro, false, 0⟩,
    ⟨"INFO", 23, 0, .ro, false, 0⟩]⟩,
  ⟨"PG_SECOND", 0x01c, 4, 1, 0, 0, [⟨"VALID", 31, 31, .w1c, false, 0⟩, ⟨"BIT", 28, 24, .ro, false, 0⟩,
    ⟨"INFO", 23, 0, .ro, false, 0⟩]⟩,
  ⟨"PG_RETAIN", 0x020, 4, 1, 0, 0, [⟨"MASK", 31, 0, .ro, false, (retainMask ty inst).toNat⟩]⟩,
  ⟨"PG_GROUP", 0x024, 4, 1, 0, 0, [⟨"GROUP", 15, 0, .rw, true, 1⟩]⟩]

/-- Does an instance have a row of its page type's table? -/
def onlyHas (only inst : Nat) : Bool :=
  match only with
  | 0 => true
  | 1 => inst == 0
  | 2 => inst != 0
  | _ => decide (2 ≤ inst)

/-- A row defines an offset. -/
def RegSpec.at? (r : RegSpec) (off : Nat) : Bool :=
  decide (r.off ≤ off) && (decide (r.stride = 0) && decide (off = r.off) ||
    decide (r.stride ≠ 0) && (off - r.off) % r.stride == 0 && decide ((off - r.off) / r.stride < r.count))

/-- The row of the register at an offset of a page; none where the offset is reserved (R31). -/
def regSpec (ty : PageType) (inst off : Nat) : Option RegSpec :=
  if off < 0x28 then (headerRegs ty inst).find? (fun r => r.at? off)
  else (blockRegs ty).find? (fun r => r.at? off && onlyHas r.only inst)

/-- Bits hi..lo of a word as a mask. -/
def bitMask (hi lo : Nat) : Word := BitVec.ofNat 32 ((2 ^ (hi + 1 - lo) - 1) * 2 ^ lo)

/-- The bits of a register whose field has an access code that passes a test. -/
def fieldsMask (fs : List FieldSpec) (p : FieldSpec → Bool) : Word :=
  fs.foldl (fun m f => if p f then m ||| bitMask f.hi f.lo else m) 0

/-- The bits of one access code of the register at an offset; the reserved sticky positions are no fields. -/
def regMask (ty : PageType) (inst off : Nat) (a : Access) : Word :=
  match regSpec ty inst off with
  | none => 0
  | some r =>
    let m := fieldsMask r.fields (fun f => f.acc == a)
    if off = 0x10 ∨ off = 0x14 then m &&& stickyMask ty inst else m

/-- The bits of the register that some field defines; the others are reserved (R8). -/
def definedMask (ty : PageType) (inst off : Nat) : Word :=
  match regSpec ty inst off with
  | none => 0
  | some r =>
    let m := fieldsMask r.fields (fun _ => true)
    if off = 0x10 ∨ off = 0x14 then m &&& stickyMask ty inst else m

/-- The retained bits of the register: its RW and RWL fields marked Yes (R37). -/
def retainedBits (ty : PageType) (inst off : Nat) : Word :=
  match regSpec ty inst off with
  | none => 0
  | some r => fieldsMask r.fields (fun f => f.ret && (f.acc == .rw || f.acc == .rwl))

/-- The hub ring stop of each node (R431): a die node stands at its die's bridge. -/
def stopOfNode (n : Nat) : Option Nat :=
  if n < 16 then [0, 1, 3, 4, 10, 11, 13, 14, 16, 7, 17, 18, 15, 6, 8, 19][n]?
  else if 32 ≤ n ∧ n < 48 ∧ n % 4 < 3 then [2, 5, 12, 9][(n - 32) / 4]?
  else none

/-- The route entry after reset from a hub stop to a node (R432): 1 clockwise, 2 anticlockwise, 0 no route; the
shorter direction, clockwise where both are equally long. -/
def shortestRoute (stop n : Nat) : Nat :=
  match stopOfNode n with
  | none => 0
  | some t => if (t + 20 - stop) % 20 ≤ 10 then 1 else 2

/-- One RING_RT register after reset: sixteen entries (R432, R440). A die node has no route to a die node. -/
def ringRtReset (inst idx : Nat) : Nat :=
  let r := idx % 4
  let entry := fun n =>
    if inst = 0 then shortestRoute (idx / 4) n
    else if n < 32 then shortestRoute ([2, 5, 12, 9].getD (inst - 2) 0) n
    else 0
  (List.range 16).foldl (fun acc j => acc + entry (16 * r + j) * 4 ^ j) 0

/-- The after-reset value of the register at an offset: the factory snapshot value where it is retained (R9).
DESIGN CHOICE (log 3; unsafe). -/
def regReset (ty : PageType) (inst off : Nat) : Word :=
  match regSpec ty inst off with
  | none => 0
  | some r =>
    if ty = .ring ∧ 0x100 ≤ off then BitVec.ofNat 32 (ringRtReset inst ((off - 0x100) / 4))
    else BitVec.ofNat 32 (r.fields.foldl (fun v f => v + f.reset * 2 ^ f.lo) 0)

/-- 0 for a 32-bit register, 1 for the lower and 2 for the upper register of a 64-bit quantity (R6, R34). -/
def regHalf (ty : PageType) (inst off : Nat) : Nat :=
  match regSpec ty inst off with
  | none => 0
  | some r => r.half

/-- The instances of a page type, as PG_ID.INSTANCE numbers (R51, R52). -/
def instancesOf (ty : PageType) : List Nat :=
  match ty with
  | .pnl => (List.range 4).flatMap (fun d => (List.range 132).map (fun p => d * 1024 + p))
  | .die | .dvt => (List.range 4).map (fun d => d * 1024)
  | .mq => (List.range 4).flatMap (fun d => (List.range 16).map (fun p => d * 1024 + p))
  | .vnr => List.range 2
  | .bnd | .ring => List.range 6
  | .ln => List.range 54
  | .gau => List.range 16
  | .meas | .trc | .cc => List.range 8
  | .pin => List.range 12
  | .hst | .pwr | .thm | .drw | .rpr | .cyc | .clp | .ldr | .trg | .cap | .wd | .edl => [0]

/-- Every page type, in ascending code. -/
def allTypes : List PageType :=
  [.pnl, .die, .dvt, .mq, .hst, .pwr, .thm, .drw, .rpr, .cyc, .clp, .ldr, .vnr, .bnd, .ln, .gau, .trg, .cap, .meas,
   .trc, .cc, .wd, .ring, .pin, .edl]

/-- Does the device have this page (R51, R52)? -/
def pageExists (p : PageId) : Bool :=
  match p.ty with
  | .pnl => decide (p.inst / 1024 < 4) && decide (p.inst % 1024 < 132)
  | .die | .dvt => decide (p.inst / 1024 < 4) && p.inst % 1024 == 0
  | .mq => decide (p.inst / 1024 < 4) && decide (p.inst % 1024 < 16)
  | .vnr => decide (p.inst < 2)
  | .bnd | .ring => decide (p.inst < 6)
  | .ln => decide (p.inst < 54)
  | .gau => decide (p.inst < 16)
  | .meas | .trc | .cc => decide (p.inst < 8)
  | .pin => decide (p.inst < 12)
  | .hst | .pwr | .thm | .drw | .rpr | .cyc | .clp | .ldr | .trg | .cap | .wd | .edl => p.inst == 0

/-- The number of a register in the register store. -/
def regKey (p : PageId) (off : Nat) : Nat := (pageCode p.ty * 4096 + p.inst) * 1024 + off / 4

/-- The page and offset of a register number; none where no page has it. -/
def keyReg (k : Nat) : Option (PageId × Nat) :=
  match pageOfCode (k / (4096 * 1024)) with
  | none => none
  | some ty => some (⟨ty, k / 1024 % 4096⟩, k % 1024 * 4)

/-- What a register that the store does not list holds: its after-reset value. -/
def regDefault (k : Nat) : Word :=
  match keyReg k with
  | none => 0
  | some (p, off) => regReset p.ty p.inst off

end Sys2Proof.Machine
end

