-- ==== Sys2Proof/Machine/State.lean ====
section
/-! DEFINITION. The state of the IK7264 block as plain data, its reset value, and the reasons a step can stop. -/
namespace Sys2Proof.Machine

/-- The reasons of a fault. No rule of the spec stops the block; the constructor is for a command whose operands no
form of the spec has (raised by no meaning of this model; safe).
DESIGN CHOICE (log 2; safe). -/
inductive Fault where
  | noSuchForm
  deriving DecidableEq, Repr

/-- The reasons of a refusal.
DESIGN CHOICE (log 2; safe). -/
inductive Refusal where
  /-- Raised by an arm of `exec` that has no meaning yet, with the row's mnemonic. Safe: nothing is claimed of it. -/
  | notModelled (mnemonic : String)
  deriving DecidableEq, Repr

/-- What a SECDED word's check bits say of it (R59, R101, R109, R111).
DESIGN CHOICE (log 14; unsafe). -/
inductive EccClass where
  | clean
  | corrected
  | uncorrectable
  deriving DecidableEq, Repr

/-- One physical Panel (R57-R116): its stores, its port registers and what the execution in hand has left in it. -/
structure Panel where
  /-- Instruction words: Dowel * 4096 + word (R59). -/
  is : Tab (BitVec 80)
  isErr : Tab EccClass
  /-- Value Store: Dowel * 4096 + slot; and the rows whose parity is bad: Dowel * 64 + row (R60). -/
  vs : Tab Bool
  vsBad : Tab Bool
  /-- Shadow bank and its bad rows. -/
  sh : Tab Bool
  shBad : Tab Bool
  /-- Panel RAM array (R109) and its words' error classes. -/
  ram : Tab (BitVec 64)
  ramErr : Tab EccClass
  /-- Egress Map: row * 32 + entry (R122). -/
  egress : Tab (BitVec 6)
  /-- Write buffer, oldest first (R87). -/
  wbuf : List (Nat × BitVec 64)
  /-- Contribution register bits: number of the bit, with the step of the last contribution and the value (R82). -/
  con : Tab (Nat × Bool)
  /-- Read data: the step from which each word shows at K 128 to 191, newest first (R84). -/
  rdata : List (Nat × BitVec 64)
  /-- Strobes fired in the step in hand: step, true for a write strobe. -/
  strobes : List (Nat × Bool)
  /-- Results of the execution's steps, and the Dowels that executed at each (R69, R72). -/
  res : Tab (BitVec 64)
  done : Tab (BitVec 64)
  /-- Carry-outs of the steps (R78). -/
  cout : Tab (BitVec 64)
  toggles : Nat
  stopReq : Bool
  stopCode : BitVec 8
  /-- Scrubber: next word, and whether an uncorrectable word was found since the store was written (R138). -/
  scrubPos : Nat
  scrubFound : Bool
  deriving DecidableEq, Repr

/-- State of a die-link module (R129, R130). A module that is down is down until it trains and comes up: while it
trains again it is `retraining`.
DEDUCED (log 20; unsafe). -/
inductive ModState where
  | untrained
  | training
  | up
  | down
  | retraining
  deriving DecidableEq, Repr

/-- The Dovetail fabric: tables of the image and bits in flight in the execution (R117-R136). -/
structure Fabric where
  /-- Crossbar schedules: (group * 4096 + row) * 6144 + destination (R124). -/
  xbar : Tab (BitVec 13)
  /-- Bundle slot map: row * 4736 + destination (R134). -/
  slots : Tab (BitVec 13)
  /-- Ingress bits delivered by crossbar row: group * 4096 + row (R70). -/
  ingress : Tab (BitVec 4096)
  /-- Link payloads sent: channel * 4096 + row; channel die * 4 + module, or 16 + group for H to die (R118). -/
  sent : Tab (BitVec 512)
  /-- Link payloads received: channel * 8192 + step; channel die * 4 + module at the die, or 16 + group at H. -/
  got : Tab (BitVec 512)
  /-- Dovetail slots sent on bundles: bundle * 4096 + row. -/
  bsent : Tab (BitVec 448)
  /-- Dovetail slots received on bundles: bundle * 8192 + row. -/
  bgot : Tab (BitVec 448)
  /-- Die-link modules: die * 4 + module. -/
  mods : Tab ModState
  deriving DecidableEq, Repr

/-- One vote round (R147, R304): the release point it is for (0 for a decision step, `relOver` once its hold has ended),
the Cabinet step count of its vote step, this device's own vote, the OR of the messages received, and whether the Cabinet
vote is held (R148). -/
structure Round where
  rel : Nat
  v : Nat
  own : BitVec 8
  heard : BitVec 8
  held : Bool
  deriving DecidableEq, Repr

/-- What an execution has decided so far (R146, R157, R163). -/
inductive Phase where
  /-- No execution: held before cycle 0, at a boundary, or the CYC_ page is not ON. -/
  | held
  /-- The instruction and slack steps before the vote at D. -/
  | running
  /-- The vote is cast. -/
  | voted
  /-- The Cabinet vote is held (step C). -/
  | confirmed
  /-- The commit step Q is past. -/
  | settled
  deriving DecidableEq, Repr

/-- Cycle, Clamp and replay state (R144-R182). -/
structure Cycle where
  /-- Cabinet step count now, and at step 0 of the execution or hold step 0 (R314). -/
  csc : Nat
  t0 : Nat
  phase : Phase
  /-- The next execution re-runs an uncommitted cycle (R157, R169). -/
  rerun : Bool
  /-- The Cabinet vote of the execution's step D, once confirmed. -/
  outcome : BitVec 8
  /-- The latest Cabinet vote (CLP_LIVE.CABINET). -/
  cabinet : BitVec 8
  /-- The causes that were live when the count came to stand where it stands (R147). -/
  carried : BitVec 8
  /-- The execution escalated at C (R170). -/
  limit : Bool
  /-- The count at which a lane failure raised REPLAY, until a vote carries it (R155, R326). -/
  lane : Option Nat
  /-- Causes live (R156): REPLAY from a poisoning event, FAULT, TRIG_STOP. -/
  replay : Bool
  fault : Bool
  trigStop : Bool
  /-- STOPIF: live from a committed execution; and the steps of this execution at whose end stop requests arrive. -/
  stopif : Bool
  stopAt : List Nat
  rounds : List Round
  /-- The vote steps of the rounds begun in the last 2,048 steps, newest first (R304). -/
  casts : List Nat
  /-- Next release point, the release point the next release vote is for, and the first that has a vote (R160). -/
  nextRel : Nat
  voteFor : Nat
  firstRel : Nat
  /-- The hold before cycle 0, or while the CYC_ page is not ON (R176). -/
  free : Bool
  /-- Gauge event lines latched for the cycle (R356). -/
  gauLatch : BitVec 16
  /-- The start sequence in hand began while the commit of a full image ran (R242). -/
  noImage : Bool
  /-- The step clock's frequency in MHz: as start-up, a SOURCE's setting or a FOLLOW's lock set it last (R313, R505, R515). -/
  mhz : Nat
  deriving DecidableEq, Repr

/-- A snapshot of the Drawer (R519): whether its header and CRC are right, COMMITS, and its words
(slot * 35 + word), those not listed being the factory values. -/
structure Snapshot where
  good : Bool
  commits : Word
  words : Tab Word
  deriving DecidableEq, Repr

/-- The Drawer (R517-R528): the two snapshots, the repair map (its WRITES, whether it checks, and the reason bytes
die * 132 + Panel), the lane equalization table and the user area by byte offset. -/
structure Drawer where
  serial : BitVec 64
  factory : Snapshot
  working : Snapshot
  mapGood : Bool
  mapWrites : Word
  reasons : Tab (BitVec 8)
  bytes : Tab (BitVec 8)
  /-- The holding buffer of a commit in progress, and whether the reference-clock period in which it was asked for is still in
  hand (R520). -/
  buffer : Option (Tab Word)
  fresh : Bool
  deriving DecidableEq, Repr

/-- The keys of one key identifier (R265): two XTS keys, the counter-mode key, and GEN. -/
structure KeyMat where
  xts1 : BitVec 256
  xts2 : BitVec 256
  ctr : BitVec 256
  gen : Nat
  deriving DecidableEq, Repr

/-- Veneer's own stores on H (R260-R272). -/
structure Veneer where
  /-- Keys by key ID. -/
  keys : Tab KeyMat
  /-- Root counters: (stack * 16 + region) * 8 + i (R262). -/
  roots : Tab (BitVec 64)
  /-- Poison table entries, oldest first: stack, region, level, block (R272). -/
  poison : List (Nat × Nat × Nat × Nat)
  /-- Regions poisoned whole: stack * 16 + region. -/
  whole : List Nat
  /-- The seal running on each stack: region and ZERO (R263, R264). -/
  sealing : Tab (Option (Nat × Bool))
  deriving DecidableEq, Repr

/-- One access held for release at Q, or one read in flight, of a memory queue (R277): HBM byte address and width in
bytes; data and byte enables of a write. -/
structure HeldWrite where
  addr : Nat
  bytes : List Nat
  be : Nat
  idx : Nat
  deriving DecidableEq, Repr

/-- A response of a memory queue (R278): the issuing cycle, valid and error bits, Veneer class by access, data. -/
structure Resp where
  cycle : Nat
  valid : BitVec 8
  err : BitVec 8
  classes : List Nat
  data : BitVec 1024
  arrived : Bool
  deriving DecidableEq, Repr

/-- One memory queue (R90, R275-R283). -/
structure Queue where
  /-- Record in assembly: request bit, with the step of the last contribution and the value. -/
  bits : Tab (Nat × Bool)
  held : List HeldWrite
  resps : List Resp
  /-- The response latched for the current cycle (R279). -/
  window : Option (BitVec 1024 × BitVec 16)
  /-- The record of this execution has been taken (step N+8). -/
  issued : Bool
  deriving DecidableEq, Repr

/-- A chain message (R232, R237-R240). -/
inductive ChainMsg where
  | start (pos : Nat) (loadId : Word)
  | end_
  | ready
  | fail (pos code check : Nat)
  | commit (loadId : Word)
  | abort (pos : Nat) (loadId : Word)
  | done (pos : Nat)
  deriving DecidableEq, Repr

/-- The loader beyond its registers (R211-R251). -/
structure Loader where
  /-- This device is the head of the load in hand; the bundle START came on; the position and LOAD_ID it carried. -/
  head : Bool
  up : Nat
  startPos : Nat
  startId : Word
  /-- Bytes that do not fill a ring unit yet. -/
  part : List Nat
  /-- The own segment's bytes consumed so far; whether tests 1 and 2 have passed, and then SEG_LEN. -/
  seg : List Nat
  segLen : Option Nat
  /-- The key taken as the prefix passed. -/
  key : BitVec 256
  /-- The plaintext of the authenticated segment: header and frames. -/
  plain : List Nat
  /-- The segment passed its checks. -/
  passed : Bool
  /-- Forwarding: the bundle; segments passed through whole, and the bytes so far and SEG_LEN of the one in hand. -/
  down : Nat
  fwdSegs : Nat
  fwdPre : List Nat
  fwdPos : Nat
  /-- The refusal held in DRAIN: code and check. -/
  refused : Option (Nat × Nat)
  /-- END has been written or has arrived; the stream has ended. -/
  endSeen : Bool
  ended : Bool
  /-- The timer of R235 runs. -/
  timer : Bool
  /-- LDR_KEY_DATA; fuse slots 0 to 3, as far as programmed; retired slots; the battery slot; a battery slot cleared
  with TAMPER still to be set (R220). -/
  keyData : BitVec 256
  fuses : Tab (Option (BitVec 256))
  retired : BitVec 4
  batt : Option (BitVec 256)
  tamper : Bool
  /-- A write of 0 to CLP_HOST_HOLD waits for the end of a partial commit (R243). -/
  holdOff : Bool
  /-- P0 to P3 of the committed image, and the DVT_ pages its commit enabled (R177, R552). -/
  counts : List Nat
  dvts : BitVec 4
  deriving DecidableEq, Repr

/-- A packet of a bundle's control channel (R308). -/
inductive Packet where
  | retry (unit : Nat)
  | lanemap (failed spare sw : Nat)
  | time (seq : Nat) (tx : BitVec 64) (echoSeq : Nat) (echoRx : BitVec 64)
  | state (off : Bool)
  | chain (m : ChainMsg)
  | ident (p : IdentPacket)
  | topo (t : TopoEntry)
  | mesh (tag : BitVec 4) (data : BitVec 128)
  deriving DecidableEq, Repr

/-- One numbered unit as it was sent (R310): unit k of a packet, or the stream bytes of a DATA unit or of a word of a LOAD
frame. -/
inductive TxItem where
  | unit (p : Packet) (k : Nat)
  | bytes (bs : List Nat)
  deriving DecidableEq, Repr

/-- The transmit direction of a bundle (R303-R306, R310, R311): packets waiting, oldest first; the packet begun and its next
unit; forwarded bytes not yet sent; the number of the next unit; the numbered units kept, newest first; the unit of a RESUME
to send; what is to be sent again, oldest first; symbols to corrupt in the next frame (R323); vote units by the count of
their frame; vote copies by the spare lane bit at which they begin; the spare lane's PRBS31 generator (R322). -/
structure BundleTx where
  queue : List Packet
  cur : Option (Packet × Nat)
  data : List Nat
  next : Nat
  kept : List TxItem
  resume : Option Nat
  resend : List TxItem
  corrupt : Option Nat
  votes : List (Nat × Nat)
  spare : List (Nat × BitVec 128)
  prbs : Nat
  deriving DecidableEq, Repr

/-- The receive direction of a bundle (R303, R305, R310): the number of the unit that arrives next, and of the first not yet
received; the number of an outstanding RETRY; the packet in assembly: PTYPE, the time at which its first unit arrived, the count at
which that unit's frame was applied, and its units so far; the vote units that came in frames, by count. -/
structure BundleRx where
  number : Nat
  next : Nat
  gap : Option Nat
  cur : Option (Nat × BitVec 64 × Nat × List Nat)
  votes : List (Nat × Nat)
  deriving DecidableEq, Repr

/-- A failover in hand (R326): the failed physical lane and its logical number, the spare that takes it, what it waits for,
the switch count sent, and whether it raised REPLAY. -/
inductive FoStage where
  | check
  | wait
  | sent
  | switched
  deriving DecidableEq, Repr

structure Failover where
  lane : Nat
  logical : Nat
  spare : Nat
  stage : FoStage
  sw : Nat
  replay : Bool
  deriving DecidableEq, Repr

/-- What a lane's transmitter keeps between symbols (R290, R291): the level of the last symbol before any inversion of the
pair, P(i-1), and the lane bit of an even number sent last. -/
structure LaneSym where
  prev : BitVec 2
  half : Bool
  deriving DecidableEq, Repr

/-- One bundle beyond its registers (R287-R328). -/
structure Bundle where
  /-- The partner's CYC_ page was OFF at the last STATE; the counts at which changes of either CYC_ page between OFF and
  not OFF were learnt of in the last 4,096 steps (R311, R312). -/
  partnerOff : Bool
  changedAt : List Nat
  /-- Partner serial and bundle of the last time the bundle was UP (R318). -/
  lastUp : Option (BitVec 64 × BitVec 3)
  /-- The device's own lane check is done; both lane verdicts are in; the partner's last verdict said LOCKED (R317). -/
  checked : Bool
  verdicts : Bool
  partnerLocked : Bool
  /-- A partner IDENT that passes has arrived (the SEEN to send). -/
  seen : Bool
  tx : BundleTx
  rx : BundleRx
  fail : Option Failover
  /-- A transmit map change that waits for its count: SW, failed and spare lane. -/
  txSwitch : Option (Nat × Nat × Nat)
  /-- MESH packets held, oldest first. -/
  mesh : List (BitVec 4 × BitVec 128)
  /-- SEQ and receive time of the last TIME received. -/
  timeRx : Nat × BitVec 64
  /-- The receive spare's checker was locked and free of errors over the last 2^24 bits checked (R326). -/
  spareOk : Bool
  /-- PRBS bits that LN_CTL.INJ inverts and that have not been sent, by lane; and those sent in TEST since the lane's last
  check (R323). -/
  inj : Tab Nat
  sentInj : Tab Nat
  /-- The symbol coders of the lanes (R290, R291). -/
  syms : Tab LaneSym
  /-- The equalization entries that a lane's start sequence found, for RATE 0 and 1 (R292, R293). -/
  eqs : Tab (Option (BitVec 64) × Option (BitVec 64))
  /-- The partner's step clock in MHz, as its lanes show it (R313). -/
  partnerMhz : Nat
  /-- The STATE packets sent, newest first: the count at which the partner applies each, and whether it reports OFF (R309). -/
  told : List (Nat × Bool)
  deriving DecidableEq, Repr

/-- The topology table of the device (R321): its own VERSION, the TOPO last held from each other device; the shown entries, each with its neighbours by entry number. -/
structure Topology where
  version : BitVec 16
  held : List TopoEntry
  shown : List (BitVec 64 × List (Option Nat))
  /-- The serials reached over counted links, also those beyond the 64 shown. -/
  reach : List (BitVec 64)
  deriving DecidableEq, Repr

/-- The trigger sequencer and the averager beyond their registers (R372-R379, R388): the comparators' previous groups,
the timers' deadlines, the deadline of auto mode once the first record has set it; records in the block in hand, its
toggle sums by die, and the average and time of each die's previous block. `g0` is every Gauge at step 0 of the latest
execution (R369), and `gq` at step Q of the latest that committed (R373, R375); `record` the cycle that has committed and is
not yet processed, and whether a replay committed it. -/
structure Trigger where
  prev : Tab (BitVec 64)
  deadline : Tab (BitVec 64)
  autoAt : Option (BitVec 64)
  blockN : Nat
  sums : List Nat
  prevBlock : List (Option (Nat × Nat))
  g0 : List (BitVec 64)
  gq : List (BitVec 64)
  record : Option (Nat × Bool)
  deriving DecidableEq, Repr

/-- The capture unit beyond its registers (R380-R394): records since ARM, cycles of POST to come, records posted and
not yet written (address and bytes), whether a record was dropped since the last one queued, and whether slot 0 has been
written since ARM (R382); the base, extents and second pass of the snapshot or restore that runs. -/
structure Capture where
  k : Nat
  postLeft : Nat
  waiting : List (Nat × List Nat)
  gap : Bool
  slot0 : Bool
  base : Nat
  exts : List (Nat × Nat)
  second : Bool
  deriving DecidableEq, Repr

/-- A measurement unit beyond its registers (R386, R387): bit LSB in the previous record, cycle and time of the latest
rising edge not yet used up, records since ARM. -/
structure Meas where
  prev : Option Bool
  rise : Option (Nat × Nat)
  since : Nat
  deriving DecidableEq, Repr

/-- One trace unit beyond its registers (R395-R403): the on-chip part; bytes accepted since RUN and those of them not yet
written; bytes since the start of the last SYNC; the last TIMESTAMP's value; branch outcomes not yet emitted, oldest
first; the last address emitted; whether packets are dropped until room returns, and how many; bytes accepted when the
trigger came; whether a write of RUN has started a run that has not written STOP; whether the core has told the unit that
it sleeps. -/
structure TraceUnit where
  part : Tab (BitVec 8)
  total : Nat
  held : List Nat
  sinceSync : Nat
  lastTs : BitVec 64
  branches : List Bool
  lastAddr : Word
  dropped : Nat
  trigAt : Option Nat
  running : Bool
  asleep : Bool
  deriving DecidableEq, Repr

/-- What a core waits for (R411): the answer of a load into a register (bytes, signed), or of an AMO, LR or SC with its
operand; with the instruction's length. -/
inductive CoreWait where
  | load (rd bytes : Nat) (signed : Bool) (addr len : Nat)
  | amo (rd op : Nat) (addr len : Nat) (v : Word)
  | fetch (addr : Nat)
  deriving DecidableEq, Repr

/-- One control core (R408-R414): integer registers x1 to x31, pc, machine mode, the machine CSRs, PMP entries, the local
SRAM by word with its error classes, the LR reservation (the region's word address in the map), what it waits for, and
the address of a store that has failed on the ring and whose access fault is still to be taken; the words of the instruction
in hand that have come over the ring, by word address (R411). -/
structure Core where
  x : Tab Word
  pc : Word
  machine : Bool
  mie_ : Bool
  mpie : Bool
  mpp : Bool
  mprv : Bool
  tw : Bool
  mie : Word
  mtvec : Word
  mscratch : Word
  mepc : Word
  mcause : Word
  mtval : Word
  mcounteren : Word
  mcountinhibit : Word
  fiom : Bool
  mcycle : BitVec 64
  minstret : BitVec 64
  pmpcfg : Tab (BitVec 8)
  pmpaddr : Tab Word
  sram : Tab Word
  sramErr : Tab EccClass
  resv : Option Nat
  wait : Option CoreWait
  fault : Option Word
  fetched : List (Nat × Word)
  deriving DecidableEq, Repr

/-- What has become of a ring request (R434, R437): on its way or waiting; performed, with its answer on the way (STATUS,
Veneer class, the error class of an SRAM word, data); or with no answer to come. Or it is a unit of H's next request, still to
be made: what its packet and the answer's will meet, and that the answer will come too late.
DESIGN CHOICE (log 36; unsafe). -/
inductive RingStage where
  | sent
  | answered (status cls : Nat) (ecc : EccClass) (data : List Nat)
  | lost
  | ahead (out back : RingFault) (late : Bool)
  deriving DecidableEq, Repr

/-- A request that holds a response buffer (R433, R434), oldest first in the network's list: source node and tag, OP,
destination, address, bytes accessed, data of a write, funct5 of an AMO, the requester's code, whether the core ran in
machine mode (R398), the hub ring, and URG; the address as the core names it; whether its core still awaits the answer;
whether the buffer is in quarantine after a timeout; and URG of the answer (R435). -/
structure RingReq where
  src : Nat
  tag : Nat
  op : Nat
  dst : Nat
  addr : Nat
  bytes : Nat
  data : List Nat
  amo : Nat
  rq : Requester
  machine : Bool
  ring : Nat
  urg : Nat
  at_ : Nat
  live : Bool
  quar : Bool
  stage : RingStage
  backUrg : Nat
  deriving DecidableEq, Repr

/-- A work item (R419). -/
structure WorkItem where
  w0 : Word
  w1 : Word
  w2 : Word
  w3 : Word
  deriving DecidableEq, Repr

/-- The dispatcher beyond its registers (R419-R430): ready lists (items with the period each was placed), delay lists
(due tick and item), next tick times X, reorder buffers by flow * 65536 + SEQ (an outcome with its core and its result if
any), the result slots of the cores; what has already recorded WAIT (a source code, 16 + flow, 32 + delay list, or 48 +
core of a result slot); the cores whose source 34 is asserted; trace records of this period; the place in the order of
R423 from which this period's actions are still to come; and trace records that wait for a response buffer, oldest first
(R434). -/
structure Dispatcher where
  lists : Tab (List (WorkItem × Nat))
  delays : Tab (List (Nat × WorkItem))
  nextX : Tab (BitVec 64)
  reorder : Tab (Option (Nat × Option WorkItem))
  slots : Tab (Option WorkItem)
  waits : List Nat
  preempt : BitVec 8
  records : Nat
  turn : Nat
  held : List (List Nat)
  deriving DecidableEq, Repr

/-- A Gauge beyond its registers (R332-R356): value and residue; pending adjustments; the reference edge (its tick); an
edge captured and not yet tested (value, tick); the TCLK window in hand (the tick it began at, edges counted) and one
that has ended and is not yet tested (edges, value at its end); the event unit's pulse end, and whether a window unit's
output is active; that a write of ARM = 0 takes effect at the next tick, and INV as it is in force (R334); that the loss
of the reference edge in hand has been recorded (R346); that a source has been selected from the next tick on; and the
registers of the page that a write of the tick in hand has changed, by offset, with the value in force until the next
tick (R334). -/
structure Gauge where
  value : BitVec 64
  resid : BitVec 16
  adj : Option (BitVec 64)
  set_ : Option (BitVec 64)
  ref : Option Nat
  edge : Option (BitVec 64 × Nat)
  winAt : Option Nat
  count : Nat
  closed : Option (Nat × BitVec 64)
  pulse : Option (BitVec 64)
  winOn : Bool
  cut : Bool
  inv : Bool
  lost : Bool
  chosen : Bool
  stale : Tab (Option Word)
  deriving DecidableEq, Repr

/-- One target port beyond its registers (R441-R465): captured sample levels, whether they are new since the last
latch, the levels staged for the next cycle's latch; the pending outputs of Gauge timing (data, enables) and whether
they have been written since the last drive; UART FIFOs, receive entries with their flags; the I2C command in hand; the
reference periods for which the UART has been sending the byte in hand, and the level of its line (R458); the levels that the
I2C lines still have to show in the command in hand, by quarter of an SCL period from the one in hand, the periods of that
quarter so far, and the levels as they stand: bit 0 SCL, bit 1 SDA, 1 released (R459). -/
structure Port where
  cap : BitVec 32
  capNew : Bool
  staged : Option (BitVec 32)
  pend : Option (BitVec 32 × BitVec 32)
  tx : List (BitVec 8)
  rx : List (BitVec 11)
  i2c : Option (BitVec 13)
  txTick : Option Nat
  txLine : Bool
  wave : List (BitVec 2)
  waveTick : Nat
  lines : BitVec 2
  deriving DecidableEq, Repr

/-- A pad change on its way to the ball (R454): the ticks left, the pin, the pad, and whether a function drove it that a switch
has since replaced (R462). -/
structure LateDrive where
  left : Nat
  pin : Nat
  pad : BitVec 2
  old : Bool
  deriving DecidableEq, Repr

/-- The target pins (R441-R465). -/
structure Pins where
  ports : Tab Port
  /-- Output and sample entries of the pin map: (group * 128 + logical Panel) * 128 + entry (R446). -/
  outMap : Tab (BitVec 16)
  smpMap : Tab (BitVec 16)
  /-- What the device drives at each pad: bit 0 level, bit 1 enable. -/
  pads : Tab (BitVec 2)
  /-- SEL and FUNC still in force at a pin whose switch is pending (R461). -/
  pendFn : Tab (Option (BitVec 8))
  /-- Pins whose new function has not taken the pad yet (R462). -/
  waiting : Tab Bool
  /-- Pad changes on their way to the balls (R454). -/
  late : List LateDrive
  /-- What the target drives, the level each ball last had, and the two stages of the synchronizer (R445). -/
  tgt : TargetLevels
  ball : BitVec 384
  sync1 : BitVec 384
  sync2 : BitVec 384
  /-- Edge line levels: the pipeline of R460, newest first, whose last is EDL_LEVEL; and the levels that the Gauges found at the
  last tick (R342). -/
  edl1 : BitVec 32
  edl2 : BitVec 32
  edl3 : BitVec 32
  edl4 : BitVec 32
  /-- Lines found with an ineligible pin, so that SRC_ERR is set once (R460). -/
  edlBad : BitVec 32
  /-- Pin lock keys in force, by port * 16 + requester code: the reference-clock periods for which each still serves, that of its
  write counted (R463). -/
  keys : Tab (BitVec 7)
  /-- The Gauge pulse outputs and TRIG_OUT signals as the pads last saw them (R355, R444). -/
  pulses : BitVec 16
  trig : BitVec 3
  deriving DecidableEq, Repr

/-- One MSI-X table entry (R484): message address, message data, vector control (bit 0: masked). -/
structure MsixEntry where
  addr : BitVec 64
  data : BitVec 32
  ctl : BitVec 32
  deriving DecidableEq, Repr

/-- A request of the host that waits at its source for a response buffer (R434); of a BAR2 request what is still to be performed,
with the first failing class so far and the bytes read. -/
inductive HostReq where
  | bar0 (op : HostAccess) (addr len : Nat) (data : BitVec 64)
  | read (addr n : Nat) (trip : HostTrip) (cls : Nat) (got : List Nat)
  | write (addr : Nat) (data : List Nat) (trip : HostTrip) (cls : Nat)
  deriving DecidableEq, Repr

/-- The host link beyond its registers (R469-R486): the MSI-X table and PBA, the function's mask and Bus Master Enable,
the vector conditions seen in the reference-clock period in hand, a function-level reset or a retraining in progress; the double
words of configuration space by offset; the link's speed and, from bit 4, width; that LINK_DOWN is to be set again when the reset
in hand ends (R487); the requests that wait for a response buffer, oldest first (R434); and the vectors that HST_REARM has named
in the period in hand after their condition fell in it (R483). -/
structure HostIf where
  table : Tab MsixEntry
  pba : BitVec 128
  fnMask : Bool
  busMaster : Bool
  conds : BitVec 128
  flr : Bool
  linkReset : Bool
  cfg : Tab Word
  link : Nat
  wasDown : Bool
  waits : List HostReq
  rearms : BitVec 128
  deriving DecidableEq, Repr

/-- Power control beyond its registers (R488-R509): Off; a start-up in progress; the target of a transition in progress;
a wake source that waits for an entry to end, or for the sensors to cool (R492, R498), or that goes on from Retain
through Idle; VIN absent; the cause of the current Dormant entry; whether a sample has been taken since start-up;
nanojoules not yet counted in PWR_ENERGY; the last thousand samples of the rail groups, newest first; the last readings of
the always-on thermal monitor; which sensors stood at their trip temperature at the last sample; whether a forced Dormant
entry was made in the reference-clock period in hand (R499); until the end of start-up: whether the device has been Off
since the last one, whether a power-on began it, and whether the repair map failed its checks (R515, R528); and the wake
source that a pending HOLD request is: the host's or a core's write (R497). -/
structure Power where
  off : Bool
  starting : Bool
  target : Option Nat
  wake : Option Nat
  vinOut : Bool
  cause : Nat
  sampled : Bool
  nj : Nat
  rails : List (List (BitVec 20))
  temps : List (Option (BitVec 16))
  tripped : List Bool
  justForced : Bool
  fromOff : Bool
  powered : Bool
  mapBad : Bool
  asker : Nat
  deriving DecidableEq, Repr

/-- The test port (R542-R544): the instruction register, the boundary register's cells (pin i: input 3i, data 3i + 1,
enable 3i + 2; PERST# 1,152, TAMPER 1,153), whether the last EXTEST was refused, and the bypass register.
DEDUCED (log 39; unsafe). -/
structure TestPort where
  ir : BitVec 8
  cells : BoundaryCells
  refused : Bool
  bypass : Bool
  deriving DecidableEq, Repr


/-- Consecutive bits of a physical lane's stream (R297): the lane, the number of the first, and the bits, the first the least
significant; and the PAM4 levels of the symbols that they complete, in order (R290, R291). -/
structure LaneRun where
  lane : Nat
  first : Nat
  n : Nat
  bits : Nat
  levels : List (BitVec 2)
  deriving DecidableEq, Repr

/-- What the device sends to the world.
DESIGN CHOICE (log 8; safe). -/
inductive OutMsg where
  /-- The value that a register read returned to its requester. -/
  | regData (rq : Requester) (v : Word)
  /-- The answer to a line access: the failure class of R269 (0 for none) and the line's bytes for a read (R254). -/
  | lineReply (who : VRequester) (cls : Nat) (data : List Nat)
  /-- The frame that a bundle sends in the step of a count, and the runs of lane bits that carry it (R296-R298). -/
  | frame (b cnt : Nat) (raw : BitVec 531) (lanes : List LaneRun)
  /-- The training block that a bundle's lanes repeat from now on, and its symbols on each of the nine as they send it the
  first time (R290, R317). -/
  | trainingBlock (b : Nat) (block : BitVec 1024) (levels : List (List (BitVec 2)))
  /-- A lane under test sends a PRBS pattern from now on; its first 128 bits, and their symbols (R290, R322). -/
  | prbsPattern (lane : Nat) (head : BitVec 128) (levels : List (BitVec 2))
  /-- So many PRBS bits of what a lane sends from now on are sent inverted (R323). -/
  | prbsInverted (lane n : Nat)
  /-- A lane in the far-end loop sends from now on the lane bits that it receives (R324). -/
  | laneEcho (lane : Nat)
  /-- A lane's transmit pads are idle from now on (R324). -/
  | laneIdle (lane : Nat)
  /-- A byte that a port's UART transmitter has sent (R458). -/
  | uartByte (port : Nat) (b : BitVec 8)
  /-- A command that a port's I2C controller begins on the bus (R459). -/
  | i2cCommand (port : Nat) (v : BitVec 13)
  /-- An MSI-X message: vector, address, data (R483). -/
  | msix (v : Nat) (addr : BitVec 64) (data : BitVec 32)
  /-- A completion to the host: 0 Successful, 1 Unsupported Request, 4 Completer Abort, 2 Configuration Request Retry
  Status; and the data of a read. -/
  | completion (status : Nat) (data : List Nat)
  /-- A posted write TLP logged under AER as poisoned (R475). -/
  | poisonedTlp
  /-- An error message upstream (R478): 0 correctable, 1 non-fatal, 2 fatal. -/
  | errorMessage (k : Nat)
  /-- A TLP upstream with an ECRC (R469). -/
  | withEcrc (m : OutMsg)
  /-- What the test port shifts out: so many bits, least significant first (R542). -/
  | tdo (n v : Nat)
  deriving DecidableEq, Repr

/-- The whole machine. -/
structure State where
  /-- Commands that wait, first in, first out. -/
  pending : List Instr
  /-- Registers by number; an unlisted register holds its after-reset value. -/
  regs : Tab Word
  /-- The holding registers of R34: per requester, the register held for and the copy. -/
  hold : Tab (Option (Nat × Word))
  /-- Error events of the reference-clock period in hand: page number * 32 + bit (R44). -/
  recent : List Nat
  /-- Messages sent, newest first. -/
  out : List OutMsg
  /-- The model's own counter of free values drawn. -/
  free : Nat
  panels : Tab Panel
  fab : Fabric
  cyc : Cycle
  drw : Drawer
  vnr : Veneer
  /-- HBM as stored (ciphertext), by byte address: a list of Host.Cell (R252). -/
  hbm : Tab (BitVec 8)
  /-- HBM lines that the stack reports uncorrectable (R253). -/
  hbmUe : List Nat
  /-- Alarm latches: 0 to 7 the control cores, 8 the host (R270, R418, R482). -/
  alarms : Tab Bool
  /-- Memory queues: die * 16 + queue. -/
  queues : Tab Queue
  /-- Window map: group * 128 + logical Panel (R275). -/
  winMap : Tab (BitVec 16)
  /-- Target pin sample bits latched for the cycle: group * 128 + logical Panel (R64, R450). -/
  pinWin : Tab (BitVec 128)
  /-- Export records received at H in the execution in hand: die * 132 + Panel, with probe, trigger and toggle count
  (R115). -/
  exports : Tab (Nat × Nat × Nat)
  ldr : Loader
  bundles : Tab Bundle
  topo : Topology
  trg : Trigger
  cap : Capture
  /-- Measurement units and trace units by page instance. -/
  meas : Tab Meas
  traces : Tab TraceUnit
  /-- The control complex: cores, shared SRAM by word, requests on the ring network, route entries still in force
  after a write (node * 64 + destination), the dispatcher (R408-R440). -/
  cores : Tab Core
  shared : Tab Word
  sharedErr : Tab EccClass
  net : List RingReq
  oldRoutes : Tab (Option (BitVec 2))
  wd : Dispatcher
  gauges : Tab Gauge
  /-- Lower halves written and not yet in force, by register number (R335, R336, R455). -/
  lows : Tab (Option Word)
  /-- Reference ticks since the end of start-up: the count of R409, and the tick index of R345. -/
  ticks : Nat
  pins : Pins
  hst : HostIf
  pwr : Power
  tap : TestPort
  deriving DecidableEq, Repr

/-- An empty Panel.
DESIGN CHOICE (log 3; unsafe). -/
def Panel.empty : Panel :=
  ⟨[], [], [], [], [], [], [], [], [], [], [], [], [], [], [], [], 0, false, 0, 0, false⟩

/-- The machine right after reset: power-on from Off, every page at its after-reset values, the end of start-up
(STARTUP_END) still to come (R515).
DESIGN CHOICE (log 3; unsafe). DESIGN CHOICE (log 4; unsafe). -/
def State.reset : State :=
  { pending := [], regs := [], hold := [], recent := [], out := [], free := 0, panels := [],
    fab := ⟨[], [], [], [], [], [], [], []⟩,
    cyc := ⟨0, 0, .held, false, 0, 0, 8, false, none, false, false, false, false, [], [], [], 64, 64, 64, true, 0, false, 1600⟩,
    drw := ⟨1, ⟨true, 0, []⟩, ⟨true, 0, []⟩, true, 0, [], [], none, false⟩,
    vnr := ⟨[], [], [], [], []⟩, hbm := [], hbmUe := [], alarms := [], queues := [], winMap := [],
    pinWin := [],
    exports := [],
    ldr := ⟨false, 0, 0, 0, [], [], none, 0, [], false, 0, 0, [], 0, none, false, false, false, 0, [], 0, none, false, false, [0, 0, 0, 0], 0⟩,
    bundles := [], topo := ⟨0, [], [], []⟩,
    trg := ⟨[], [], none, 0, [0, 0, 0, 0], [none, none, none, none], [], [], none⟩,
    cap := ⟨0, 0, [], false, false, 0, [], false⟩, meas := [], traces := [],
    cores := [], shared := [], sharedErr := [], net := [], oldRoutes := [],
    wd := ⟨[], [], [], [], [], [], 0, 0, 0, []⟩,
    gauges := [], lows := [], ticks := 0,
    pins := ⟨[], [], [], [], [], [], [], ⟨0, 0⟩, 0, 0, 0, 0, 0, 0, 0, 0, [], 0, 4⟩,
    hst := ⟨[], 0, true, false, 0, false, false, [], 0, false, [], 0⟩,
    pwr := ⟨false, true, none, none, false, 0, false, 0, [], [], [], false, true, true, false, 2⟩,
    tap := ⟨2, 0, false, false⟩ }

end Sys2Proof.Machine
end

