-- ==== Sys2Proof/Machine/Update.lean ====
section
/-! DEFINITION. The state with one of its fields replaced: the updates from which every operation is built. -/
namespace Sys2Proof.Machine

def State.withPending (s : State) (v : List Instr) : State := { s with pending := v }
def State.withRegs (s : State) (v : Tab Word) : State := { s with regs := v }
def State.withHold (s : State) (v : Tab (Option (Nat × Word))) : State := { s with hold := v }
def State.withRecent (s : State) (v : List Nat) : State := { s with recent := v }
def State.withOut (s : State) (v : List OutMsg) : State := { s with out := v }
def State.withFree (s : State) (v : Nat) : State := { s with free := v }
def State.withPanels (s : State) (v : Tab Panel) : State := { s with panels := v }
def State.withFab (s : State) (v : Fabric) : State := { s with fab := v }
def State.withCyc (s : State) (v : Cycle) : State := { s with cyc := v }
def State.withDrw (s : State) (v : Drawer) : State := { s with drw := v }
def State.withVnr (s : State) (v : Veneer) : State := { s with vnr := v }
def State.withHbm (s : State) (v : Tab (BitVec 8)) : State := { s with hbm := v }
def State.withHbmUe (s : State) (v : List Nat) : State := { s with hbmUe := v }
def State.withAlarms (s : State) (v : Tab Bool) : State := { s with alarms := v }
def State.withQueues (s : State) (v : Tab Queue) : State := { s with queues := v }
def State.withWinMap (s : State) (v : Tab (BitVec 16)) : State := { s with winMap := v }
def State.withPinWin (s : State) (v : Tab (BitVec 128)) : State := { s with pinWin := v }
def State.withExports (s : State) (v : Tab (Nat × Nat × Nat)) : State := { s with exports := v }
def State.withLdr (s : State) (v : Loader) : State := { s with ldr := v }
def State.withBundles (s : State) (v : Tab Bundle) : State := { s with bundles := v }
def State.withTopo (s : State) (v : Topology) : State := { s with topo := v }
def State.withTrg (s : State) (v : Trigger) : State := { s with trg := v }
def State.withCap (s : State) (v : Capture) : State := { s with cap := v }
def State.withMeas (s : State) (v : Tab Meas) : State := { s with meas := v }
def State.withTraces (s : State) (v : Tab TraceUnit) : State := { s with traces := v }
def State.withCores (s : State) (v : Tab Core) : State := { s with cores := v }
def State.withShared (s : State) (v : Tab Word) : State := { s with shared := v }
def State.withSharedErr (s : State) (v : Tab EccClass) : State := { s with sharedErr := v }
def State.withNet (s : State) (v : List RingReq) : State := { s with net := v }
def State.withOldRoutes (s : State) (v : Tab (Option (BitVec 2))) : State := { s with oldRoutes := v }
def State.withWd (s : State) (v : Dispatcher) : State := { s with wd := v }
def State.withGauges (s : State) (v : Tab Gauge) : State := { s with gauges := v }
def State.withLows (s : State) (v : Tab (Option Word)) : State := { s with lows := v }
def State.withTicks (s : State) (v : Nat) : State := { s with ticks := v }
def State.withPins (s : State) (v : Pins) : State := { s with pins := v }
def State.withHst (s : State) (v : HostIf) : State := { s with hst := v }
def State.withPwr (s : State) (v : Power) : State := { s with pwr := v }
def State.withTap (s : State) (v : TestPort) : State := { s with tap := v }

end Sys2Proof.Machine
end

