-- ==== Sys2Proof/Machine/CfgSpace.lean ====
section
/-! DEFINITION. The configuration space of the host function as it is stored (R469-R472), and what it says of the TLPs that the
function sends. -/
namespace Sys2Proof.Machine

/-! ### The registers

The manual names the capabilities and what the function supports. The registers' places, bits and reset values are those of the
PCI Express Base Specification; the capabilities lie at 0x40 (Power Management), 0x48 (PCI Express), 0x90 (MSI-X), 0x100
(Device Serial Number) and 0x110 (AER).
PRESUMED (log 37; unsafe). -/

/-- Offsets of Device Control and Status, Link Control and Status, PMCSR, MSI-X Message Control; and in AER: uncorrectable
status, mask and severity, correctable status and mask, capabilities and control, header log. -/
def cfgDev : Nat := 0x50
def cfgLnk : Nat := 0x58
def cfgPm : Nat := 0x44
def cfgMsix : Nat := 0x90
def aerStatus : Nat := 0x114
def aerMask : Nat := 0x118
def aerSeverity : Nat := 0x11c
def aerCorStatus : Nat := 0x120
def aerCorMask : Nat := 0x124
def aerCtl : Nat := 0x128
def aerLog : Nat := 0x12c

/-- What a double word of configuration space holds after reset (R469, R472).
PRESUMED (log 37; unsafe). -/
def cfgDefault (off : Nat) : Word :=
  match off with
  | 0x00 => 0x72641f3c
  | 0x04 => 0x00100000
  | 0x08 => 0x12000001
  | 0x10 => 0x00000004
  | 0x18 => 0x0000000c
  | 0x34 => 0x00000040
  | 0x40 => 0x00034801
  | 0x44 => 0x00000008
  | 0x48 => 0x00029010
  | 0x4c => 0x10008002
  | 0x50 => 0x00002810
  | 0x54 => 0x00000905
  | 0x74 => 0x0000003e
  | 0x90 => 0x007f0011
  | 0x94 => 0x00000800
  | 0x98 => 0x00000700
  | 0x100 => 0x11010003
  | 0x110 => 0x00020001
  | 0x118 => 0x00400000
  | 0x11c => 0x00462030
  | 0x124 => 0x00002000
  | 0x128 => 0x000000a0
  | _ => 0

/-- A double word as it is stored. -/
def State.cfg (s : State) (off : Nat) : Word := Tab.get cfgDefault s.hst.cfg off
def State.setCfg (s : State) (off : Nat) (v : Word) : State :=
  s.withHst { s.hst with cfg := Tab.set cfgDefault s.hst.cfg off v }

/-- ECRC is generated (R469). -/
def State.ecrcSent (s : State) : Bool := (s.cfg aerCtl).getLsbD 6

/-- A TLP as the function sends it. -/
def State.tlp (s : State) (m : OutMsg) : OutMsg := if s.ecrcSent then .withEcrc m else m

end Sys2Proof.Machine
end

