-- ==== Sys2Proof/Machine/Ops.lean ====
section
/-! DEFINITION. The named operations over registers, error capture and the Clamp causes that every family uses. -/
namespace Sys2Proof.Machine

/-- A page by type and instance. -/
def pg (ty : PageType) (inst : Nat := 0) : PageId := ⟨ty, inst⟩

/-- The PNL_ page of a physical Panel (R52). -/
def pnlPg (die panel : Nat) : PageId := ⟨.pnl, die * 1024 + panel⟩

/-- The MQ_ page of a queue of a die. -/
def mqPg (die q : Nat) : PageId := ⟨.mq, die * 1024 + q⟩

/-- The DIE_ or DVT_ page of a die. -/
def diePg (die : Nat) : PageId := ⟨.die, die * 1024⟩
def dvtPg (die : Nat) : PageId := ⟨.dvt, die * 1024⟩

/-- The stored value of a register. -/
def State.reg (s : State) (p : PageId) (off : Nat) : Word := Tab.get regDefault s.regs (regKey p off)

/-- Store a register's value. -/
def State.setReg (s : State) (p : PageId) (off : Nat) (v : Word) : State :=
  s.withRegs (Tab.set regDefault s.regs (regKey p off) v)

/-- A field of a register. -/
def State.f (s : State) (p : PageId) (off hi lo : Nat) : Nat := fld (s.reg p off).toNat hi lo

/-- Write a field of a register. -/
def State.setF (s : State) (p : PageId) (off hi lo v : Nat) : State := s.setReg p off (setFld (s.reg p off) hi lo v)

/-- The 64-bit quantity whose lower register stands at an offset (R6). -/
def State.reg64 (s : State) (p : PageId) (off : Nat) : Nat := (s.reg p off).toNat + 2 ^ 32 * (s.reg p (off + 4)).toNat

/-- Store a 64-bit quantity (R6). -/
def State.setReg64 (s : State) (p : PageId) (off v : Nat) : State :=
  (s.setReg p off (BitVec.ofNat 32 v)).setReg p (off + 4) (BitVec.ofNat 32 (v / 2 ^ 32))

/-- Advance a counter field, saturating at its largest value. -/
def State.bump (s : State) (p : PageId) (off hi lo : Nat) (n : Nat := 1) : State :=
  s.setF p off hi lo (satAdd (hi + 1 - lo) (s.f p off hi lo) n)

/-- The states of a page (PG_STS.STATE, R35). -/
def stOff : Nat := 0
def stStarting : Nat := 1
def stOn : Nat := 2
def stStopping : Nat := 3

/-- The page's STATE. -/
def State.st (s : State) (p : PageId) : Nat := s.f p 0x0c 1 0

/-- Is the page ON? -/
def State.on (s : State) (p : PageId) : Bool := s.st p == stOn

/-- Set the page's STATE. -/
def State.setSt (s : State) (p : PageId) (v : Nat) : State := s.setF p 0x0c 1 0 v

/-- The page's requested state, PG_CTL.EN. -/
def State.en (s : State) (p : PageId) : Bool := s.f p 0x08 0 0 == 1

/-- The page's PG_CTL.LOCK. -/
def State.locked (s : State) (p : PageId) : Bool := s.f p 0x08 2 2 == 1

/-- Send a message.
DESIGN CHOICE (log 8; safe). -/
def State.send (s : State) (m : OutMsg) : State := s.withOut (m :: s.out)

/-- The number of a page among all pages: its register number space (used for R44). -/
def pageNum (p : PageId) : Nat := pageCode p.ty * 4096 + p.inst

/-- A mark of the reference-clock period in hand: that a bit of the page's PG_STICKY was set in it, by the bit's number
(R44), or, at a reserved bit's number, that PG_FIRST (4) or PG_SECOND (5) holds an event of it (R43). -/
def periodMark (p : PageId) (b : Nat) : Nat := pageNum p * 32 + b

/-- The mark stands. -/
def State.fresh (s : State) (p : PageId) (b : Nat) : Bool := s.recent.contains (periodMark p b)

/-- Set a mark. -/
def State.mark (s : State) (p : PageId) (b : Nat) : State := s.withRecent (periodMark p b :: s.recent)

/-- What a capture register records of an event. -/
def captureWord (b info : Nat) : Word := BitVec.ofNat 32 (2 ^ 31 + b * 2 ^ 24 + info % 2 ^ 24)

/-- A VNR_ event of a memory queue's write: these are released together at Q (R285). -/
def ofRelease (p : PageId) (b info : Nat) : Bool := p.ty == .vnr && decide (8 ≤ b) && decide (b < 12) && fld info 19 15 == 0x1c

/-- The place of an event among those of its page and period: by BIT, then by step and Dowel for the Dowel bits of a
PNL_ page (R107), by INFO for the others (R43). The events of writes released at Q share one place, behind the others of their BIT,
since they are captured in the order in which R277 releases them (R285), which is the order in which they are raised.
DESIGN CHOICE (log 45; unsafe). -/
def eventRank (p : PageId) (w : Word) : Nat :=
  let b := fld w.toNat 28 24
  let info := fld w.toNat 23 0
  b * 2 ^ 25 + (if p.ty = .pnl ∧ 8 ≤ b ∧ b < 16 then info % 2 ^ 12 * 2 ^ 6 + fld info 17 12
    else if ofRelease p b info then 2 ^ 24 else info)

/-- A capture register takes an event of the period in hand; on a VNR_ page the line address goes with it (R285). -/
def setCapture (s : State) (p : PageId) (second : Bool) (w : Word) (addr : Nat) : State :=
  let s := s.setReg p (if second then 0x1c else 0x18) w
  let s := if p.ty = .vnr then s.setReg64 p (if second then 0x60 else 0x58) addr else s
  s.mark p (if second then 5 else 4)

/-- An event is not recorded: CAPT_LOST. -/
def captureLost (s : State) (p : PageId) : State := (s.setF p 0x10 3 3 1).mark p 3

/-- Record an error event in PG_FIRST or PG_SECOND, or set CAPT_LOST (R43). The events of one reference-clock period are
recorded in the order of `eventRank`, whichever order the commands report them in: one that comes before a capture of
the same period takes its place, and the capture moves on.
DEDUCED (log 7; unsafe). -/
def capture (s : State) (p : PageId) (b info : Nat) (addr : Nat) : State :=
  let w := captureWord b info
  if s.f p 0x18 31 31 = 0 then setCapture s p false w addr
  else if s.fresh p 4 ∧ eventRank p w < eventRank p (s.reg p 0x18) then
    let t := if s.f p 0x1c 31 31 = 0 then s else captureLost s p
    setCapture (setCapture t p true (s.reg p 0x18) (s.reg64 p 0x58)) p false w addr
  else if s.f p 0x1c 31 31 = 0 then setCapture s p true w addr
  else if s.fresh p 5 ∧ eventRank p w < eventRank p (s.reg p 0x1c) then setCapture (captureLost s p) p true w addr
  else captureLost s p

/-- An error event with a line address: set the sticky bit and record the event (R43, R44). -/
def raiseAt (s : State) (p : PageId) (b info addr : Nat) : State :=
  (capture (s.setF p 0x10 b b 1) p b info addr).mark p b

/-- An error event: set the sticky bit and record the event (R43, R44). An event of a VNR_ page that has no line leaves 0 in
VNR_FIRST_ADDR or VNR_SECOND_ADDR.
DEDUCED (log 7; unsafe). DESIGN CHOICE (log 45; unsafe). -/
def raise (s : State) (p : PageId) (b info : Nat) : State := raiseAt s p b info 0

/-- Raise several events of one page.
DEDUCED (log 7; unsafe). -/
def raiseAll (s : State) (p : PageId) (evs : List (Nat × Nat)) : State :=
  evs.foldl (fun s e => raise s p e.1 e.2) s

/-- The requester codes of R42; the test port is 0xA (R529).
DEDUCED (log 15; unsafe). -/
def rqCode : Requester → Nat
  | .host => 0
  | .core c => 1 + c
  | .loader => 9
  | .testPort => 0xa

/-- The sticky bits of the header (R35). -/
def bRsvd : Nat := 0
def bLockviol : Nat := 1
def bSeqFail : Nat := 2

/-! ### Cycle numbers and the Clamp -/

/-- CYC_LEN.N and CYC_LEN.S (R144, R181). -/
def State.nLen (s : State) : Nat := s.f (pg .cyc) 0x40 12 0
def State.sLen (s : State) : Nat := s.f (pg .cyc) 0x40 25 16

/-- CLP_PROP (R182). -/
def State.prop (s : State) : Nat := s.f (pg .clp) 0x40 9 0

/-- CYC_COUNT (R181). -/
def State.cycCount (s : State) : Nat := s.reg64 (pg .cyc) 0x48

/-- The step of the execution, or the hold step (R145, R160). -/
def State.step (s : State) : Nat := s.cyc.csc - s.cyc.t0

/-- An execution is in hand (not held). -/
def State.executing (s : State) : Bool := decide (s.cyc.phase ≠ .held)

/-- The named steps of an execution (R145). -/
def State.tStep (s : State) : Nat := s.nLen + s.sLen
def State.dStep (s : State) : Nat := s.tStep - s.prop
def State.cStep (s : State) : Nat := s.tStep - 16
def State.qStep (s : State) : Nat := max s.cStep (s.nLen + 12)

/-- The cycle whose execution is in hand: from Q on, CYC_COUNT has passed a cycle that was committed (R163). In a hold it
is the next cycle to execute.
DESIGN CHOICE (log 43; unsafe). -/
def State.execCycle (s : State) : Nat := if s.cyc.phase = .settled ∧ !s.cyc.rerun then s.cycCount - 1 else s.cycCount

/-- The step that a Clamp capture records: 0xFFF during a hold (R182). A step of 4,096 and more is recorded by its low 12
bits.
DESIGN CHOICE (log 43; unsafe). -/
def State.clpStep (s : State) : Nat := if s.executing then s.step % 4096 else 0xfff

/-- Capture INFO of FAULT_LOCAL and REPLAY_LOCAL (R182). -/
def clpInfo (s : State) (src die onH : Nat) : Nat :=
  src * 2 ^ 20 + die % 4 * 2 ^ 18 + s.execCycle % 4 * 2 ^ 16 + onH * 2 ^ 15 + s.f (pg .clp) 0x58 2 0 * 2 ^ 12 + s.clpStep

/-- A source of this device raises REPLAY (R168, R173). -/
def raiseReplay (s : State) (src die onH : Nat) : State :=
  let s := raise s (pg .clp) 8 (clpInfo s src die onH)
  s.withCyc { s.cyc with replay := true }

/-- A source of this device raises FAULT (R173). -/
def raiseFault (s : State) (src die onH : Nat) : State :=
  let s := raise s (pg .clp) 9 (clpInfo s src die onH)
  s.withCyc { s.cyc with fault := true }

/-! ### Panels and repair -/

/-- A physical Panel of a die. -/
def State.panel (s : State) (die panel : Nat) : Panel := Tab.get (fun _ => Panel.empty) s.panels (die * 132 + panel)

/-- Replace a physical Panel. -/
def State.setPanel (s : State) (die panel : Nat) (x : Panel) : State :=
  s.withPanels (Tab.set (fun _ => Panel.empty) s.panels (die * 132 + panel) x)

/-- The state of a die-link module (R129): die * 4 + module. -/
def State.mod (s : State) (die m : Nat) : ModState := Tab.get (fun _ => ModState.untrained) s.fab.mods (die * 4 + m)

/-- Set a module's state. -/
def State.setMod (s : State) (die m : Nat) (x : ModState) : State :=
  s.withFab { s.fab with mods := Tab.set (fun _ => ModState.untrained) s.fab.mods (die * 4 + m) x }

/-- A module trains, whether or not it was down before (R129).
DEDUCED (log 20; unsafe). -/
def State.modTrains (s : State) (die m : Nat) : Bool := s.mod die m == .training || s.mod die m == .retraining

/-- A module is down: until it next trains and comes up (R130).
DEDUCED (log 20; unsafe). -/
def State.modDown (s : State) (die m : Nat) : Bool := s.mod die m == .down || s.mod die m == .retraining

/-- The repair map's reason byte of a physical Panel (R528, R530). -/
def State.reason (s : State) (die panel : Nat) : BitVec 8 := Tab.get (zeroAt 8) s.drw.reasons (die * 132 + panel)

/-- Set a reason byte. -/
def State.setReason (s : State) (die panel : Nat) (v : BitVec 8) : State :=
  s.withDrw { s.drw with reasons := Tab.set (zeroAt 8) s.drw.reasons (die * 132 + panel) v }

/-- The Panel is retired in the repair map (bit 7), or marked (bit 6). -/
def State.retired (s : State) (die panel : Nat) : Bool := (s.reason die panel).getLsbD 7
def State.marked (s : State) (die panel : Nat) : Bool := (s.reason die panel).getLsbD 6

/-- RPR_GOOD of a die (R523): Panels neither retired nor marked. -/
def State.good (s : State) (die : Nat) : Nat :=
  ((List.range 132).filter (fun p => !s.retired die p && !s.marked die p)).length

/-- RPR_USABLE of a die (R523): 0 while a module of the die is down. -/
def State.usable (s : State) (die : Nat) : Nat :=
  if (List.range 4).any (fun m => s.modDown die m) then 0 else min 128 (s.good die)

/-- Set SPARE_OUT for each die whose usable count fell below 128 between two states (R523). -/
def spareOut (before after : State) : State :=
  (List.range 4).foldl (fun s d =>
    if after.usable d < before.usable d ∧ after.usable d < 128 then
      raise s (pg .rpr) 10 (d * 2 ^ 8 + after.usable d)
    else s) after

/-- Mark a Panel for retirement with a reason code (R525); a Panel already marked or retired keeps its reason. -/
def markPanel (s : State) (die panel code : Nat) : State :=
  if s.retired die panel || s.marked die panel then s
  else
    let t := s.setReason die panel (BitVec.ofNat 8 (0x40 + code))
    let t := t.withDrw { t.drw with mapWrites := t.drw.mapWrites + 1 }
    spareOut s (raise t (pg .rpr) 8 (code * 2 ^ 20 + die * 2 ^ 8 + panel))

/-- One corrected instruction-store error of a Panel: PNL_ECC_CNT.IS advances, and reaching RPR_CE_THR marks the Panel
(R101, R138, R525). -/
def countCe (s : State) (die panel : Nat) : State :=
  let s := s.bump (pnlPg die panel) 0x44 31 16
  let thr := s.f (pg .rpr) 0x48 15 0
  if thr ≠ 0 ∧ thr ≤ s.f (pnlPg die panel) 0x44 31 16 then markPanel s die panel 3 else s

/-- The logical Panel that a physical Panel runs, if bound (PNL_BIND, R140). -/
def State.lpanel (s : State) (die panel : Nat) : Option Nat :=
  if s.f (pnlPg die panel) 0x40 31 31 = 1 then some (s.f (pnlPg die panel) 0x40 6 0) else none

/-- The physical Panel bound to a logical Panel (DVT_PMAP, R143). -/
def State.phys (s : State) (g p : Nat) : Option Nat :=
  let w := s.f (dvtPg g) (0x100 + 4 * (p / 2)) (16 * (p % 2) + 15) (16 * (p % 2))
  if w / 2 ^ 15 = 1 then some (w % 256) else none

end Sys2Proof.Machine
end

