-- ==== Sys2Proof/Machine/Flags.lean ====
section
/-! DEFINITION. The conditions that the machine derives from its state: page interrupts and their sources (R45, R415),
the page status fields (R35, R40), the host's vector conditions and events (R481, R483), the Gauge pulse outputs and
the TRIG_OUT signals as the pads follow them (R355, R444); and `settle`, which lets those follow a command's effect. -/
namespace Sys2Proof.Machine

/-- A register whose after-reset value is 0: what the store lists, or 0. -/
def State.raw (s : State) (p : PageId) (off : Nat) : Word := Tab.get (zeroAt 32) s.regs (regKey p off)

/-- The page interrupt of a page (R45). -/
def State.pageIrq (s : State) (p : PageId) : Bool := (s.raw p 0x10 &&& s.raw p 0x14) != 0

/-- The pages that assert their page interrupt, in ascending page code, then instance: those of which PG_STICKY is
listed. -/
def State.irqPages (s : State) : List PageId :=
  s.regs.filterMap (fun e =>
    if e.1 % 1024 = 4 then
      match keyReg e.1 with
      | some (p, _) => if s.pageIrq p then some p else none
      | none => none
    else none)

/-- The interrupt source of a page (R415): by die for a PNL_ page, by type for the others. -/
def sourceOfPage (p : PageId) : Nat :=
  match p.ty with
  | .pnl => p.inst / 1024
  | .die => 4
  | .dvt => 5
  | .mq => 6
  | t => 8 + (pageCode t - 0x10)

/-- Interrupt sources 0 to 31 that are asserted (R415). -/
def State.pageSources (s : State) : List Nat := (s.irqPages).map sourceOfPage

/-- Host interrupt sources that are asserted (R481). -/
def State.hostSources (s : State) : List Nat :=
  s.pageSources ++ (if Tab.get (fun _ => false) s.alarms 8 then [32] else []) ++
    (if s.raw (pg .hst) 0x48 = 0 then [] else [33])

/-- The conditions of the 128 vectors (R483). -/
def State.vectorConds (s : State) : BitVec 128 :=
  s.hostSources.foldl (fun acc n =>
    let m := (s.raw (pg .hst) (0x100 + 4 * n)).toNat
    if fld m 31 31 = 1 then acc ||| BitVec.ofNat 128 (2 ^ fld m 6 0) else acc) 0

/-- An MSI-X table entry; masked where nothing has written it. -/
def State.msixEntry (s : State) (v : Nat) : MsixEntry := Tab.get (fun _ => ⟨0, 0, 1⟩) s.hst.table v

/-- May the message of a vector be sent (R483)?
PRESUMED (log 37; unsafe). -/
def State.msixOpen (s : State) (v : Nat) : Bool :=
  !(s.msixEntry v).ctl.getLsbD 0 && !s.hst.fnMask && s.hst.busMaster

/-- A vector event (R483): the message, or the PBA bit. -/
def vectorEvent (s : State) (v : Nat) : State :=
  if s.msixOpen v then
    (s.send (s.tlp (.msix v (s.msixEntry v).addr (s.msixEntry v).data))).withHst
      { s.hst with pba := s.hst.pba &&& ~~~(BitVec.ofNat 128 (2 ^ v)) }
  else s.withHst { s.hst with pba := s.hst.pba ||| BitVec.ofNat 128 (2 ^ v) }

/-- The vectors whose condition has risen make their events (R483). One that falls and rises again within a reference-clock
period has not fallen: the period's end forgets those that are 0 then (`tick`); and a HST_REARM that came while it was 0 has
found it 1.
DEDUCED (log 9; unsafe). -/
def settleVectors (s : State) : State :=
  let rise := s.vectorConds &&& (~~~s.hst.conds ||| s.hst.rearms)
  if rise = 0 then s
  else
    let s := s.withHst { s.hst with conds := s.hst.conds ||| rise, rearms := s.hst.rearms &&& ~~~rise }
    (List.range 128).foldl (fun s v => if rise.getLsbD v then vectorEvent s v else s) s

/-! ### Pads -/

/-- The PIN_ page of a pin, and the pin's half of PIN_CFG (R466). -/
def pinPg (pin : Nat) : PageId := ⟨.pin, pin / 32⟩
def State.pinHalf (s : State) (pin : Nat) : Nat :=
  s.f (pinPg pin) (0x44 + 4 * (pin % 32 / 2)) (16 * (pin % 2) + 15) (16 * (pin % 2))

/-- FUNC and SEL in force at a pin, SEL in bits 7:4 (R444, R461). -/
def State.pinFn (s : State) (pin : Nat) : Nat :=
  match Tab.get (fun _ => none) s.pins.pendFn pin with
  | some v => v.toNat
  | none => s.pinHalf pin % 256

/-- The pins whose PIN_CFG half is not all 0, or whose switch is pending. -/
def State.cfgPins (s : State) : List Nat :=
  let l := s.regs.flatMap (fun e =>
    match keyReg e.1 with
    | some (⟨.pin, p⟩, off) =>
      if 0x44 ≤ off ∧ off < 0x84 then
        let i := 32 * p + 2 * ((off - 0x44) / 4)
        [i, i + 1]
      else []
    | _ => [])
  l ++ (s.pins.pendFn.map Prod.fst).filter (fun i => !l.contains i)

/-- The pad of a pin: bit 0 level, bit 1 enable. -/
def State.pad (s : State) (pin : Nat) : BitVec 2 := Tab.get (zeroAt 2) s.pins.pads pin

/-- A pad value. -/
def padOf (level en : Bool) : BitVec 2 := BitVec.ofNat 2 (bit level + 2 * bit en)

/-- EXTEST is selected (R544). -/
def State.extest (s : State) : Bool := s.tap.ir == 0

/-- The pad that the boundary register's data and enable cells of a pin give. -/
def State.cellPad (s : State) (pin : Nat) : BitVec 2 :=
  padOf (s.tap.cells.getLsbD (3 * pin + 1)) (s.tap.cells.getLsbD (3 * pin + 2))

/-- A pin's function drives its pad: the pad takes the value, and the function has taken the pad (R462). While the page is not
ON the pad's driver is off (R442). Nothing while EXTEST overrides the functions (R544). -/
def drivePad (s : State) (pin : Nat) (v : BitVec 2) : State :=
  if s.extest then s
  else
    s.withPins { s.pins with
        pads := if s.on (pinPg pin) then Tab.set (zeroAt 2) s.pins.pads pin v else s.pins.pads
        waiting := Tab.set (fun _ => false) s.pins.waiting pin false }

/-- A Gauge beyond its registers, at rest. -/
def Gauge.empty : Gauge := ⟨0, 0, none, none, none, none, none, 0, none, none, false, false, false, false, false, []⟩

/-- A Gauge. -/
def State.gauge (s : State) (k : Nat) : Gauge := Tab.get (fun _ => Gauge.empty) s.gauges k

/-- The value of a Gauge now: G(t) of R337. -/
def State.gval (s : State) (k : Nat) : Nat := (s.gauge k).value.toNat

/-- The value of every Gauge now. -/
def State.gaugeValues (s : State) : List (BitVec 64) := (List.range 16).map (fun k => (s.gauge k).value)

/-- Replace a Gauge. -/
def State.setGauge (s : State) (k : Nat) (g : Gauge) : State :=
  s.withGauges (Tab.set (fun _ => Gauge.empty) s.gauges k g)

/-- The GAU_ page of a Gauge. -/
def gauPg (k : Nat) : PageId := ⟨.gau, k⟩

/-- A register of a GAU_ page as it is in force in the tick in hand (R334). -/
def State.gin (s : State) (k off : Nat) : Word := (Tab.get (fun _ => none) (s.gauge k).stale off).getD (s.reg (gauPg k) off)

/-- A field of it, and a 64-bit quantity. -/
def State.ginF (s : State) (k off hi lo : Nat) : Nat := fld (s.gin k off).toNat hi lo
def State.gin64 (s : State) (k off : Nat) : Nat := (s.gin k off).toNat + 2 ^ 32 * (s.gin k (off + 4)).toNat

/-- The fields of an event unit in force. -/
def State.evtMode (s : State) (k : Nat) : Nat := s.ginF k 0xc0 2 1
def State.evtG (s : State) (k : Nat) : Nat := s.gval (s.ginF k 0xc0 7 4)
def State.evtA (s : State) (k : Nat) : Nat := s.gin64 k 0xc8
def State.evtB (s : State) (k : Nat) : Nat := s.gin64 k 0xd0
def State.evtWidth (s : State) (k : Nat) : Nat := (s.gin k 0xd8).toNat

/-- An event unit acts: its page and that of the selected Gauge are ON (R350). -/
def State.unitActs (s : State) (k : Nat) : Bool :=
  s.on (gauPg k) && s.on (gauPg (s.ginF k 0xc0 7 4))

/-- A pulse is in progress: the time fired plus WIDTH is not due yet (R351, R352). -/
def State.pulsing (s : State) (k : Nat) : Bool :=
  match (s.gauge k).pulse with
  | none => false
  | some e => !reached64 (s.evtG k) e.toNat

/-- Gauge pulse output k (R350, R355). -/
def State.pulseOut (s : State) (k : Nat) : Bool :=
  let g := s.gauge k
  if s.pulsing k || g.winOn then xor (s.unitActs k) g.inv else g.inv

/-- The sixteen pulse outputs. -/
def State.pulseOuts (s : State) : BitVec 16 :=
  (List.range 16).foldl (fun acc k => if s.pulseOut k then acc ||| BitVec.ofNat 16 (2 ^ k) else acc) 0

/-- The three signals of TRIG_OUT (R444): TRIGGERED, TRIG_STOP live, HELD. -/
def State.trigSignals (s : State) : BitVec 3 :=
  BitVec.ofNat 3 (bit ((s.raw (pg .trg) 0x44).getLsbD 4) + 2 * bit s.cyc.trigStop + 4 * bit (!s.executing))

/-- The pads of TRIG_OUT pins follow their signal (R457).
DEDUCED (log 9; unsafe). -/
def settleTrig (s : State) : State :=
  let t := s.trigSignals
  if t = s.pins.trig then s
  else
    let ch := t ^^^ s.pins.trig
    let s := s.withPins { s.pins with trig := t }
    s.cfgPins.foldl (fun s pin =>
      let fn := s.pinFn pin
      if fn % 16 = 4 ∧ ch.getLsbD (fn / 16) then drivePad s pin (padOf (t.getLsbD (fn / 16)) true) else s) s

/-- A change of a Gauge pulse output starts on its way to the pads of its pins, four ticks (R355, R454).
DEDUCED (log 9; unsafe). -/
def settlePulses (s : State) : State :=
  let t := s.pulseOuts
  if t = s.pins.pulses then s
  else
    let ch := t ^^^ s.pins.pulses
    let s := s.withPins { s.pins with pulses := t }
    s.cfgPins.foldl (fun s pin =>
      let fn := s.pinFn pin
      if fn % 16 = 3 ∧ ch.getLsbD (fn / 16) then
        s.withPins { s.pins with late := s.pins.late ++ [⟨4, pin, padOf (t.getLsbD (fn / 16)) true, false⟩] }
      else s) s

/-- What follows a command's effect by itself.
DEDUCED (log 9; unsafe). -/
def settle (s : State) : State := settleVectors (settlePulses (settleTrig s))

/-- A command is done.
DESIGN CHOICE (log 2; safe). -/
def done (s : State) : Host.Outcome State Fault Refusal := .next (settle s)

end Sys2Proof.Machine
end

