-- ==== Sys2Proof/Machine/Link.lean ====
section
/-! DEFINITION. A bundle as a channel for packets (R308-R311): its registers' names, load mode, packets that wait to be
sent, numbered units that arrive. -/
namespace Sys2Proof.Machine

/-- The states of BND_STS.STATE (R316). -/
def bsDown : Nat := 0
def bsDetect : Nat := 1
def bsLaneTrain : Nat := 2
def bsLock : Nat := 3
def bsAlign : Nat := 4
def bsIdent : Nat := 5
def bsUp : Nat := 6
def bsFailed : Nat := 7
def bsTest : Nat := 8

/-- The BND_ page of a bundle, and the LN_ page of a lane of it (R287). -/
def bndPg (b : Nat) : PageId := ⟨.bnd, b⟩
def lnPg (b k : Nat) : PageId := ⟨.ln, 9 * b + k⟩

/-- The two directions of a bundle before training. The PRBS31 generator starts at all ones; the first numbered unit of either
direction after a training is unit 0, since R310 names no first number.
DESIGN CHOICE (log 30; unsafe). DESIGN CHOICE (log 46; unsafe). -/
def BundleTx.empty : BundleTx := ⟨[], none, [], 0, [], none, [], none, [], [], 2 ^ 31 - 1⟩
def BundleRx.empty : BundleRx := ⟨0, 0, none, none, []⟩

/-- A bundle after reset. -/
def Bundle.empty : Bundle :=
  ⟨false, [], none, false, false, false, false, .empty, .empty, none, none, [], (0, 0), false, [], [], [], [], 0, []⟩

/-- A bundle beyond its registers. -/
def State.bundle (s : State) (b : Nat) : Bundle := Tab.get (fun _ => Bundle.empty) s.bundles b

/-- Replace a bundle. -/
def State.setBundle (s : State) (b : Nat) (x : Bundle) : State :=
  s.withBundles (Tab.set (fun _ => Bundle.empty) s.bundles b x)

/-- Replace the transmit or the receive direction of a bundle. -/
def State.setTx (s : State) (b : Nat) (x : BundleTx) : State := s.setBundle b { s.bundle b with tx := x }
def State.setRx (s : State) (b : Nat) (x : BundleRx) : State := s.setBundle b { s.bundle b with rx := x }

/-- BND_STS.STATE. -/
def State.bst (s : State) (b : Nat) : Nat := s.f (bndPg b) 0x44 3 0
def State.setBst (s : State) (b v : Nat) : State := s.setF (bndPg b) 0x44 3 0 v

/-- The bundle is UP. -/
def State.bup (s : State) (b : Nat) : Bool := s.bst b == bsUp

/-- The CYC_ page is OFF, or ON. -/
def State.cycOff (s : State) : Bool := s.st (pg .cyc) == stOff
def State.cycOn (s : State) : Bool := s.on (pg .cyc)

/-- The transmit direction of a bundle is in load mode (R311).
DEDUCED (log 29; unsafe). -/
def State.loadMode (s : State) (b : Nat) : Bool := s.bup b && s.cycOff && (s.bundle b).partnerOff

/-- What the partner takes this device's CYC_ page for at a count: what the last STATE that it has applied by then reports. -/
def Bundle.toldOff (x : Bundle) (c : Nat) : Bool :=
  match x.told.find? (fun e => decide (e.1 ≤ c)) with
  | some e => e.2
  | none => false

/-- The receive direction of a bundle is in load mode at a count: the sender's page is OFF, by the last STATE received, and
the sender takes this device's page for OFF (R311).
DEDUCED (log 29; unsafe). -/
def State.heardLoad (s : State) (b c : Nat) : Bool := s.bup b && (s.bundle b).partnerOff && (s.bundle b).toldOff c

/-- The units of a packet (R308). -/
def Packet.units : Packet → Nat
  | .retry _ | .lanemap _ _ _ | .state _ => 1
  | .time _ _ _ _ => 6
  | .chain _ => 2
  | .ident _ => 7
  | .topo _ => 18
  | .mesh _ _ => 5

/-- Send a packet on a bundle: it waits for its turn in the frames (R303). A bundle that is not in IDENT or UP sends
none. -/
def sendPacket (s : State) (b : Nat) (p : Packet) : State :=
  if s.bup b || s.bst b == bsIdent then
    s.setTx b { (s.bundle b).tx with queue := (s.bundle b).tx.queue ++ [p] }
  else s

/-- Forwarded stream bytes wait to be sent on a bundle (R311). -/
def sendBytes (s : State) (b : Nat) (bs : List Nat) : State :=
  if s.bup b then s.setTx b { (s.bundle b).tx with data := (s.bundle b).tx.data ++ bs } else s

/-- The bundles that are UP. -/
def State.upBundles (s : State) : List Nat := (List.range 6).filter (fun b => s.bup b)

/-- Send a packet on every UP bundle. -/
def sendAll (s : State) (p : Packet) : State := s.upBundles.foldl (fun s b => sendPacket s b p) s

/-- The next numbered unit that arrives is the first one not yet received, and no RETRY is outstanding (R310). -/
def BundleRx.due (x : BundleRx) : Bool := x.gap.isNone && x.number == x.next

/-- So many numbered units arrive (R310): they count as received where the first of them is due. -/
def BundleRx.take (x : BundleRx) (n : Nat) : BundleRx :=
  { x with number := (x.number + n) % 2 ^ 24, next := if x.due then (x.next + n) % 2 ^ 24 else x.next }

/-- Numbered units arrive on a bundle in IDENT or UP (R310): what they carry acts where they are due, and else is
discarded. A packet's row stands for the frames that carry its units.
DESIGN CHOICE (log 42; safe). -/
def packetIn (s : State) (b n : Nat) (act : State → State) : State :=
  let x := (s.bundle b).rx
  if s.bup b || s.bst b == bsIdent then
    if x.due then act (s.setRx b (x.take n)) else s.setRx b (x.take n)
  else s

end Sys2Proof.Machine
end

