-- ==== Sys2Proof/Machine/Frame.lean ====
section
/-! DEFINITION. What a bundle sends (R296-R306, R308, R310, R311, R315, R322, R323): packets in units, the choice of each
step's unit, the frame and its parity, its place in the stream and on the lanes, the spare lane, the symbols of a lane. -/
namespace Sys2Proof.Machine

/-! ### PRBS generators (R322) -/

/-- The next bit of a generator whose last bits, the newest in bit 0, are given: kind 0 PRBS7, 1 PRBS13, else PRBS31. -/
def prbsBit (kind v : Nat) : Bool :=
  match kind with
  | 0 => xor (v.testBit 6) (v.testBit 5)
  | 1 => xor (xor (v.testBit 12) (v.testBit 11)) (xor (v.testBit 1) (v.testBit 0))
  | _ => xor (v.testBit 30) (v.testBit 27)

/-- The generator one bit further. -/
def prbsStep (kind v : Nat) : Nat :=
  (2 * v + bit (prbsBit kind v)) % 2 ^ (match kind with
    | 0 => 7
    | 1 => 13
    | _ => 31)

/-- The next n bits, the first in bit 0, and the generator after them. -/
def prbsRun (kind : Nat) : Nat → Nat → Nat × Nat
  | 0, v => (0, v)
  | n + 1, v =>
    let (r, v') := prbsRun kind n (prbsStep kind v)
    (bit (prbsBit kind v) + 2 * r, v')

/-! ### Packets in units (R308) -/

/-- PTYPE. -/
def Packet.code : Packet → Nat
  | .retry _ => 6
  | .lanemap _ _ _ => 7
  | .time _ _ _ _ => 2
  | .state _ => 8
  | .chain _ => 1
  | .ident _ => 3
  | .topo _ => 4
  | .mesh _ _ => 5

/-- The place of a packet's type in the table, the highest rank first. -/
def Packet.rank : Packet → Nat
  | .retry _ => 0
  | .lanemap _ _ _ => 1
  | .time _ _ _ _ => 2
  | .state _ => 3
  | .chain _ => 4
  | .ident _ => 5
  | .topo _ => 6
  | .mesh _ _ => 7

/-- The content bits of a chain message. -/
def ChainMsg.content : ChainMsg → Nat
  | .start pos id => 1 + pos % 64 * 2 ^ 3 + id.toNat * 2 ^ 18
  | .end_ => 2
  | .ready => 3
  | .fail pos code check => 4 + pos % 64 * 2 ^ 3 + code % 16 * 2 ^ 9 + check % 32 * 2 ^ 13
  | .commit id => 5 + id.toNat * 2 ^ 18
  | .abort pos id => 6 + pos % 64 * 2 ^ 3 + id.toNat * 2 ^ 18
  | .done pos => 7 + pos % 64 * 2 ^ 3

/-- The content bits of one neighbour of a TOPO. -/
def nbrContent : Option (BitVec 64 × BitVec 3) → Nat
  | none => 0
  | some (sn, j) => sn.toNat + j.toNat * 2 ^ 64

/-- The content bits of a packet. -/
def Packet.content : Packet → Nat
  | .retry n => n % 2 ^ 24
  | .lanemap f sp sw => f % 16 + sp % 16 * 2 ^ 4 + sw % 2 ^ 16 * 2 ^ 8
  | .time seq tx es er => seq % 256 + tx.toNat * 2 ^ 8 + es % 256 * 2 ^ 72 + er.toNat * 2 ^ 80
  | .state off => bit off
  | .chain m => m.content
  | .ident k =>
    k.serial.toNat + k.cabId.toNat * 2 ^ 64 + k.bundle.toNat * 2 ^ 96 + bit k.locked * 2 ^ 99 + k.count.toNat * 2 ^ 100 +
      bit k.seen * 2 ^ 164
  | .topo t =>
    t.serial.toNat + t.version.toNat * 2 ^ 64 +
      (List.range 6).foldl (fun a b => a + nbrContent (t.nbrs.getD b none) * 2 ^ (80 + 67 * b)) 0
  | .mesh tag data => tag.toNat + data.toNat * 2 ^ 4

/-- Unit k of a packet, as a control unit of kind PKT (R302, R308). -/
def Packet.unit (p : Packet) (k : Nat) : Nat :=
  2 * 2 ^ 29 +
    (if k = 0 then 2 ^ 28 + p.code * 2 ^ 24 + fld p.content 23 0 else fld p.content (28 * k + 23) (28 * k - 4))

/-- The units of a packet type, 0 for a reserved one. -/
def ptypeUnits (t : Nat) : Nat :=
  match t with
  | 1 => 2
  | 2 => 6
  | 3 => 7
  | 4 => 18
  | 5 => 5
  | 6 | 7 | 8 => 1
  | _ => 0

/-- The content bits that a packet's units carry: their low 28 bits, the first one's without PTYPE. -/
def contentOf : List Nat → Nat
  | [] => 0
  | u :: r => fld u 23 0 + (r.zipIdx.foldl (fun a e => a + fld e.1 27 0 * 2 ^ (28 * e.2)) 0) * 2 ^ 24

/-- A chain message from its content bits; message 0 is none. -/
def ChainMsg.ofContent (c : Nat) : Option ChainMsg :=
  let pos := fld c 8 3
  let id := BitVec.ofNat 32 (fld c 49 18)
  match fld c 2 0 with
  | 1 => some (.start pos id)
  | 2 => some .end_
  | 3 => some .ready
  | 4 => some (.fail pos (fld c 12 9) (fld c 17 13))
  | 5 => some (.commit id)
  | 6 => some (.abort pos id)
  | 7 => some (.done pos)
  | _ => none

/-- A packet from its type and content bits, applied at a count; a reserved type is none. -/
def Packet.ofContent (t c at_ : Nat) : Option Packet :=
  match t with
  | 1 => (ChainMsg.ofContent c).map .chain
  | 2 => some (.time (fld c 7 0) (BitVec.ofNat 64 (fld c 71 8)) (fld c 79 72) (BitVec.ofNat 64 (fld c 143 80)))
  | 3 => some (.ident ⟨BitVec.ofNat 64 c, BitVec.ofNat 32 (fld c 95 64), BitVec.ofNat 3 (fld c 98 96), c.testBit 99,
      BitVec.ofNat 64 (fld c 163 100), c.testBit 164, BitVec.ofNat 64 at_⟩)
  | 4 => some (.topo ⟨BitVec.ofNat 64 c, BitVec.ofNat 16 (fld c 79 64), (List.range 6).map (fun b =>
      let n := fld c (67 * b + 146) (67 * b + 80)
      if n % 2 ^ 64 = 0 then none else some (BitVec.ofNat 64 n, BitVec.ofNat 3 (n / 2 ^ 64)))⟩)
  | 5 => some (.mesh (BitVec.ofNat 4 c) (BitVec.ofNat 128 (fld c 131 4)))
  | 6 => some (.retry (fld c 23 0))
  | 7 => some (.lanemap (fld c 3 0) (fld c 7 4) (fld c 23 8))
  | 8 => some (.state (c.testBit 0))
  | _ => none

/-! ### The unit of each step (R303, R310, R311) -/

/-- What a frame carries besides Dovetail slots: nothing, a vote unit, RESUME, a packet's unit, a DATA unit, 60 bytes of a
LOAD frame. -/
inductive Carry where
  | empty
  | vote (u : Nat)
  | resume (n : Nat)
  | unit (p : Packet) (k : Nat)
  | data (bs : List Nat)
  | load (bs : List Nat)
  deriving DecidableEq, Repr

/-- The numbered units that a choice sends. -/
def Carry.items : Carry → List TxItem
  | .unit p k => [.unit p k]
  | .data bs => [.bytes bs]
  | .load bs => (List.range 15).map (fun i => .bytes ((bs.drop (4 * i)).take 4))
  | _ => []

/-- The control unit (R302): bits [31:29] KIND, and the content of each kind; 0 for EMPTY, and for a LOAD frame, which has
none. -/
def Carry.ctl : Carry → Nat
  | .empty | .load _ => 0
  | .vote u => u
  | .resume n => 4 * 2 ^ 29 + n % 2 ^ 24
  | .unit p k => p.unit k
  | .data bs => 3 * 2 ^ 29 + bs.length % 4 * 2 ^ 24 + numLE bs % 2 ^ 24

/-- The units of a choice are numbered and kept, the last 65,536 of them (R310). -/
def BundleTx.sent (x : BundleTx) (c : Carry) : BundleTx :=
  { x with next := (x.next + c.items.length) % 2 ^ 24, kept := (c.items.reverse ++ x.kept).take 65536 }

/-- END waits for the bytes before it (R311). -/
def Packet.mayGo (x : BundleTx) (p : Packet) : Bool := p != .chain .end_ || x.data.isEmpty

/-- Of packets that wait, the first of the highest rank (R303). -/
def topPacket : List Packet → Option Packet
  | [] => none
  | p :: r =>
    match topPacket r with
    | some q => some (if q.rank < p.rank then q else p)
    | none => some p

/-- A START that has not been sent whole: the stream's bytes come after it (R231). -/
def Packet.isStart : Packet → Bool
  | .chain (.start _ _) => true
  | _ => false
def BundleTx.startWaits (x : BundleTx) : Bool :=
  x.queue.any Packet.isStart || (match x.cur with
    | some (p, _) => p.isStart
    | none => false)

/-- The bytes at the head of what is to be sent again, and what lies behind them. -/
def bytesRun : List TxItem → List Nat × List TxItem
  | .bytes bs :: r => (bs ++ (bytesRun r).1, (bytesRun r).2)
  | r => ([], r)

/-- A packet in the place of another, wherever a unit of that one is still to come. -/
def TxItem.swap (p q : Packet) : TxItem → TxItem
  | .unit x k => .unit (if x = p then q else x) k
  | i => i

/-- The next numbered unit to send again (R310): a packet's unit, or bytes packed afresh for the mode in force. `fresh` gives
a packet that leaves again. Bytes to send again do not share a LOAD frame with new ones: fewer than 60 travel as DATA units.
DESIGN CHOICE (log 45; unsafe). -/
def BundleTx.again (x : BundleTx) (load : Bool) (fresh : Packet → Packet) : Carry × BundleTx :=
  match x.resend with
  | .unit p k :: r =>
    let q := if k = 0 then fresh p else p
    let cur := x.cur.map (fun e => (if e.1 = p then q else e.1, e.2))
    (.unit q k, { x with resend := r.map (TxItem.swap p q), cur := cur })
  | l =>
    let bs := (bytesRun l).1
    let n := if load && decide (60 ≤ bs.length) then 60 else min 3 bs.length
    let rest := if bs.length = n then (bytesRun l).2 else .bytes (bs.drop n) :: (bytesRun l).2
    (if n = 60 then .load (bs.take n) else .data (bs.take n), { x with resend := rest })

/-- New content (R303, R311): a LOAD frame in load mode; the next unit of the packet begun; the packet of the highest rank;
bytes. `first` gives a packet as it leaves. -/
def BundleTx.new (x : BundleTx) (load : Bool) (first : Packet → Packet) : Carry × BundleTx :=
  if load && decide (60 ≤ x.data.length) && !x.startWaits then
    (.load (x.data.take 60), { x with data := x.data.drop 60 })
  else
    match x.cur with
    | some (p, k) => (.unit p k, { x with cur := if k + 1 < p.units then some (p, k + 1) else none })
    | none =>
      match topPacket (x.queue.filter (Packet.mayGo x)) with
      | some p =>
        let q := first p
        (.unit q 0, { x with queue := x.queue.erase p, cur := if 1 < q.units then some (q, 1) else none })
      | none =>
        if x.data.isEmpty || load && !x.queue.contains (.chain .end_) then (.empty, x)
        else (.data (x.data.take 3), { x with data := x.data.drop 3 })

/-- What the frame of a count carries (R303): a due vote unit, outside load mode; RESUME, whose number the first unit sent
again takes (R310); what is to be sent again; new content. -/
def BundleTx.pick (x : BundleTx) (load : Bool) (cnt : Nat) (first fresh : Packet → Packet) : Carry × BundleTx :=
  let y := { x with votes := x.votes.filter (fun v => decide (cnt < v.1)) }
  match if load then none else x.votes.find? (fun v => v.1 == cnt) with
  | some v => (.vote v.2, y)
  | none =>
    match x.resume with
    | some n => (.resume n, { y with resume := none, next := n })
    | none =>
      let (c, z) := if x.resend.isEmpty then y.new load first else y.again load fresh
      (c, z.sent c)

/-! ### The frame (R298, R299, R323) -/

/-- One information symbol into the four parity symbols, that of the highest power first: division by g(x), whose
coefficients below x^4 are 15, 54, 120 and 64. -/
def rsDivide (r : Nat × Nat × Nat × Nat) (m : Nat) : Nat × Nat × Nat × Nat :=
  let f := m ^^^ r.1
  (r.2.1 ^^^ gf9Mul f 15, r.2.2.1 ^^^ gf9Mul f 54, r.2.2.2 ^^^ gf9Mul f 120, gf9Mul f 64)

/-- A frame's 495 information bits with their parity. -/
def rsEncode (info : Nat) : Nat :=
  let r := (List.range 55).reverse.foldl (fun r i => rsDivide r (fld info (9 * i + 8) (9 * i))) (0, 0, 0, 0)
  info + r.2.2.2 * 2 ^ 495 + r.2.2.1 * 2 ^ 504 + r.2.1 * 2 ^ 513 + r.1 * 2 ^ 522

/-- The information bits of a frame (R298): in a row of an executing cycle the Dovetail slots with the cycle's CTAG and the
row, else a KIND and the count. -/
def frameInfo (row : Option (Nat × BitVec 448)) (ctag cnt : Nat) (c : Carry) : Nat :=
  match row, c with
  | some (h, v), _ => v.toNat + c.ctl * 2 ^ 448 + 2 ^ 480 + ctag * 2 ^ 481 + h % 4096 * 2 ^ 483
  | none, .load bs => numLE bs % 2 ^ 480 + 2 ^ 481 + cnt % 4096 * 2 ^ 483
  | none, _ => c.ctl * 2 ^ 448 + cnt % 4096 * 2 ^ 483

/-- Bit 0 of each of the first n information symbols inverted (R323). -/
def corruptFrame (raw n : Nat) : Nat := (List.range n).foldl (fun a i => a ^^^ 2 ^ (9 * i)) raw

/-! ### The stream and the lanes (R297, R306) -/

/-- The stream position of the first bit of the frame of a count: a pad bit follows every frame whose count is 3 modulo
4. -/
def streamPos (cnt : Nat) : Nat := 531 * cnt + cnt / 4

/-- The bits of a logical lane that a frame and the pad bit after it fill. -/
def logicalRun (cnt raw l : Nat) (k : Nat) : LaneRun :=
  let p0 := streamPos cnt
  let first := (p0 + 7 - l) / 8
  let n := (streamPos (cnt + 1) + 7 - l) / 8 - first
  ⟨k, first, n, (List.range n).foldl (fun a i => a + bit (raw.testBit (8 * (first + i) + l - p0)) * 2 ^ i) 0, []⟩

/-- The bit of a vote copy that the spare lane carries at a lane bit, where one does (R306). -/
def BundleTx.copyBit (x : BundleTx) (j : Nat) : Option Bool :=
  (x.spare.find? (fun e => decide (e.1 ≤ j) && decide (j < e.1 + 128))).map (fun e => e.2.getLsbD (j - e.1))

/-- The run of the spare lane beside a frame: vote copies in the place of PRBS31 bits, while the generator goes on (R306,
R322); its first PRBS bit inverted where an injection waits (R323). With the generator after it, and whether it sent an
inverted bit. -/
def spareRun (x : BundleTx) (inject : Bool) (cnt k : Nat) : LaneRun × Nat × Bool :=
  let first := streamPos cnt / 8
  let n := streamPos (cnt + 1) / 8 - first
  let (r, v) := prbsRun 2 n x.prbs
  let flip := if inject then (List.range n).find? (fun i => (x.copyBit (first + i)).isNone) else none
  let bits := (List.range n).foldl (fun a i =>
    a + 2 ^ i * bit ((x.copyBit (first + i)).getD (xor (r.testBit i) (flip == some i)))) 0
  (⟨k, first, n, bits, []⟩, v, flip.isSome)

/-! ### Symbols (R290, R291) -/

/-- The level of a symbol's two lane bits, the first the more significant. -/
def grayLevel : Bool → Bool → BitVec 2
  | false, false => 0
  | false, true => 1
  | true, true => 2
  | true, false => 3

/-- How an end of a lane codes: PRECODE_TX and TX_INV of the entry in use, or PRECODE_RX and RX_INV (R294). -/
structure LaneCoding where
  precode : Bool
  inv : Bool
  deriving DecidableEq, Repr

/-- The level that follows P(i-1) for a Gray value: G(i) - P(i-1) modulo 4 where the lane precodes. -/
def LaneCoding.next (c : LaneCoding) (prev g : BitVec 2) : BitVec 2 := if c.precode then g - prev else g

/-- The level at the pads: an inverted pair shows the amplitudes in the opposite order.
DEDUCED (log 45; unsafe). -/
def LaneCoding.atPads (c : LaneCoding) (p : BitVec 2) : BitVec 2 := if c.inv then 3 - p else p

/-- What a receiver recovers from the level at its pads and the one before it: P(i), turned where the pair is inverted; and
from it G(i) = P(i) + P(i-1) modulo 4 where the entry says that the lane precodes (R291). -/
def LaneCoding.recover (c : LaneCoding) (prev pads : BitVec 2) : BitVec 2 :=
  let p := c.atPads pads
  if c.precode then p + prev else p

/-- The levels of the symbols that n lane bits from number j on complete, and what the coder keeps. -/
def LaneCoding.run (c : LaneCoding) : Nat → Nat → Nat → LaneSym → List (BitVec 2) × LaneSym
  | 0, _, _, y => ([], y)
  | n + 1, j, bits, y =>
    if j % 2 = 0 then c.run n (j + 1) (bits / 2) { y with half := bits.testBit 0 }
    else
      let p := c.next y.prev (grayLevel y.half (bits.testBit 0))
      let (r, z) := c.run n (j + 1) (bits / 2) { y with prev := p }
      (c.atPads p :: r, z)

/-- The coder of a lane that has sent nothing since training began: P(-1) is 0. -/
def LaneSym.start : LaneSym := ⟨0, false⟩

/-- The coding of a lane of a bundle, from its LN_EQ (R292). -/
def State.laneCoding (s : State) (b k : Nat) : LaneCoding :=
  let e := s.reg64 (lnPg b k) 0x4c
  ⟨e.testBit 48, e.testBit 50⟩

/-- How the receiver of a lane decodes, from its LN_EQ. -/
def State.laneDecoding (s : State) (b k : Nat) : LaneCoding :=
  let e := s.reg64 (lnPg b k) 0x4c
  ⟨e.testBit 49, e.testBit 51⟩

/-- Runs with their symbols, and the coders after them. -/
def codeRuns (coding : Nat → LaneCoding) : List LaneRun → Tab LaneSym → List LaneRun × Tab LaneSym
  | [], y => ([], y)
  | r :: rest, y =>
    let (l, z) := (coding r.lane).run r.n r.first r.bits (Tab.get (fun _ => .start) y r.lane)
    let (rs, y') := codeRuns coding rest (Tab.set (fun _ => .start) y r.lane z)
    ({ r with levels := l } :: rs, y')

/-- The coders of a bundle's nine lanes after what went out an untold number of times: free values. -/
def codersAfter (v : BitVec 27) : Tab LaneSym :=
  (List.range 9).foldl (fun y k =>
    Tab.set (fun _ => .start) y k ⟨BitVec.ofNat 2 (v.toNat / 2 ^ (3 * k)), v.getLsbD (3 * k + 2)⟩) []

/-- The transmit role and logical number of a lane (LN_STS). -/
def State.txRole (s : State) (b k : Nat) : Nat := s.f (lnPg b k) 0x44 7 6
def State.txLogical (s : State) (b k : Nat) : Nat := s.f (lnPg b k) 0x44 11 8

/-- The spare lane of the transmit direction, where it has one that is not in use. -/
def State.txSpare (s : State) (b : Nat) : Option Nat :=
  let k := s.f (bndPg b) 0x44 19 16
  if k < 9 ∧ s.f (bndPg b) 0x44 7 7 = 0 then some k else none

/-! ### Sending -/

/-- A time stamp of Gauge 0: a resolution of 4,096 Gauge units (R315). -/
def State.timeStamp (s : State) : BitVec 64 := BitVec.ofNat 64 (s.gval 0 / 4096 * 4096)

/-- A packet as its first unit leaves in the frame of a count: a TIME takes the next SEQ, the time and the echo, an IDENT the
count (R308, R315); and as it leaves again, with a fresh time or count (R310). -/
def State.leave (s : State) (b cnt : Nat) : Packet → Packet
  | .time _ _ _ _ =>
    .time ((s.f (bndPg b) 0x100 7 0 + 1) % 256) s.timeStamp (s.bundle b).timeRx.1 (s.bundle b).timeRx.2
  | .ident k => .ident { k with count := BitVec.ofNat 64 cnt }
  | p => p
def State.leaveAgain (s : State) (cnt : Nat) : Packet → Packet
  | .time seq _ es er => .time seq s.timeStamp es er
  | .ident k => .ident { k with count := BitVec.ofNat 64 cnt }
  | p => p

/-- The first unit of a TIME shows its SEQ and transmit time in the BND_TS_ registers (R315, R329). -/
def showSent (s : State) (b : Nat) : Carry → State
  | .unit (.time seq t _ _) 0 => (s.setF (bndPg b) 0x100 7 0 seq).setReg64 (bndPg b) 0xe0 t.toNat
  | _ => s

/-- A STATE that leaves in the frame of a count is applied by the partner 32 steps later (R300, R309). -/
def tellState (s : State) (b cnt : Nat) : Carry → State
  | .unit (.state off) _ => s.setBundle b { s.bundle b with told := ((cnt + 32, off) :: (s.bundle b).told).take 64 }
  | _ => s

/-- The row of an executing cycle that a count is, with the slots that the bundle sends in it (R134, R298). -/
def State.sentRow (s : State) (b cnt : Nat) : Option (Nat × BitVec 448) :=
  if s.executing && decide (s.cyc.t0 ≤ cnt) && decide (cnt - s.cyc.t0 < s.nLen) then
    some (cnt - s.cyc.t0, Tab.get (zeroAt 448) s.fab.bsent (b * 4096 + (cnt - s.cyc.t0)))
  else none

/-- The runs of the lanes for a frame; the spare lane's with what it leaves of the bundle. -/
def State.activeRuns (s : State) (b cnt raw : Nat) : List LaneRun :=
  ((List.range 9).filter (fun k => s.txRole b k == 0)).map (fun k => logicalRun cnt raw (s.txLogical b k) k)
def State.spareRuns (s : State) (b cnt : Nat) (x : Bundle) : List LaneRun × Bundle :=
  match s.txSpare b with
  | some k =>
    let inject := 0 < Tab.get (fun _ => 0) x.inj k
    let (r, v, used) := spareRun x.tx inject cnt k
    let spare := x.tx.spare.filter (fun e => decide (streamPos (cnt + 1) / 8 < e.1 + 128))
    ([r], { x with tx := { x.tx with prbs := v, spare := spare },
                   inj := if used then Tab.set (fun _ => 0) x.inj k (Tab.get (fun _ => 0) x.inj k - 1) else x.inj })
  | none => ([], x)

/-- A bundle sends the frame of a count (R296). -/
def sendFrame (s : State) (cnt b : Nat) : State :=
  let x := s.bundle b
  let (c, tx) := x.tx.pick (s.loadMode b) cnt (s.leave b cnt) (s.leaveAgain cnt)
  let raw := corruptFrame (rsEncode (frameInfo (s.sentRow b cnt) (s.execCycle % 4) cnt c)) (x.tx.corrupt.getD 0)
  let (spare, y) := s.spareRuns b cnt { x with tx := { tx with corrupt := none } }
  let (runs, syms) := codeRuns (s.laneCoding b) (s.activeRuns b cnt raw ++ spare) y.syms
  (tellState (showSent (s.setBundle b { y with syms := syms }) b c) b cnt c).send (.frame b cnt (BitVec.ofNat 531 raw) runs)

/-- The bundles that send frames: in ALIGN, IDENT or UP (R296). -/
def State.framing (s : State) : List Nat :=
  (List.range 6).filter (fun b => decide (bsAlign ≤ s.bst b) && decide (s.bst b ≤ bsUp))

/-- The frames of n steps from a count on. -/
def sendFrames : Nat → Nat → State → State
  | 0, _, s => s
  | n + 1, cnt, s => sendFrames n (cnt + 1) (s.framing.foldl (fun s b => sendFrame s cnt b) s)

/-- The frames of the steps from the count in hand up to a later one. -/
def sendUntil (s : State) (c : Nat) : State := if s.framing.isEmpty then s else sendFrames (c - s.cyc.csc) s.cyc.csc s

end Sys2Proof.Machine
end

