-- ==== Sys2Proof/Machine/Count.lean ====
section
/-! DEFINITION. The Cabinet step count (R314) and what comes with it: the Clamp causes that are live (R147, R156), and the
Cabinet votes that are held as their steps are reached (R148, R158). -/
namespace Sys2Proof.Machine

/-- The CYC_ and CLP_ pages. -/
def cycPg : PageId := ⟨.cyc, 0⟩
def clpPg : PageId := ⟨.clp, 0⟩

/-- Bits of the Clamp causes (R156). -/
def cMqLate : BitVec 8 := 1
def cReplay : BitVec 8 := 2
def cThrottle : BitVec 8 := 4
def cHostHold : BitVec 8 := 8
def cTrigStop : BitVec 8 := 16
def cStopif : BitVec 8 := 32
def cPace : BitVec 8 := 64
def cFault : BitVec 8 := 128

/-- A cause where it is live. -/
def when_ (b : Bool) (c : BitVec 8) : BitVec 8 := if b then c else 0

/-- REPLAY is live on this device (R156, R326): from a poisoning event, from a lane failure that no vote has carried yet,
or from a failover in hand. -/
def State.replayLive (s : State) : Bool :=
  s.cyc.replay || s.cyc.lane.isSome || s.bundles.any (fun e => match e.2.fail with
    | some f => f.replay
    | none => false)

/-- The causes live on this device now that wait for no next execution (R156). -/
def State.standing (s : State) : BitVec 8 :=
  when_ s.replayLive cReplay |||
  when_ (s.f (pg .pwr) 0x44 9 8 != 0) cThrottle |||
  when_ (s.f clpPg 0x48 0 0 == 1 || !s.cycOn) cHostHold |||
  when_ s.cyc.trigStop cTrigStop |||
  when_ (s.cyc.stopif || s.cyc.stopAt.any (fun t => decide (t < s.step))) cStopif |||
  when_ s.cyc.fault cFault

/-- The release point that a round stands for once its hold has ended: none (release points are 64 at least). -/
def relOver : Nat := 1

/-- A Cabinet vote is held: every cause in it shows in CLP_CAUSE (R158). -/
def holdVote (s : State) (v : BitVec 8) : State :=
  let s := s.withCyc { s.cyc with cabinet := v }
  s.setReg clpPg 0x4c (s.reg clpPg 0x4c ||| BitVec.ofNat 32 v.toNat)

/-- The count has reached the step at which the Cabinet vote of a release round is held, V + CLP_PROP - 16 (R148). -/
def State.voteKnown (s : State) (r : Round) : Bool :=
  r.rel != 0 && !r.held && decide (r.v + s.prop ≤ s.cyc.csc + 16)

/-- The Cabinet votes that are known at the count are held (R148). A round whose hold has ended is then over. -/
def holdDue (s : State) : State :=
  let t := (s.cyc.rounds.filter s.voteKnown).foldl (fun t r => holdVote t r.heard) s
  t.withCyc { t.cyc with rounds := s.cyc.rounds.filterMap (fun r =>
    if s.voteKnown r then (if r.rel = relOver then none else some { r with held := true }) else some r) }

/-- The Cabinet step count takes a value: the causes live then are those that a vote at this step can carry (R147). -/
def setCount (s : State) (c : Nat) : State :=
  let s := s.withCyc { s.cyc with csc := c }
  s.withCyc { s.cyc with carried := s.standing }

/-- The Cabinet step count moves on to a value (R314): the bundles send the frames of the steps that end (R296). -/
def passSteps (s : State) (c : Nat) : State := if c ≤ s.cyc.csc then s else setCount (sendUntil s c) c

/-- The same, with the Cabinet votes that are known by then held. -/
def moveCount (s : State) (c : Nat) : State := if c ≤ s.cyc.csc then s else holdDue (passSteps s c)

/-- The least multiple of 64 that is at least n. -/
def ceil64 (n : Nat) : Nat := (n + 63) / 64 * 64

end Sys2Proof.Machine
end

