-- ==== Sys2Proof/Machine/Operands.lean ====
section
/-! DEFINITION. The operand forms of the Dowel instruction word (R61-R66, R81) and of a memory queue's descriptor and
record (R275, R276). -/
namespace Sys2Proof.Machine

/-- The fields of an instruction word (R61). -/
def wOp (w : BitVec 80) : Nat := fld w.toNat 79 76
def wKeep (w : BitVec 80) : Bool := w.getLsbD 75
def wInv (w : BitVec 80) : Bool := w.getLsbD 74
def wTt (w : BitVec 80) : Nat := fld w.toNat 73 58
def wOpd (w : BitVec 80) : Nat := fld w.toNat 55 42
def wOpc (w : BitVec 80) : Nat := fld w.toNat 41 28
def wOpb (w : BitVec 80) : Nat := fld w.toNat 27 14
def wOpa (w : BitVec 80) : Nat := fld w.toNat 13 0

/-- The K indices of R64 that are not reserved. -/
def kValid (i : Nat) : Bool :=
  decide (i ≤ 1) || (decide (16 ≤ i) && decide (i ≤ 31)) || (decide (64 ≤ i) && decide (i ≤ 191)) ||
    (decide (256 ≤ i) && decide (i ≤ 383))

/-- An operand names a reserved index of its space (R63, R66). -/
def reservedIndex (x : Nat) : Bool :=
  let i := x % 4096
  match x / 4096 with
  | 0 => false
  | 1 => decide (64 ≤ i)
  | 2 => decide (32 ≤ i)
  | _ => !kValid i

/-- What reading one operand gives (R66, R71, R103): the bit, whether the index is reserved, and the row whose parity
was found bad. -/
structure OperandRead where
  val : Bool
  rsvd : Bool
  badRow : Option Nat
  deriving DecidableEq, Repr

/-- The ingress stage of a die: 2 steps, or 4 while DVT_MODE.FWD is 1 (R118, R210). -/
def State.ingressLat (s : State) (die : Nat) : Nat := if s.f (dvtPg die) 0x40 0 0 = 1 then 4 else 2

/-- A D-space read (R70): ingress slot i of the Panel at a step. -/
def State.dSpace (s : State) (die panel step i : Nat) : Bool :=
  match s.lpanel die panel with
  | none => false
  | some q =>
    let l := s.ingressLat die
    if step < l then false
    else (Tab.get (zeroAt 4096) s.fab.ingress (die * 4096 + (step - l))).getLsbD (32 * q + i)

/-- Panel RAM read data as it shows at a step (R84): the newest word that has appeared. -/
def Panel.readData (x : Panel) (step : Nat) : BitVec 64 :=
  match x.rdata.find? (fun e => decide (e.1 ≤ step)) with
  | some e => e.2
  | none => 0

/-- The memory response window of a Panel (R279): bit k of the chunk that its window map entry names. -/
def State.mqWindow (s : State) (die panel k : Nat) : Bool :=
  match s.lpanel die panel with
  | none => false
  | some q =>
    let e := (Tab.get (zeroAt 16) s.winMap (die * 128 + q)).toNat
    if fld e 15 15 = 0 then false
    else
      let qu := Tab.get (fun _ => (⟨[], [], [], none, false⟩ : Queue)) s.queues (die * 16 + fld e 12 9)
      match qu.window with
      | none => false
      | some (data, status) =>
        if fld e 4 0 = 16 then decide (k < 16) && status.getLsbD k
        else data.getLsbD (64 * fld e 4 0 + k)

/-- A K-space read (R64). -/
def State.kSpace (s : State) (die panel step i : Nat) : Bool :=
  if i = 0 then false
  else if i = 1 then true
  else if i < 32 then s.cyc.gauLatch.getLsbD (i - 16)
  else if i < 128 then s.mqWindow die panel (i - 64)
  else if i < 192 then ((s.panel die panel).readData step).getLsbD (i - 128)
  else
    match s.lpanel die panel with
    | none => false
    | some q => (Tab.get (zeroAt 128) s.pinWin (die * 128 + q)).getLsbD (i - 256)

/-- Reading one operand of a Dowel at a step (R71, R103). -/
def readOperand (s : State) (die panel dowel step x : Nat) : OperandRead :=
  let i := x % 4096
  if reservedIndex x then ⟨false, true, none⟩
  else
    let p := s.panel die panel
    match x / 4096 with
    | 0 =>
      let row := dowel * 64 + i / 64
      ⟨Tab.get (fun _ => false) p.vs (dowel * 4096 + i), false,
        if Tab.get (fun _ => false) p.vsBad row then some (i / 64) else none⟩
    | 1 => ⟨if step = 0 then false else (Tab.get (zeroAt 64) p.res (step - 1)).getLsbD i, false, none⟩
    | 2 => ⟨s.dSpace die panel step i, false, none⟩
    | _ => ⟨s.kSpace die panel step i, false, none⟩

/-- The bit of the Panel's contribution registers that a selector of PRD, PWR, PROBE, PINO or TRIGB names (R81), as a
number: RA 0 to 9, WA 16 to 25, WD 64 to 127, WP 128 to 191, probe 256 to 263, trigger 264 to 271, pin data 512 to
639, pin enable 640 to 767. -/
def selBit (op sel : Nat) : Option Nat :=
  let sp := sel / 4096
  let i := sel % 4096
  match op with
  | 3 => if sp = 0 ∧ i < 10 then some i else none
  | 4 =>
    if sp = 0 ∧ i < 10 then some (16 + i)
    else if sp = 1 ∧ i < 64 then some (64 + i)
    else if sp = 3 ∧ i < 64 then some (128 + i)
    else none
  | 6 => if sp = 0 ∧ i < 8 then some (256 + i) else none
  | 7 => if sp = 0 ∧ i < 256 then some (512 + i) else none
  | 9 => if sp = 0 ∧ i < 8 then some (264 + i) else none
  | _ => none

/-- A selector of PRD (op 3) or PWR (op 4) that names a strobe (R81). -/
def selStrobe (op sel : Nat) : Bool :=
  (op == 3 && sel == 4096) || (op == 4 && sel == 8192)

/-- A selector that no row of the selector table has (R81). -/
def selReserved (op sel : Nat) : Bool :=
  match op with
  | 5 => false
  | 8 => decide (256 ≤ sel)
  | _ => !selStrobe op sel && (selBit op sel).isNone

/-- The value of n contribution bits from one bit number (R82). -/
def conBits (t : Tab (Nat × Bool)) (lo n : Nat) : Nat :=
  (List.range n).foldl (fun acc i => if (Tab.get (fun _ => (4096, false)) t (lo + i)).2 then acc + 2 ^ i else acc) 0

/-- A contribution to one bit at a step (R82): the first of a step replaces the value, later ones of the same step
are ORed. -/
def conSet (t : Tab (Nat × Bool)) (k step : Nat) (r : Bool) : Tab (Nat × Bool) :=
  let o := Tab.get (fun _ => (4096, false)) t k
  Tab.set (fun _ => (4096, false)) t k (if o.1 = step then (step, o.2 || r) else (step, r))

/-- A queue's descriptor as MQ_CFG and MQ_WIN_BASE hold it (R275, R286). -/
structure QDesc where
  en : Bool
  lq : Nat
  width : Nat
  acc : Nat
  be : Bool
  winLog : Nat
  base : Nat
  deriving DecidableEq, Repr

/-- Decode the first word of a descriptor; `base` is WIN_BASE. -/
def qDescOf (w base : Nat) : QDesc :=
  ⟨fld w 0 0 == 1, fld w 3 1 + 1, 64 * 2 ^ fld w 5 4, fld w 8 6 + 1, fld w 9 9 == 1, fld w 21 16, base⟩

/-- The committed descriptor of a queue. -/
def State.qDesc (s : State) (die q : Nat) : QDesc :=
  qDescOf (s.reg (mqPg die q) 0x40).toNat (s.reg64 (mqPg die q) 0x44)

/-- Bytes of an access: W / 8. -/
def QDesc.wBytes (d : QDesc) : Nat := d.width / 8

/-- ABITS of R276. -/
def QDesc.aBits (d : QDesc) : Nat := d.winLog - Nat.log2 d.wBytes

/-- The bits of one access, E, and of a record (R276). -/
def QDesc.eBits (d : QDesc) : Nat := 2 + d.aBits + d.width + (if d.be then d.wBytes else 0)
def QDesc.recBits (d : QDesc) : Nat := d.acc * d.eBits

/-- One access of a record (R276). -/
structure QAccess where
  re : Bool
  we : Bool
  addr : Nat
  wdata : Nat
  be : Nat
  deriving DecidableEq, Repr

/-- Access i of a record. -/
def QDesc.access (d : QDesc) (bits : Tab (Nat × Bool)) (i : Nat) : QAccess :=
  let o := d.eBits * i
  ⟨conBits bits o 1 == 1, conBits bits (o + 1) 1 == 1,
    d.base + conBits bits (o + 2) d.aBits * d.wBytes,
    conBits bits (o + d.aBits + 2) d.width,
    if d.be then conBits bits (o + d.aBits + d.width + 2) d.wBytes else 2 ^ d.wBytes - 1⟩

/-- A queue's state. -/
def Queue.empty : Queue := ⟨[], [], [], none, false⟩

/-- The state of a queue of a die. -/
def State.queue (s : State) (die q : Nat) : Queue := Tab.get (fun _ => Queue.empty) s.queues (die * 16 + q)

/-- Replace a queue's state. -/
def State.setQueue (s : State) (die q : Nat) (x : Queue) : State :=
  s.withQueues (Tab.set (fun _ => Queue.empty) s.queues (die * 16 + q) x)

end Sys2Proof.Machine
end

