-- ==== Sys2Proof/Machine/Dowel.lean ====
section
/-! DEFINITION. The Dowel instruction set: executing one word of one Dowel at one step (R57-R107), and the Panel RAM
ports. -/
namespace Sys2Proof.Machine

/-- The word of a Panel RAM address for a strobe, with its check (R111): the data, and the state with what the check
records.
DESIGN CHOICE (log 14; unsafe). DEDUCED (log 17; safe). -/
def ramChecked (s : State) (die panel addr step : Nat) : BitVec 64 × State :=
  let p := s.panel die panel
  let data := Tab.get (zeroAt 64) p.ram addr
  match Tab.get (fun _ => EccClass.clean) p.ramErr addr with
  | .clean => (data, s)
  | .corrected => (data, (raise s (pnlPg die panel) 16 (addr * 2 ^ 12 + step)).bump (pnlPg die panel) 0x44 15 0)
  | .uncorrectable => (data, raiseFault (raise s (pnlPg die panel) 17 (addr * 2 ^ 12 + step)) 6 die 0)

/-- The end of a step for a Panel with a read strobe (R84, R87): the buffer's word, or the array's. -/
def readStrobe (s : State) (die panel step : Nat) : State :=
  let p := s.panel die panel
  let addr := conBits p.con 0 10
  match p.wbuf.find? (fun e => e.1 == addr) with
  | some e => s.setPanel die panel { p with rdata := (step + 2, e.2) :: p.rdata }
  | none =>
    let (data, s) := ramChecked s die panel addr step
    s.setPanel die panel { s.panel die panel with rdata := (step + 2, data) :: p.rdata }

/-- Put a word into the write buffer: an address in it is updated, another is appended (R87). -/
def wbufPut (b : List (Nat × BitVec 64)) (addr : Nat) (v : BitVec 64) : List (Nat × BitVec 64) :=
  if b.any (fun e => e.1 == addr) then b.map (fun e => if e.1 = addr then (addr, v) else e) else b ++ [(addr, v)]

/-- The end of a step for a Panel with a write strobe (R86, R87, R112). -/
def writeStrobe (s : State) (die panel step : Nat) : State :=
  let p := s.panel die panel
  let addr := conBits p.con 16 10
  let wd := BitVec.ofNat 64 (conBits p.con 64 64)
  let wp := BitVec.ofNat 64 (conBits p.con 128 64)
  let (old, s) :=
    match p.wbuf.find? (fun e => e.1 == addr) with
    | some e => (e.2, s)
    | none => ramChecked s die panel addr step
  s.setPanel die panel
    { s.panel die panel with wbuf := wbufPut p.wbuf addr ((old &&& wp) ||| (wd &&& ~~~wp)) }

/-- The end of the step in hand for one Panel: its strobes, the read before the write (R87).
DEDUCED (log 17; safe). -/
def endStep (s : State) (die panel : Nat) : State :=
  let p := s.panel die panel
  let s := s.setPanel die panel { p with strobes := [] }
  let s :=
    match p.strobes.find? (fun e => !e.2) with
    | some e => readStrobe s die panel e.1
    | none => s
  match p.strobes.find? (fun e => e.2) with
  | some e => writeStrobe s die panel e.1
  | none => s

/-- The execution's time moves to a step: the steps before it end.
DESIGN CHOICE (log 10; safe). -/
def passTo (s : State) (t : Nat) : State :=
  if t ≤ s.step then s
  else
    let s := s.panels.foldl (fun s e => if e.2.strobes = [] then s else endStep s (e.1 / 132) (e.1 % 132)) s
    passSteps s (s.cyc.t0 + t)

/-- The same, with the Cabinet votes that are known by then held. -/
def moveStep (s : State) (t : Nat) : State := if t ≤ s.step then s else holdDue (passTo s t)

/-- The word that a Dowel fetches at a step, and its error class (R101, R102).
DESIGN CHOICE (log 14; unsafe). -/
def fetchWord (p : Panel) (dowel step : Nat) : BitVec 80 × EccClass :=
  (Tab.get (zeroAt 80) p.is (dowel * 4096 + step), Tab.get (fun _ => EccClass.clean) p.isErr (dowel * 4096 + step))

/-- The opcode that a Dowel executes at a step: an uncorrectable word executes as NOP (R102). -/
def opOf (p : Panel) (dowel step : Nat) : Nat :=
  match fetchWord p dowel step with
  | (_, .uncorrectable) => 0
  | (w, _) => wOp w

/-- The majority of three bits (R78). -/
def maj (a b c : Bool) : Bool := (a && b) || (a && c) || (b && c)

/-- A Dowel is a chain head at a step (R77). -/
def chainHead (p : Panel) (k step : Nat) : Bool := k % 16 == 0 || opOf p (k - 1) step != 2

/-- The carry-out of Dowel k at a step (R78): recorded once it has executed, and otherwise found from its operands.
`n` counts the Dowels of the carry group below.
DEDUCED (log 16; unsafe). -/
def carryOut (s : State) (die panel step : Nat) (n k : Nat) : Bool :=
  let p := s.panel die panel
  if (Tab.get (zeroAt 64) p.done step).getLsbD k then (Tab.get (zeroAt 64) p.cout step).getLsbD k
  else
    let w := (fetchWord p k step).1
    let a := (readOperand s die panel k step (wOpa w)).val
    let b := (readOperand s die panel k step (wOpb w)).val
    match n with
    | 0 => maj a b (readOperand s die panel k step (wOpd w)).val
    | n + 1 =>
      if chainHead p k step then maj a b (readOperand s die panel k step (wOpd w)).val
      else maj a b (carryOut s die panel step n (k - 1))

/-- The carry-in or operand d of an EVALC Dowel (R77).
DEDUCED (log 16; unsafe). -/
def carryIn (s : State) (die panel k step x : Nat) : OperandRead :=
  if chainHead (s.panel die panel) k step then readOperand s die panel k step x
  else ⟨carryOut s die panel step (k % 16 - 1) (k - 1), false, none⟩

/-- Capture INFO of a Dowel event (R107): top field, Dowel, step. -/
def dowelInfo (top k step : Nat) : Nat := top * 2 ^ 18 + k * 2 ^ 12 + step

/-- The error events of a word, in the order of R43 and R107: reserved indices by operand, the reserved selector, the
corrected fetch, bad rows. -/
def operandEvents (k step : Nat) (rs : List (Nat × OperandRead)) (badSel ce : Bool) : List (Nat × Nat) :=
  (rs.filter (fun e => e.2.rsvd)).map (fun e => (9, dowelInfo e.1 k step)) ++
    (if badSel then [(9, dowelInfo 3 k step)] else []) ++
    (if ce then [(10, dowelInfo 0 k step)] else []) ++
    rs.filterMap (fun e => e.2.badRow.map (fun row => (12, dowelInfo row k step)))

/-- The end of a Dowel's step (R67, R72): its result on the Panel bus and, where `write`, in its Value Store slot. A bad
row stays bad (R60); a write that changes the slot counts as a toggle (R116). -/
def endOfStep (s : State) (die panel k step : Nat) (r write cout : Bool) : State :=
  let p := s.panel die panel
  let put := fun (t : Tab (BitVec 64)) (b : Bool) =>
    Tab.set (zeroAt 64) t step (Tab.get (zeroAt 64) t step ||| (if b then BitVec.ofNat 64 (2 ^ k) else 0))
  let old := Tab.get (fun _ => false) p.vs (k * 4096 + step)
  s.setPanel die panel
    { p with
      res := put p.res r
      done := put p.done true
      cout := put p.cout cout
      vs := if write then Tab.set (fun _ => false) p.vs (k * 4096 + step) r else p.vs
      toggles := if write && r != old then p.toggles + 1 else p.toggles }

/-- MEMQ's contribution (R90, R281): the request bit of the queue's record, or BIT_RANGE. -/
def contributeMemq (s : State) (die step sel : Nat) (r : Bool) : State :=
  let q := sel / 1024
  let b := sel % 1024
  let d := s.qDesc die q
  if d.en && decide (b < d.recBits) then
    let x := s.queue die q
    s.setQueue die q { x with bits := conSet x.bits b step r }
  else raise s (mqPg die q) 8 (b / 4 * 2 ^ 16 + b % 4 * 2 ^ 12 + step)

/-- STOPIF's contribution (R93, R113): the stop request arrives at the end of step s + 7. -/
def contributeStop (s : State) (die panel step code : Nat) (r : Bool) : State :=
  if r then
    let p := s.panel die panel
    let s := s.setPanel die panel { p with stopReq := true, stopCode := p.stopCode ||| BitVec.ofNat 8 code }
    s.withCyc { s.cyc with stopAt := (step + 7) :: s.cyc.stopAt }
  else s

/-- What an opcode from PRD to TRIGB delivers (R81-R93); a contribution to a reserved selector is dropped. -/
def contribute (s : State) (die panel step op sel : Nat) (r : Bool) : State :=
  if selReserved op sel then s
  else if op = 5 then contributeMemq s die step sel r
  else if op = 8 then contributeStop s die panel step sel r
  else
    let p := s.panel die panel
    if selStrobe op sel then
      if r then s.setPanel die panel { p with strobes := p.strobes ++ [(step, op == 4)] } else s
    else
      match selBit op sel with
      | some b => s.setPanel die panel { p with con := conSet p.con b step r }
      | none => s

/-- The result of a word of opcode 1 to 9 from its operands (R71, R73). -/
def lookup (w : BitVec 80) (a b c d : Bool) : Bool :=
  xor ((wTt w).testBit (bit a + 2 * bit b + 4 * bit c + 8 * bit d)) (wInv w)

/-- Executing a word of opcode 1 to 9 (R71, R76, R77, R80); `ce` says that its fetch corrected an error (R101). -/
def runWord (s : State) (die panel k step : Nat) (w : BitVec 80) (ce : Bool) : State :=
  let op := wOp w
  let a := readOperand s die panel k step (wOpa w)
  let b := readOperand s die panel k step (wOpb w)
  let c := readOperand s die panel k step (wOpc w)
  let d : OperandRead :=
    if op = 1 then readOperand s die panel k step (wOpd w)
    else if op = 2 then carryIn s die panel k step (wOpd w)
    else ⟨false, false, none⟩
  let r := lookup w a.val b.val c.val d.val
  let reads := [(0, a), (1, b), (2, c), (3, d)]
  let cout := op == 2 && maj a.val b.val d.val
  let s1 := raiseAll s (pnlPg die panel) (operandEvents k step reads (decide (3 ≤ op) && selReserved op (wOpd w)) ce)
  let s2 := (reads.filter (fun e => e.2.badRow.isSome)).foldl (fun s _ => raiseReplay s 3 die 0) s1
  let s3 := if 3 ≤ op then contribute s2 die panel step op (wOpd w) r else s2
  endOfStep s3 die panel k step r (!wKeep w) cout

/-- A Dowel may execute at a step now (R57): the execution runs, the step is an instruction step not yet past, the
Panel is bound and ON, and the Dowel has not executed at it.
DEDUCED (log 16; unsafe). -/
def dowelDue (s : State) (d : DowelAt) : Bool :=
  s.executing && decide (d.step < s.nLen) && decide (s.step ≤ d.step) && decide (d.die < 4) &&
    decide (d.panel < 132) && decide (d.dowel < 64) && s.on (pnlPg d.die d.panel) &&
    (s.lpanel d.die d.panel).isSome && !(Tab.get (zeroAt 64) (s.panel d.die d.panel).done d.step).getLsbD d.dowel

/-- One Dowel executes its word, when the word stored there has one of the row's opcodes (R71, R101, R102).
DEDUCED (log 16; unsafe). -/
def execDowel (s : State) (d : DowelAt) (ops : Nat → Bool) : State :=
  if dowelDue s d then
    let (w, cls) := fetchWord (s.panel d.die d.panel) d.dowel d.step
    if ops (wOp w) then
      let s := moveStep s d.step
      match cls with
      | .uncorrectable =>
        let s := raise s (pnlPg d.die d.panel) 11 (dowelInfo 0 d.dowel d.step)
        let s := raiseFault (markPanel s d.die d.panel 2) 4 d.die 0
        endOfStep s d.die d.panel d.dowel d.step false false false
      | _ =>
        let ce := cls == .corrected
        let ceEv := if ce then [(10, dowelInfo 0 d.dowel d.step)] else []
        let pn := pnlPg d.die d.panel
        let s :=
          if wOp w = 0 then endOfStep (raiseAll s pn ceEv) d.die d.panel d.dowel d.step false false false
          else if 10 ≤ wOp w then
            endOfStep (raiseAll s pn ((8, dowelInfo 0 d.dowel d.step) :: ceEv))
              d.die d.panel d.dowel d.step false (!wKeep w) false
          else runWord s d.die d.panel d.dowel d.step w ce
        if ce then countCe s d.die d.panel else s
    else s
  else s

end Sys2Proof.Machine
end

