-- ==== Sys2Proof/Machine/Fabric.lean ====
section
/-! DEFINITION. The Panel's background work and the Dovetail fabric: scrubbing (R138), export records (R115), crossbar
and bundle slot map rows (R124, R134), die-link frames, lanes and training (R127-R133, R142). -/
namespace Sys2Proof.Machine

/-- The Dowels of a Panel whose scrubbed word has an error class. -/
def scrubHits (p : Panel) (word : Nat) (c : EccClass) : List Nat :=
  (List.range 64).filter (fun k => Tab.get (fun _ => EccClass.clean) p.isErr (k * 4096 + word) == c)

/-- One scrubber read of every Dowel of a Panel (R138): corrected words are rewritten, and the first uncorrectable
finding marks the Panel.
DESIGN CHOICE (log 14; unsafe). -/
def scrubPanel (s : State) (die panel : Nat) : State :=
  let p := s.panel die panel
  let w := p.scrubPos
  let ces := scrubHits p w .corrected
  let ues := scrubHits p w .uncorrectable
  let fixed := ces.foldl (fun t k => Tab.set (fun _ => EccClass.clean) t (k * 4096 + w) EccClass.clean) p.isErr
  let s := s.setPanel die panel
    { p with isErr := fixed, scrubPos := (w + 1) % 4096, scrubFound := p.scrubFound || !ues.isEmpty }
  let s := raiseAll s (pnlPg die panel) (ces.map (fun k => (18, k * 2 ^ 12 + w)))
  let first := if p.scrubFound then [] else ues.take 1
  let s := raiseAll s (pnlPg die panel) (first.map (fun k => (19, k * 2 ^ 12 + w)))
  let s := ces.foldl (fun s _ => countCe s die panel) s
  if first.isEmpty then s else markPanel s die panel 4

/-- Do the Dowels fetch nothing at this step (R138)? -/
def noFetch (s : State) : Bool := !s.executing || decide (s.nLen ≤ s.step)

/-- The Panel's export record of the execution (R115, R116): probe, trigger, toggle count. -/
def exportOf (p : Panel) : Nat × Nat × Nat := (conBits p.con 256 8, conBits p.con 264 8, p.toggles)

/-- The bit that a crossbar source code names in a row (R124, R125). -/
def xbarSource (s : State) (g row code : Nat) : Bool :=
  if code < 4096 then
    if row < 2 then false
    else
      match s.phys g (code / 32) with
      | none => false
      | some ph =>
        let p := s.panel g ph
        let k := (Tab.get (zeroAt 6) p.egress ((row - 2) * 32 + code % 32)).toNat
        (Tab.get (zeroAt 64) p.res (row - 2)).getLsbD k
  else if code < 4608 then (Tab.get (zeroAt 512) s.fab.got (g * 4 * 8192 + row)).getLsbD (code - 4096)
  else if code < 5120 then (Tab.get (zeroAt 512) s.fab.got ((g * 4 + 1) * 8192 + row)).getLsbD (code - 4608)
  else if code < 5632 then (Tab.get (zeroAt 512) s.fab.got ((g * 4 + 3) * 8192 + row)).getLsbD (code - 5120)
  else if code < 6144 then (Tab.get (zeroAt 512) s.fab.got ((g * 4 + 2) * 8192 + row)).getLsbD (code - 5632)
  else false

/-- The entries of a routing table row that are listed: destination and source code. -/
def rowEntries (t : Tab (BitVec 13)) (width row : Nat) : List (Nat × Nat) :=
  (t.filter (fun e => decide (row * width ≤ e.1) && decide (e.1 < (row + 1) * width))).map
    (fun e => (e.1 - row * width, e.2.toNat))

/-- The destination bits lo..lo+n-1 of a row that carry 1. -/
def destBits (es : List (Nat × Nat)) (src : Nat → Bool) (lo n : Nat) : Nat :=
  es.foldl (fun acc e => if lo ≤ e.1 ∧ e.1 < lo + n ∧ src e.2 then acc ||| 2 ^ (e.1 - lo) else acc) 0

/-- One crossbar row of a group (R124): 4,096 ingress bits, and 512 bits to each of its four modules; while the DVT_
page is not ON every destination gets 0 (R125, R143). -/
def crossbarStep (s : State) (g row : Nat) : State :=
  let es := if s.on (dvtPg g) then rowEntries s.fab.xbar 6144 (g * 4096 + row) else []
  let src := xbarSource s g row
  let put := fun (t : Tab (BitVec 512)) (m lo : Nat) =>
    Tab.set (zeroAt 512) t ((g * 4 + m) * 4096 + row) (BitVec.ofNat 512 (destBits es src lo 512))
  s.withFab { s.fab with
      ingress := Tab.set (zeroAt 4096) s.fab.ingress (g * 4096 + row) (BitVec.ofNat 4096 (destBits es src 0 4096))
      sent := put (put (put (put s.fab.sent 0 4096) 1 4608) 3 5120) 2 5632 }

/-- The bit that a bundle slot map source code names for a destination in a row (R134, R135). -/
def slotSource (s : State) (row dest code : Nat) : Bool :=
  if code < 2048 then
    (Tab.get (zeroAt 512) s.fab.got ((16 + code / 512) * 8192 + row)).getLsbD (code % 512)
  else if code < 4736 then
    let j := code - 2048
    if dest < 2688 then
      if row < 16 then false
      else (Tab.get (zeroAt 448) s.fab.bgot (j / 448 * 8192 + (row - 16))).getLsbD (j % 448)
    else (Tab.get (zeroAt 448) s.fab.bgot (j / 448 * 8192 + row)).getLsbD (j % 448)
  else false

/-- One row of the bundle slot map (R134): 448 slots to each bundle, for the frame of the step (R296), and 512 bits to each
group's hub channel. -/
def slotStep (s : State) (row : Nat) : State :=
  let es := rowEntries s.fab.slots 4736 row
  let bitsOf := fun (lo n : Nat) =>
    es.foldl (fun acc e => if lo ≤ e.1 ∧ e.1 < lo + n ∧ slotSource s row e.1 e.2 then acc ||| 2 ^ (e.1 - lo) else acc) 0
  let sent := (List.range 4).foldl (fun t g =>
    Tab.set (zeroAt 512) t ((16 + g) * 4096 + row) (BitVec.ofNat 512 (bitsOf (2688 + 512 * g) 512))) s.fab.sent
  let bs := (List.range 6).map (fun b => (b, BitVec.ofNat 448 (bitsOf (448 * b) 448)))
  let bsent := bs.foldl (fun t e => Tab.set (zeroAt 448) t (e.1 * 4096 + row) e.2) s.fab.bsent
  s.withFab { s.fab with sent := sent, bsent := bsent }

/-- The far die of a module (R120, R127): EW, NS, hub (itself), relay. -/
def farDie (die m : Nat) : Nat :=
  match m with
  | 0 => die ^^^ 1
  | 1 => die ^^^ 2
  | 3 => die ^^^ 3
  | _ => die

/-- The stage latency of a module (R133). -/
def linkLat (m : Nat) : Nat :=
  match m with
  | 2 => 6
  | 3 => 12
  | _ => 8

/-- Show a module's state in DIE_LINK_STS.UP, and its repairs where given (R141). -/
def showMod (s : State) (die m : Nat) (st : ModState) : State :=
  (s.setMod die m st).setF (diePg die) 0x40 (8 * m + 7) (8 * m + 7) (if st = .up then 1 else 0)

/-- Set a module's state at each end that is a compute die (R129): a neighbour link has two. -/
def setLink (s : State) (die m : Nat) (st : ModState) : State :=
  let s := showMod s die m st
  if m < 2 then showMod s (farDie die m) m st else s

/-- The header bits [607:576] of a die-link frame (R131). -/
def linkHeader (row ctag : Nat) (valid : Bool) : Nat :=
  (if valid then row % 4096 + 2 ^ 14 else 0) + ctag * 2 ^ 12

/-- The channel whose payload a receiver's frames carry (R118, R127). -/
def linkChannel (die m : Nat) (atHub : Bool) : Nat :=
  if m = 2 then (if atHub then die * 4 + 2 else 16 + die) else farDie die m * 4 + m

/-- What a receiver finds in a frame (R133): its payload and VALID, whether it is bad, whether a codeword was corrected, the
codeword for INFO, and whether VALID, STEP and CTAG are those expected. -/
structure FrameFinding where
  payload : BitVec 512
  valid : Bool
  bad : Bool
  corrected : Bool
  firstCw : Nat
  aligned : Bool
  deriving DecidableEq, Repr

/-- A receiver's three checks on a frame sent with `payload` and `hdr`, of which the wires flipped some bits; the
header expected is the one a right sender sends (R133); where VALID 0 is expected, for which the rule names no STEP and CTAG, that
is STEP 0 and the CTAG of the execution in hand. The first failing codeword is the first uncorrectable one; where
the CRC alone is wrong, the first that was corrected, or 8 for none.
DESIGN CHOICE (log 19; safe). DESIGN CHOICE (log 43; unsafe). DESIGN CHOICE (log 46; unsafe). -/
def checkFrame (payload : BitVec 512) (hdr : Nat) (n : LinkNoise) : FrameFinding :=
  let cw := fun j =>
    let sent := fld payload.toNat (64 * j + 63) (64 * j)
    if n.corrected.getLsbD j then sent else sent ^^^ fld n.flips.toNat (72 * j + 63) (72 * j)
  let got := (List.range 8).foldl (fun acc j => acc + cw j * 2 ^ (64 * j)) 0
  let ghdr := hdr ^^^ fld n.flips.toNat 607 576
  let crc := crcBits 544 (payload.toNat + hdr * 2 ^ 512)
  let gcrc := crc ^^^ fld n.flips.toNat 639 608
  let ue := n.uncorrectable ≠ 0
  let crcBad := crcBits 544 (got + ghdr * 2 ^ 512) ≠ gcrc
  let first := fun (v : BitVec 8) => ((List.range 8).find? (fun j => v.getLsbD j)).getD 8
  ⟨BitVec.ofNat 512 got, ghdr.testBit 14, ue || crcBad, n.corrected ≠ 0,
    if ue then first n.uncorrectable else if crcBad then (if n.corrected ≠ 0 then first n.corrected else 8)
      else first n.corrected,
    fld ghdr 14 0 == fld hdr 14 0⟩

/-- The module carries frames (R132): it is up, its DIE_ page is ON, and so is what its far end needs: at a relay, whose
two modules each die has its own, also the far die's relay module.
DESIGN CHOICE (log 43; unsafe). -/
def linkCarries (s : State) (die m : Nat) : Bool :=
  s.mod die m == .up && s.on (diePg die) &&
    (m == 2 || s.mod (farDie die m) m == .up && s.on (diePg (farDie die m)))

/-- The payload of a frame at a receiver: the bits of its step, while an execution is in hand. -/
def deliverPayload (s : State) (die m : Nat) (atHub : Bool) (t : Nat) (v : BitVec 512) : State :=
  if s.executing then
    s.withFab { s.fab with
      got := Tab.set (zeroAt 512) s.fab.got ((if atHub then 16 + die else die * 4 + m) * 8192 + t) v }
  else s

/-- A receiver acts on what it found in a frame (R133): the payload, 0 where VALID is 0 (R125), or 0 with the cause. `row` is the row for INFO, `fed`
whether the frame carries a row whose payload the execution uses. -/
def frameFound (s : State) (die m : Nat) (atHub : Bool) (t row : Nat) (fed : Bool) (fnd : FrameFinding) : State :=
  let rx := bit atHub
  let info := fun (cw : Nat) => m * 2 ^ 22 + rx * 2 ^ 21 + cw * 2 ^ 14 + row
  let p := diePg die
  if fnd.bad then
    let s := (raise (deliverPayload s die m atHub t 0) p 9 (info fnd.firstCw)).bump p 0x4c 31 0
    if fed then raiseReplay s 1 die rx else s
  else
    let s := if fnd.corrected then (raise s p 8 (info fnd.firstCw)).bump p 0x48 31 0 else s
    if fnd.aligned then deliverPayload s die m atHub t (if fnd.valid then fnd.payload else 0)
    else raiseFault (raise (deliverPayload s die m atHub t 0) p 10 (info 0)) 7 die rx

/-- A receiver takes one frame at a step of an execution, or in a hold (R133). -/
def linkReceive (s : State) (die m : Nat) (atHub : Bool) (t : Nat) (n : LinkNoise) : State :=
  let l := linkLat m
  let valid := s.executing && decide (l ≤ t) && decide (t - l < s.nLen)
  let sent := if valid then Tab.get (zeroAt 512) s.fab.sent (linkChannel die m atHub * 4096 + (t - l)) else 0
  frameFound s die m atHub t (if s.executing then t % 4096 else 0) (valid && decide (t < s.nLen))
    (checkFrame sent (linkHeader (t - l) (s.execCycle % 4) valid) n)

/-- A lane lost while a module is up takes it down until it is trained again (R133).
DEDUCED (log 20; unsafe). -/
def laneLost (s : State) (die m lane : Nat) (atHub : Bool) : State :=
  let rx := if atHub then 1 else 0
  let row := if s.executing then s.step % 4096 else 0
  let t := raise (setLink s die m .down) (diePg die) 11 (m * 2 ^ 22 + rx * 2 ^ 21 + lane % 128 * 2 ^ 14 + row)
  spareOut s (raiseFault t 8 die rx)

/-- Training of a module ends (R129, R130): a failed training, or more than four failed lanes in one direction, leaves
it down.
DEDUCED (log 20; unsafe). -/
def trainingEnd (s : State) (die m failed failedRx : Nat) (ok : Bool) : State :=
  let ends := if m < 2 then [die, farDie die m] else [die]
  if !ok ∨ 4 < failed ∨ 4 < failedRx then
    let t := ends.foldl (fun s d =>
      raise s (diePg d) 12 (m * 2 ^ 22 + (failed + failedRx) % 128 * 2 ^ 14)) (setLink s die m .down)
    spareOut s t
  else
    ends.foldl (fun s d => s.setF (diePg d) 0x40 (8 * m + 3) (8 * m) (failed + failedRx)) (setLink s die m .up)

/-- Training of the four modules of a die begins (R129, R142): no frames meanwhile. A module that is down stays down
(R130).
DEDUCED (log 20; unsafe). -/
def beginTraining (s : State) (die : Nat) : State :=
  (List.range 4).foldl (fun s m => setLink s die m (if s.modDown die m then .retraining else .training)) s

/-- The modules of a die carry nothing once its DIE_ page stops. A module that is down stays down (R130).
DEDUCED (log 20; unsafe). -/
def untrain (s : State) (die : Nat) : State :=
  (List.range 4).foldl (fun s m => setLink s die m (if s.modDown die m then .down else .untrained)) s

/-- A write of 1 to DIE_LINK_CTL.RETRAIN (R142).
DEDUCED (log 20; unsafe). -/
def retrain (s : State) (die : Nat) : State :=
  if s.on (pg .cyc) then raise s (diePg die) bSeqFail 0 else beginTraining s die

end Sys2Proof.Machine
end

