-- ==== Sys2Proof/Machine/Gauge.lean ====
section
/-! DEFINITION. Gauges (R332-R366): values and sources, holdover, event units, and cycle pacing. -/
namespace Sys2Proof.Machine

/-- Gauge k is ON: its page is. -/
def State.gauOn (s : State) (k : Nat) : Bool := s.on (gauPg k)

/-- GAU_CTL.SRC in force: 0 LOCAL, 1 PPS, 2 TCLK (R334, R341). -/
def State.gauSrc (s : State) (k : Nat) : Nat := s.ginF k 0x40 1 0

/-- The Gauge is in holdover (R346). -/
def State.holdover (s : State) (k : Nat) : Bool := s.f (gauPg k) 0x44 1 1 == 1

/-- Enter holdover, or meet one of its cases again, with the reason recorded (R346). After holdover begins, the next edge becomes
the reference edge untested (R343). -/
def enterHoldover (s : State) (k reason : Nat) : State :=
  let s := if s.holdover k then s else s.setGauge k { s.gauge k with ref := none, lost := false }
  raise (((s.setF (gauPg k) 0x44 1 1 1).setF (gauPg k) 0x44 6 4 0)) (gauPg k) 8 reason

/-- The level that the edge line of a Gauge shows at the tick in hand, and the one that it showed at the tick before (R342). -/
def State.edgeLevel (s : State) (k : Nat) : Bool := s.pins.edl3.getLsbD (s.ginF k 0x40 8 4)
def State.edgeBefore (s : State) (k : Nat) : Bool := s.pins.edl4.getLsbD (s.ginF k 0x40 8 4)

/-- The registers of a GAU_ page whose writes take effect at the next tick (R334): of the source and its tests, of the event
unit, of pacing, and the counters. INC, ADJ, SET and INV wait elsewhere. -/
def gauTimed : List Nat :=
  [0x40, 0x70, 0x74, 0x78, 0x7c, 0x8c, 0xc0, 0xc8, 0xcc, 0xd0, 0xd4, 0xd8, 0xdc, 0x100, 0x108, 0x10c, 0x110, 0x114, 0x118, 0x11c,
    0x130]

/-- After a register write: what it changed stays in force as it was until the next tick (R334). -/
def keepTick (old new : State) (k : Nat) : State :=
  let st := gauTimed.foldl (fun t off =>
    if (Tab.get (fun _ => none) t off).isSome || new.reg (gauPg k) off == old.reg (gauPg k) off then t
    else Tab.set (fun _ => none) t off (some (old.reg (gauPg k) off))) (new.gauge k).stale
  if st = (new.gauge k).stale then new else new.setGauge k { new.gauge k with stale := st }

/-- The Gauge itself sets a register within a tick: where a write has changed it, that write still follows at the next tick. -/
def gauPut (s : State) (k off : Nat) (v : Word) : State :=
  if (Tab.get (fun _ => none) (s.gauge k).stale off).isSome then
    s.setGauge k { s.gauge k with stale := Tab.set (fun _ => none) (s.gauge k).stale off (some v) }
  else s.setReg (gauPg k) off v
def gauPut64 (s : State) (k off v : Nat) : State :=
  gauPut (gauPut s k off (BitVec.ofNat 32 v)) k (off + 4) (BitVec.ofNat 32 (v / 2 ^ 32))
def gauPutF (s : State) (k off hi lo v : Nat) : State := gauPut s k off (setFld (s.gin k off) hi lo v)
def gauBump (s : State) (k off n : Nat) : State := gauPutF s k off 31 0 (satAdd 32 (s.ginF k off 31 0) n)

/-- GAU_CTL is written: at the next tick the source is selected (R334). -/
def sourceWritten (s : State) (k : Nat) : State := s.setGauge k { s.gauge k with chosen := true }

/-- A write of GAU_CTL takes effect (R341, R343, R346): a source PPS or TCLK is selected, in holdover with reason CHANGED; LOCAL,
selected in the place of another, ends holdover. -/
def sourceChosen (s : State) (k oldSrc : Nat) : State :=
  let s := s.setGauge k
    { s.gauge k with chosen := false, edge := none, winAt := none, count := 0, closed := none, ref := none, lost := false }
  if s.gauSrc k ≠ 0 then enterHoldover s k 3
  else if oldSrc ≠ 0 then raise ((s.setF (gauPg k) 0x44 1 1 0).setF (gauPg k) 0x44 6 4 0) (gauPg k) 8 3
  else s

/-- A refused configuration write of a GAU_ page (R366). -/
def gauCfgErr (s : State) (k code : Nat) : State := raise s (gauPg k) 13 code

/-- A write of the upper register of GAU_ADJ (R336): pending until the next tick. -/
def gauAdjust (s : State) (k v : Nat) : State :=
  let g := s.gauge k
  let old := match g.adj with
    | some a => a
    | none => 0
  raise (s.setGauge k { g with adj := some (old + BitVec.ofNat 64 v) }) (gauPg k) 11 0

/-- A write of the upper register of GAU_SET (R336): pending until the next tick. -/
def gauSetValue (s : State) (k v : Nat) : State :=
  raise (s.setGauge k { s.gauge k with set_ := some (BitVec.ofNat 64 v) }) (gauPg k) 11 1

/-- Items 1 and 2 of R334: the increment in force is added to the 80 bits, then a pending SET, or else ADJ, is
applied. -/
def gaugeAdvance (g : Gauge) (inc : Nat) : Gauge :=
  let n := g.value.toNat * 2 ^ 16 + g.resid.toNat + inc
  let v := BitVec.ofNat 64 (n / 2 ^ 16)
  let r := BitVec.ofNat 16 n
  match g.set_, g.adj with
  | some x, _ => { g with value := x, resid := 0, set_ := none, adj := none }
  | none, some a => { g with value := v + a, resid := r, set_ := none, adj := none }
  | none, none => { g with value := v, resid := r }

/-- Item 3 of R334: the source edge of the tick, if the edge line shows one (R342). -/
def gaugeEdge (src : Nat) (fall before level : Bool) (tick : Nat) (g : Gauge) : Gauge :=
  let hit := level != before && level != fall
  if !hit then g
  else if src = 1 then { g with edge := some (g.value, tick) }
  else if src = 2 then { g with count := g.count + 1 }
  else g

/-- The end of a TCLK window with the tick just counted (R345): only a window counted whole is kept for the test. -/
def gaugeWindow (src win tick : Nat) (g : Gauge) : Gauge :=
  if src = 2 ∧ (tick + 1) % 2 ^ win = 0 then
    let whole := match g.winAt with
      | some a => a + 2 ^ win == tick + 1
      | none => false
    { g with closed := if whole then some (g.count, g.value) else g.closed, winAt := some (tick + 1), count := 0 }
  else g

/-- What a tick does to an event unit before anything fires (R334, R350, R354): a disarm and INV written before it take effect,
and a unit that does not act has no output. -/
def eventTick (acts inv : Bool) (g : Gauge) : Gauge :=
  let g := if g.cut then { g with pulse := none, winOn := false, cut := false } else g
  { g with inv := inv, winOn := g.winOn && acts }

/-- What was written to a GAU_ page before a tick takes effect (R334). -/
def takeWrites (s : State) (k : Nat) : State :=
  let old := s.gauSrc k
  let s := s.setGauge k { s.gauge k with stale := [] }
  if (s.gauge k).chosen then sourceChosen s k old else s

/-- One reference tick of one Gauge (R333-R335): a LOCAL Gauge takes its increment; while its page is not ON the Gauge holds. -/
def gaugeTick (s : State) (k : Nat) : State :=
  let p := gauPg k
  let s := takeWrites s k
  let src := s.gauSrc k
  let s := if src = 0 then s.setReg64 p 0x58 (s.reg64 p 0x50 % 2 ^ 40) else s
  let g := eventTick (s.unitActs k) (s.f p 0xc0 8 8 == 1) (s.gauge k)
  if s.gauOn k then
    let g := gaugeAdvance g (s.reg64 p 0x58 % 2 ^ 40)
    let g := gaugeEdge src (s.f p 0x40 9 9 == 1) (s.edgeBefore k) (s.edgeLevel k) s.ticks g
    s.setGauge k (gaugeWindow src (s.f p 0x7c 4 0) s.ticks g)
  else s.setGauge k g

/-- The increment computed at a valid PPS edge (R344). -/
def ppsIncrement (value period c : Nat) : Nat :=
  let span := period * 65536
  let r := value % span
  let e : Int := if r < span / 2 then r else (r : Int) - span
  let e := max (-((period * 64 : Nat) : Int)) (min e ((period * 64 : Nat) : Int))
  (((period : Int) * 2 ^ 32 - e * 2 ^ 16) / (c : Int)).toNat % 2 ^ 40

/-- A valid edge or window (R347): in holdover it counts, and the fourth ends holdover and sets the increment; outside
holdover it sets the increment. -/
def sourceGood (s : State) (k value meas inc : Nat) : State :=
  let p := gauPg k
  let s := (s.setReg64 p 0x80 value).setReg p 0x88 (BitVec.ofNat 32 meas)
  if s.holdover k then
    let n := s.f p 0x44 6 4 + 1
    let s := s.setF p 0x44 6 4 n
    if n = 4 then raise ((s.setF p 0x44 1 1 0).setReg64 p 0x58 inc) p 9 0 else s
  else s.setReg64 p 0x58 inc

/-- A rejected edge or an invalid window (R343, R345, R347). -/
def sourceBad (s : State) (k info : Nat) : State :=
  let p := gauPg k
  raise ((gauBump s k 0x8c 1).setF p 0x44 6 4 0) p 10 info

/-- PPS_EDGE (R343): the edge captured by the last ticks is tested. -/
def ppsEdge (s : State) (k : Nat) : State :=
  let g := s.gauge k
  match s.gauOn k && s.gauSrc k == 1, g.edge with
  | true, some (v, t) =>
    let s := s.setGauge k { g with edge := none }
    match g.ref with
    | none => s.setGauge k { g with edge := none, ref := some t, lost := false }
    | some r =>
      let c := t - r
      let period := (s.gin k 0x70).toNat
      let tol := period / 1024
      if c + tol < period then sourceBad s k 1
      else
        let s := s.setGauge k { g with edge := none, ref := some t, lost := false }
        if period + tol < c then sourceBad s k 2
        else sourceGood s k v.toNat c (ppsIncrement v.toNat period c)
  | _, _ => s

/-- PPS_LOST (R346): no valid edge for 2Π ticks after the reference edge, recorded once for each. -/
def ppsLost (s : State) (k : Nat) : State :=
  match s.gauOn k && s.gauSrc k == 1 && !(s.gauge k).lost, (s.gauge k).ref with
  | true, some r =>
    if r + 2 * (s.gin k 0x70).toNat ≤ s.ticks then
      let held := s.holdover k
      let s := enterHoldover s k 1
      if held then s.setGauge k { s.gauge k with lost := true } else s
    else s
  | _, _ => s

/-- TCLK_WINDOW_END (R345): the window that has ended is tested. -/
def tclkWindowEnd (s : State) (k : Nat) : State :=
  let g := s.gauge k
  match s.gauOn k && s.gauSrc k == 2, g.closed with
  | true, some (e, v) =>
    let s := s.setGauge k { g with closed := none }
    let w := s.ginF k 0x7c 4 0
    let ns := s.gin64 k 0x74 % 2 ^ 40
    let full := 2 ^ (w + 32)
    if (e * ns - full) * 1024 ≤ full ∧ (full - e * ns) * 1024 ≤ full then
      sourceGood s k v.toNat e (e * ns / 2 ^ w % 2 ^ 40)
    else sourceBad (enterHoldover s k 2) k 3
  | _, _ => s

/-! ### Event units (R350-R358) -/

/-- GAU_EVT_CTL.ARM as it reads, and as it is in force. -/
def State.evtArm (s : State) (k : Nat) : Bool := s.f (gauPg k) 0xc0 0 0 == 1
def State.evtArmed (s : State) (k : Nat) : Bool := s.ginF k 0xc0 0 0 == 1

/-- A Gauge value lies in the window [a, b) (R340). -/
def inside64 (g a b : Nat) : Bool := reached64 g a && !reached64 g b

/-- A difference of Gauge times is positive as a signed 64-bit value. -/
def positive64 (d : Nat) : Bool := d % 2 ^ 64 != 0 && decide (d % 2 ^ 64 < 2 ^ 63)

/-- ARM may be set with these values (R354). -/
def armOk (mode a b width : Nat) : Bool :=
  match mode with
  | 0 => true
  | 1 => b != 0 && decide (width < b)
  | 2 => positive64 (b + 2 ^ 64 - a % 2 ^ 64)
  | _ => false

/-- A write of ARM = 1 to a disarmed unit, its other fields written (R354). -/
def gauArm (s : State) (k : Nat) : State :=
  let p := gauPg k
  if armOk (s.f p 0xc0 2 1) (s.reg64 p 0xc8) (s.reg64 p 0xd0) (s.reg p 0xd8).toNat then s
  else gauCfgErr (s.setF (gauPg k) 0xc0 0 0 0) k 1

/-- A write of ARM = 0 (R334, R354): at the next tick the output becomes inactive and a pulse is cut short. -/
def gauDisarm (s : State) (k : Nat) : State := s.setGauge k { s.gauge k with cut := true }

/-- A unit may fire now: it acts, it is armed, and it has this mode. -/
def State.evtReady (s : State) (k mode : Nat) : Bool :=
  s.unitActs k && s.evtArmed k && s.evtMode k == mode

/-- FIRED is set (R356). -/
def setFired (s : State) (k : Nat) : State := s.setF (gauPg k) 0xc4 0 0 1

/-- ONE_SHOT_FIRE (R351). -/
def oneShotFire (s : State) (k : Nat) : State :=
  if s.evtReady k 0 && (s.gauge k).pulse.isNone && reached64 (s.evtG k) (s.evtA k) then
    let s := setFired s k
    if s.evtWidth k = 0 then gauPutF s k 0xc0 0 0 0
    else s.setGauge k { s.gauge k with pulse := some (BitVec.ofNat 64 (s.evtA k + s.evtWidth k)) }
  else s

/-- How many more times b is added to a time that is due by d, until it is no longer due (R352). -/
def skipCount (d b : Nat) : Nat :=
  if b < 2 ^ 63 then d / b + 1 else (2 ^ 63 - d + (2 ^ 64 - b) - 1) / (2 ^ 64 - b)

/-- PERIODIC_FIRE (R352). -/
def periodicFire (s : State) (k : Nat) : State :=
  let p := gauPg k
  if s.evtReady k 1 && reached64 (s.evtG k) (s.evtA k) then
    let a := s.evtA k
    let b := s.evtB k
    let w := s.evtWidth k
    let g := s.evtG k
    let s := setFired s k
    let s := s.setGauge k
      { s.gauge k with pulse := if w = 0 then none else some (BitVec.ofNat 64 (a + w)) }
    let a1 := (a + b) % 2 ^ 64
    if reached64 g a1 then
      let n := skipCount ((g + 2 ^ 64 - a1) % 2 ^ 64) b
      let s := gauBump (gauPut64 s k 0xc8 (a1 + n * b)) k 0xdc n
      raise s p 12 (min n 0xffff)
    else gauPut64 s k 0xc8 a1
  else s

/-- WINDOW_FIRE (R353): the output of a window unit becomes active at A, and inactive at B. -/
def windowFire (s : State) (k : Nat) : State :=
  let now := s.evtReady k 2 && inside64 (s.evtG k) (s.evtA k) (s.evtB k)
  let was := (s.gauge k).winOn
  if now = was then s
  else
    let s := s.setGauge k { s.gauge k with winOn := now }
    if now then setFired s k else s

/-- PULSE_END (R350-R352): the unit acts, and the time fired plus WIDTH is due; a one-shot unit is then disarmed. -/
def pulseEnd (s : State) (k : Nat) : State :=
  match (s.gauge k).pulse with
  | none => s
  | some e =>
    if s.unitActs k && reached64 (s.evtG k) e.toNat then
      let s := s.setGauge k { s.gauge k with pulse := none }
      if s.evtMode k = 0 then gauPutF s k 0xc0 0 0 0 else s
    else s

/-- Pending arms at step 0 of cycle 0 (R358): they take effect at that step (R356). What a write of the tick in hand has changed
still follows at the next tick (R334), and the unit stays armed. -/
def pendingArms (s : State) : State :=
  (List.range 16).foldl (fun s k =>
    let p := gauPg k
    if s.f p 0xc4 2 2 = 1 then
      let g := s.evtG k
      let s := gauPut64 s k 0xc8 (s.evtA k + g)
      let s := if s.evtMode k = 2 then gauPut64 s k 0xd0 (s.evtB k + g) else s
      ((gauPutF s k 0xc0 0 0 1).setF p 0xc0 0 0 1).setF p 0xc4 2 2 0
    else s) s

/-- The level that Gauge event line k takes (R356). -/
def eventLine (s : State) (k : Nat) : Bool :=
  if s.evtMode k = 2 then
    s.evtArmed k && s.unitActs k && inside64 (s.evtG k) (s.evtA k) (s.evtB k)
  else s.f (gauPg k) 0xc4 0 0 == 1

/-- The Gauge event lines are latched (R356), and FIRED of one-shot and periodic units is cleared. -/
def latchEvents (s : State) : State :=
  let v := (List.range 16).foldl
    (fun acc k => if eventLine s k then acc ||| BitVec.ofNat 16 (2 ^ k) else acc) 0
  let s := s.withCyc { s.cyc with gauLatch := v }
  (List.range 16).foldl (fun s k => if s.evtMode k = 2 then s else s.setF (gauPg k) 0xc4 0 0 0) s

/-- The CYC_ start sequence clears FIRED in every unit (R356) and sets NEXT (R360). -/
def gaugesStart (s : State) : State :=
  let s := (List.range 16).foldl (fun s k => s.setF (gauPg k) 0xc4 0 0 0) s
  s.setReg64 (gauPg 0) 0x120 (s.gin64 0 0x108)

/-! ### Pacing (R360-R364) -/

/-- Pacing is enabled and its Gauge's page is ON. -/
def State.pacing (s : State) : Bool :=
  s.ginF 0 0x100 0 0 == 1 && s.gauOn (s.ginF 0 0x100 7 4)

/-- The value of the pacing Gauge. -/
def State.paceG (s : State) : Nat := s.gval (s.ginF 0 0x100 7 4)

/-- PACE is live at a vote step whose next execution starts a new cycle (R361). -/
def paceLive (s : State) : Bool :=
  s.pacing && !reached64 (s.paceG + (s.gin 0 0x118).toNat) (s.reg64 (gauPg 0) 0x120)

/-- Step 0 of the first execution of a cycle: its start is recorded, judged against NEXT and TOL, and NEXT advances
(R360, R363). -/
def paceStart (s : State) : State :=
  let p := gauPg 0
  let next := s.reg64 p 0x120
  let s :=
    if s.pacing then
      let g := s.paceG
      let s := s.setReg64 p 0x128 g
      if reached64 g (next + (s.gin 0 0x11c).toNat) then
        raise (gauBump s 0 0x130 1) p 14 (s.cycCount % 2 ^ 24)
      else s
    else s
  s.setReg64 p 0x120 (next + s.gin64 0 0x110)

/-- The return from Retain (R338): every Gauge records STOPPED, and a PPS or TCLK Gauge enters holdover. -/
def gaugesStopped (s : State) : State :=
  (List.range 16).foldl (fun s k =>
    if s.gauSrc k = 0 then raise s (gauPg k) 8 4 else enterHoldover s k 4) s

/-! ### The commands -/

def execPpsEdge (k : Nat) (s : State) := done (ppsEdge s k)
def execPpsLost (k : Nat) (s : State) := done (ppsLost s k)
def execTclkWindowEnd (k : Nat) (s : State) := done (tclkWindowEnd s k)
def execOneShotFire (k : Nat) (s : State) := done (oneShotFire s k)
def execPeriodicFire (k : Nat) (s : State) := done (periodicFire s k)
def execWindowFire (k : Nat) (s : State) := done (windowFire s k)
def execPulseEnd (k : Nat) (s : State) := done (pulseEnd s k)

end Sys2Proof.Machine
end

