-- ==== Sys2Proof/Machine/Net.lean ====
section
/-! DEFINITION. The ring network as its sources see it (R431-R437): nodes, routes in force, response buffers, and the
sending of a request; and the packets of the accesses that a unit of H makes within one command. -/
namespace Sys2Proof.Machine

/-- The RING_ pages. -/
def ringPg (k : Nat) : PageId := ⟨.ring, k⟩

/-- The RING_ page and offset of the route register of a node's interface for destinations from 16j (R440). -/
def routeReg (node j : Nat) : PageId × Nat :=
  if node < 32 then (ringPg 0, 0x100 + 0x10 * ((stopOfNode node).getD 0) + 4 * j)
  else (ringPg (2 + (node - 32) / 4), 0x100 + 0x10 * ((node - 32) % 4) + 4 * j)

/-- The entry that a node's route table holds for a destination (R432): as written. -/
def State.routeWritten (s : State) (node dst : Nat) : Nat :=
  let (p, o) := routeReg node (dst / 16)
  s.f p o (2 * (dst % 16) + 1) (2 * (dst % 16))

/-- The entry in force (R436): as it stood before a write that has not taken effect yet. -/
def State.routeEntry (s : State) (node dst : Nat) : Nat :=
  match Tab.get (fun _ => none) s.oldRoutes (node * 64 + dst) with
  | some e => e.toNat
  | none => s.routeWritten node dst

/-- The die of a die node. -/
def dieOf (node : Nat) : Option Nat := if 32 ≤ node ∧ node < 48 then some ((node - 32) / 4) else none

/-- A die ring that a node needs is ON (R437). -/
def State.dieRingOn (s : State) (node : Nat) : Bool :=
  match dieOf node with
  | some d => s.on (ringPg (2 + d))
  | none => true

/-- The hub ring that a packet takes (R432, R437): none where there is no route. -/
def State.route (s : State) (src dst : Nat) : Option Nat :=
  let e := s.routeEntry src dst
  if (e = 1 ∨ e = 2) ∧ s.on (ringPg (e - 1)) = true ∧ s.dieRingOn src = true ∧ s.dieRingOn dst = true then some (e - 1)
  else none

/-- The stop or die node of INFO (R440). -/
def stopInfo (node : Nat) (rq : Nat) : Nat :=
  rq * 2 ^ 20 + (if node < 32 then (stopOfNode node).getD 0 else node)

/-- NO_ROUTE (R437), on the page of the ring that the entry names, of a die ring that is not ON, or else of ring 0. -/
def noRoute (s : State) (src dst code : Nat) : State :=
  let e := s.routeEntry src dst
  let p :=
    if !s.dieRingOn dst then 2 + (dieOf dst).getD 0
    else if e = 2 then 1 else 0
  raise s (ringPg p) 10 (stopInfo src code)

/-- The entry tells of a request still to be made. -/
def RingReq.isAhead (r : RingReq) : Bool :=
  match r.stage with
  | .ahead _ _ _ => true
  | _ => false

/-- Response buffers of a node's interface (R434). -/
def buffersOf (node : Nat) : Nat := if node < 8 then 8 else 32

/-- The lowest free response buffer of a node. -/
def State.freeTag (s : State) (src : Nat) : Option Nat :=
  (List.range (buffersOf src)).find? (fun t => !s.net.any (fun r => r.src == src && r.tag == t))

/-- Requests of a node whose answers have not arrived. -/
def State.outstanding (s : State) (src : Nat) : List RingReq :=
  s.net.filter (fun r => r.src == src && !r.quar && !r.isAhead)

/-- A BCAST_WRITE that waits for its answer holds back every request of its interface (R436). -/
def State.bcastHeld (s : State) (src : Nat) : Bool := (s.outstanding src).any (fun r => r.op == 3)

/-! ### Packets (R433) -/

/-- The code of a requester in a packet (R42, R433): 0xB for trace and capture, 0xD for the dispatcher. -/
def RingReq.code (r : RingReq) : Nat := if r.src = 15 then 0xb else if r.src = 11 then 0xd else rqCode r.rq

/-- The header flit. -/
def headerFlit (dst src vc urg dir dlen op tag addr size req amo status cls : Nat) : BitVec 128 :=
  BitVec.ofNat 128 (dst % 2 ^ 6 + src % 2 ^ 6 * 2 ^ 6 + vc % 2 * 2 ^ 12 + urg % 2 ^ 3 * 2 ^ 13 + dir % 2 * 2 ^ 16 +
    dlen % 2 ^ 3 * 2 ^ 17 + op % 2 ^ 4 * 2 ^ 20 + tag % 2 ^ 5 * 2 ^ 24 + addr % 2 ^ 36 * 2 ^ 32 + size % 2 ^ 3 * 2 ^ 68 +
    req % 2 ^ 4 * 2 ^ 71 + amo % 2 ^ 5 * 2 ^ 75 + status % 2 ^ 4 * 2 ^ 80 + cls % 2 ^ 4 * 2 ^ 84)

/-- The data flits of a packet, the first byte in the lowest bits of the first.
DESIGN CHOICE (log 36; unsafe). -/
def dataFlits (data : List Nat) : List (BitVec 128) :=
  (List.range ((data.length + 15) / 16)).map (fun i => BitVec.ofNat 128 (numLE ((data.drop (16 * i)).take 16)))

/-- The flits of a packet with n bytes: the header and up to four data flits of 16 bytes. -/
def flitsOf (n : Nat) : Nat := 1 + (n + 15) / 16

/-- The request packet. -/
def RingReq.request (r : RingReq) : List (BitVec 128) :=
  headerFlit r.dst r.src 0 r.urg r.ring (dataFlits r.data).length r.op r.tag r.addr (Nat.log2 r.bytes) r.code r.amo 0 0 ::
    dataFlits r.data

/-- The OP of an answer: RSP_ERR, RSP_ACK for a write, or RSP_DATA. -/
def RingReq.answerOp (r : RingReq) (ok : Bool) : Nat := if !ok then 0xa else if r.op = 2 ∨ r.op = 3 then 9 else 8

/-- The answer's packet, on hub ring `back`, with the URG that the answer has (R435); its ADDR, SIZE and REQ are the request's.
DESIGN CHOICE (log 36; unsafe). -/
def RingReq.answer (r : RingReq) (back : Nat) (ok : Bool) (status cls : Nat) (data : List Nat) : List (BitVec 128) :=
  headerFlit r.src r.dst 1 r.backUrg back (dataFlits data).length (r.answerOp ok) r.tag r.addr (Nat.log2 r.bytes) r.code 0 status
    (if status = 1 then cls else 0) :: dataFlits data

/-- Count a packet's flits on the hub ring it takes, and on the die rings at its ends (R440). -/
def countFlits (s : State) (src dst ring n : Nat) : State :=
  let s := s.bump (ringPg ring) 0x40 31 0 n
  let s := match dieOf src with
    | some d => s.bump (ringPg (2 + d)) 0x40 31 0 n
    | none => s
  match dieOf dst with
  | some d => s.bump (ringPg (2 + d)) 0x40 31 0 n
  | none => s

/-- What sending a request comes to: it waits at its source, it has no route and completes with STATUS 3 (R437), or it
is sent. -/
inductive Sent where
  | waits
  | noRoute (s : State)
  | sent (s : State)

/-- Send a request (R434, R436, R437). -/
def sendReq (s : State) (src op dst addr bytes : Nat) (data : List Nat) (amo : Nat) (rq : Requester) (machine : Bool)
    (at_ : Nat) : Sent :=
  match s.bcastHeld src, s.freeTag src with
  | false, some t =>
    match s.route src dst with
    | none => .noRoute (noRoute s src dst (rqCode rq))
    | some r =>
      let q : RingReq := ⟨src, t, op, dst, addr, bytes, data, amo, rq, machine, r, 0, at_, true, false, .sent, 0⟩
      .sent (countFlits (s.withNet (s.net ++ [q])) src dst r q.request.length)
  | _, _ => .waits

/-! ### Parity and timeouts (R437) -/

/-- A packet between two nodes crosses a ring: its hub ring, or the die ring of an end. -/
def crosses (src dst hub ring : Nat) : Bool :=
  ring == hub || (dieOf src).map (2 + ·) == some ring || (dieOf dst).map (2 + ·) == some ring

/-- A flit fails parity (R437): FLIT_ERR on the page of that ring, the packet's hub ring where it crosses no such ring. -/
def flitError (s : State) (src dst hub ring stop code : Nat) : State :=
  raise s (ringPg (if crosses src dst hub ring then ring else hub)) 8 (code * 2 ^ 20 + stop % 64)

/-- The sending of a request that is not answered in time (R437): TIMEOUT and RING_TMO. -/
def ringTimedOut (s : State) (src hub code : Nat) : State :=
  raise (s.bump (ringPg hub) 0x48 31 0) (ringPg hub) 9 (stopInfo src code)

/-! ### An access of a unit of H within one command (R432-R437)

The host link, the loader, the capture and trace units and the dispatcher make their accesses within the command that asks
for them. What befalls the packets of such an access comes with that command, or before it with a row of the ring network for
the response buffer that the access takes.
DESIGN CHOICE (log 36; unsafe). -/

/-- What the rows of the ring network have told of the next request of an operation that a unit makes. -/
def State.aheadOf (s : State) (src op : Nat) : Option RingReq :=
  s.net.find? (fun r => r.src == src && (r.op == 0 || r.op == op) && r.isAhead)

/-- A response buffer of a unit is free, and not in quarantine (R434, R437). -/
def State.bufferFree (s : State) (src : Nat) : Bool :=
  (s.freeTag src).isSome || s.net.any (fun r => r.src == src && r.isAhead)

/-- A buffer for which a row has told of a request of another operation: until that is made, it is free for this one. -/
def State.aheadTag (s : State) (src : Nat) : Option Nat := (s.net.find? (fun r => r.src == src && r.isAhead)).map RingReq.tag

/-- A request that finds no free response buffer waits at its source (R434): in the course of a command it waits until the oldest
quarantine of its buffers has ended (R437).
DESIGN CHOICE (log 36; unsafe). -/
def State.awaitBuffer (s : State) (src : Nat) : State :=
  if s.bufferFree src then s
  else
    match s.net.find? (fun r => r.src == src) with
    | some q => s.withNet (s.net.filter (fun r => !(r.src == src && r.tag == q.tag)))
    | none => s

/-- The request that a unit makes, in the response buffer that it takes: it makes one only where a buffer is free. -/
def State.unitReq (s : State) (src dst op addr bytes : Nat) (data : List Nat) : RingReq :=
  let e := s.aheadOf src op
  { src := src, tag := (((e.map RingReq.tag).or (s.freeTag src)).or (s.aheadTag src)).getD 0, op := op, dst := dst, addr := addr, bytes := bytes,
    data := data, amo := 0, rq := if src = 10 then .loader else .host, machine := true, ring := (s.route src dst).getD 0,
    urg := (e.map RingReq.urg).getD 0, at_ := 0, live := false, quar := false,
    stage := (e.map RingReq.stage).getD (.ahead .none .none false), backUrg := (e.map RingReq.backUrg).getD 0 }

/-- A request whose answer does not come in time: the access completes with STATUS 4, and its buffer goes into quarantine. What a
row has told of another request in that buffer goes. -/
def tripLost (s : State) (q : RingReq) (stage : RingStage) : State :=
  let s := ringTimedOut s q.src q.ring q.code
  s.withNet (s.net.filter (fun r => !(r.src == q.src && r.tag == q.tag)) ++ [{ q with quar := true, stage := stage }])

/-- What comes of an access: the STATUS with which it completes unperformed; or it is performed, and its answer takes a hub
ring. -/
inductive TripEnd where
  | fails (status : Nat)
  | goes (back : Nat)
  deriving DecidableEq, Repr

/-- The answer that an access awaits: the bytes that it reads, or an acknowledgement. -/
def RingReq.awaited (q : RingReq) : List Nat := if q.op = 2 ∨ q.op = 3 then [] else List.replicate q.bytes 0

/-- The first fault of two that is one. -/
def firstFault (a b : RingFault) : RingFault := if a = .none then b else a

/-- The request packet crosses to its node (R432, R433), and the answer will cross back by that node's own route. An access
whose request or answer is dropped, or whose answer comes too late or has no route, is not performed (R475, R476). -/
def tripGo (s : State) (q : RingReq) (t : HostTrip) : TripEnd × State :=
  match s.route q.src q.dst with
  | none => (.fails 3, noRoute s q.src q.dst q.code)
  | some _ =>
    let (o, b, late) := match q.stage with
      | .ahead o b late => (o, b, late)
      | _ => (.none, .none, false)
    let s := s.withNet (s.net.filter (fun r => !(r.src == q.src && r.tag == q.tag && (r.op == 0 || r.op == q.op))))
    let s := countFlits s q.src q.dst q.ring q.request.length
    match firstFault t.out o with
    | .parity ring stop => (.fails 4, tripLost (flitError s q.src q.dst q.ring ring stop q.code) q .lost)
    | .none =>
      match s.route q.dst q.src with
      | none => (.fails 4, tripLost s q .lost)
      | some k =>
        match firstFault t.back b with
        | .parity ring stop =>
          let s := countFlits s q.dst q.src k (q.answer k true 0 0 q.awaited).length
          (.fails 4, tripLost (flitError s q.dst q.src k ring stop q.code) q .lost)
        | .none => if late then (.fails 4, tripLost s q (.answered 0 0 .clean q.awaited)) else (.goes k, s)

/-- The answer of a performed access crosses back. A reset of the device leaves no packet. -/
def tripEnd (s : State) (q : RingReq) (k status cls : Nat) (data : List Nat) : State :=
  if s.pwr.starting then s else countFlits s q.dst q.src k (q.answer k (status == 0) status cls data).length

/-- A write of a unit: it crosses to its node, is performed there, and is acknowledged: the STATUS. -/
def tripWrite (s : State) (src dst addr : Nat) (data : List Nat) (t : HostTrip) (act : State → State) : Nat × State :=
  let q := s.unitReq src dst 2 addr data.length data
  match tripGo s q t with
  | (.goes k, s) => (0, tripEnd (act s) q k 0 0 [])
  | (.fails st, s) => (st, s)

/-- Nothing befalls the packets. -/
def clearTrip : HostTrip := ⟨.none, .none, .none⟩

/-- The node that holds a register page (R431): the hub pages at node 14, which also answers the broadcast window. -/
def nodeOfPage (p : PageId) : Nat :=
  match p.ty with
  | .pnl => 32 + 4 * (p.inst / 1024) + (if p.inst % 1024 < 66 then 0 else 1)
  | .die | .dvt | .mq => 34 + 4 * (p.inst / 1024)
  | _ => 14

end Sys2Proof.Machine
end

