-- ==== Sys2Proof/Machine/Veneer.lean ====
section
/-! DEFINITION. Veneer (R252-R274, R553): regions, keys, Tweaked and Sealed lines, the counter tree, failure classes,
seals and key commands. -/
namespace Sys2Proof.Machine

/-- The first address past HBM0, and past HBM1 (R252). -/
def hbm1Base : Nat := 0x600000000
def hbmEnd : Nat := 0xC00000000

/-- The stack that holds an address; an address past both is recorded on page 0 (R269). -/
def stackOf (addr : Nat) : Nat := if hbm1Base ≤ addr ∧ addr < hbmEnd then 1 else 0

/-- The VNR_ page of a stack. -/
def vnrPg (stack : Nat) : PageId := ⟨.vnr, stack⟩

/-- A stored byte of HBM; an unwritten byte reads 0.
DESIGN CHOICE (log 4; unsafe). -/
def State.hbmByte (s : State) (a : Nat) : Nat := (Tab.get (zeroAt 8) s.hbm a).toNat

/-- Stored bytes of HBM from an address. -/
def State.hbmBytes (s : State) (a n : Nat) : List Nat := (List.range n).map (fun i => s.hbmByte (a + i))

/-- Write stored bytes of HBM, from an address up. -/
def hbmPut (m : Tab (BitVec 8)) (a : Nat) (bs : List Nat) : Tab (BitVec 8) :=
  match bs with
  | [] => m
  | b :: r => hbmPut (Tab.set (zeroAt 8) m a (BitVec.ofNat 8 b)) (a + 1) r

/-- Write stored bytes; a line written whole is good again. -/
def State.hbmWrite (s : State) (a : Nat) (bs : List Nat) : State :=
  (s.withHbm (hbmPut s.hbm a bs)).withHbmUe (s.hbmUe.filter (fun x => x != a))

/-- A region's registers (R285): enable, mode, key ID, access mask, state, base, size, metadata, GEN. -/
structure Region where
  en : Bool
  mode : Nat
  key : Nat
  access : Nat
  state : Nat
  base : Nat
  size : Nat
  meta_ : Nat
  gen : Nat
  deriving DecidableEq, Repr

/-- Region entry i of a stack. -/
def State.region (s : State) (stack i : Nat) : Region :=
  let p := vnrPg stack
  let o := 0x100 + 0x20 * i
  ⟨s.f p o 0 0 == 1, s.f p o 2 1, s.f p o 7 4, s.f p o 12 8, s.f p o 17 16,
    s.f p (o + 4) 19 0 * 65536, s.f p (o + 8) 19 0 * 65536, s.f p (o + 0xc) 19 0 * 65536, s.f p (o + 0x10) 30 0⟩

/-- Set a region's STATE (R285). -/
def State.setRgnState (s : State) (stack i v : Nat) : State := s.setF (vnrPg stack) (0x100 + 0x20 * i) 17 16 v

/-- The enabled region of a stack that an address lies in (R254). -/
def State.regionOf (s : State) (stack addr : Nat) : Option Nat :=
  (List.range 16).find? (fun i =>
    let r := s.region stack i
    r.en && decide (r.base ≤ addr) && decide (addr < r.base + r.size))

/-- The state of a key ID (R265): VNR_KEY_STS on page 0. -/
def State.keySt (s : State) (id : Nat) : Nat := s.f (vnrPg 0) 0x44 (2 * id + 1) (2 * id)

/-- Set a key ID's state. -/
def State.setKeySt (s : State) (id v : Nat) : State := s.setF (vnrPg 0) 0x44 (2 * id + 1) (2 * id) v

/-- No key material. -/
def KeyMat.none : KeyMat := ⟨0, 0, 0, 0⟩

/-- The keys of a key ID. -/
def State.keys (s : State) (id : Nat) : KeyMat := Tab.get (fun _ => KeyMat.none) s.vnr.keys id

/-- Replace the keys of a key ID. -/
def State.setKeys (s : State) (id : Nat) (k : KeyMat) : State :=
  s.withVnr { s.vnr with keys := Tab.set (fun _ => KeyMat.none) s.vnr.keys id k }

/-- The requester class of an access, as its ACCESS bit (R257, R285). -/
def accessBit : VRequester → Nat
  | .queue _ => 0
  | .host => 1
  | .core _ => 2
  | .loader => 3
  | .capture => 4

/-- Capture INFO of a failed access (R285). -/
def vnrInfo (cls : Nat) (write : Bool) (rq : VRequester) (region : Nat) : Nat :=
  let who := match rq with
    | .queue _ => 0xc
    | .host => 0
    | .core c => 1 + c
    | .loader => 9
    | .capture => 0xb
  let q := match rq with
    | .queue q => q / 16 % 4 * 2 ^ 8 + q % 16 * 2 ^ 4
    | _ => 0
  cls * 2 ^ 20 + bit write * 2 ^ 19 + who * 2 ^ 15 + region * 2 ^ 10 + q

/-- The sticky bit of a class (R269). -/
def classSticky (cls : Nat) : Nat :=
  if cls ≤ 4 then 8 else if cls = 5 then 9 else if cls ≤ 7 then 10 else 11

/-- Does a class raise the security alarm (R269)? -/
def classAlarm (cls : Nat) : Bool := cls == 6 || cls == 7 || cls == 9 || cls == 0xa

/-- The mark of an alarm among the events of the period in hand (R418, R482). -/
def alarmMark : Nat := 6

/-- The security alarm (R270): VNR_ALARM_CNT advances and every alarm latch is set (R418, R482). -/
def alarm (s : State) (stack : Nat) : State :=
  let s := s.bump (vnrPg stack) 0x50 31 0
  let a := (List.range 9).foldl (fun t i => Tab.set (fun _ => false) t i true) s.alarms
  (s.withAlarms a).withRecent (alarmMark :: s.recent)

/-- Report a failed access (R269, R270). -/
def vnrFail (s : State) (stack cls : Nat) (write : Bool) (rq : VRequester) (region addr : Nat) : State :=
  let s := raiseAt s (vnrPg stack) (classSticky cls) (vnrInfo cls write rq region) (addr / 64 * 64)
  if classAlarm cls then alarm s stack else s

/-! ### The counter tree (R259-R262) -/

/-- m of R262: log2 of the lines of a region. -/
def Region.m (r : Region) : Nat := Nat.log2 (r.size / 64)

/-- The top level t of R262. -/
def Region.top (r : Region) : Nat := (r.m - 6 + 2) / 3

/-- Blocks of a level (R262). -/
def Region.levelBlocks (r : Region) (i : Nat) : Nat := 2 ^ (r.m - 3 - 3 * i)

/-- The address of a counter block of a level (R262). -/
def Region.blockAddr (r : Region) (i b : Nat) : Nat :=
  if i = 0 then r.meta_ + r.size / 8 + 64 * b
  else
    r.meta_ + r.size / 4 + (List.range (i - 1)).foldl (fun acc j => acc + r.size / 8 ^ (j + 2)) 0 + 64 * b

/-- The address of a counter block's tag (R262): level 0 blocks first. -/
def Region.blockTagAddr (r : Region) (i b : Nat) : Nat :=
  r.meta_ + r.size / 4 + r.size / 32 +
    8 * ((List.range i).foldl (fun acc j => acc + r.levelBlocks j) 0 + b)

/-- The address of a data line's tag (R262). -/
def Region.lineTagAddr (r : Region) (line : Nat) : Nat := r.meta_ + 8 * line

/-- The AES input block of R260 as 16 bytes, leftmost first. -/
def sealBlock (addr gen ctr idx : Nat) : List Nat :=
  bytesBE 16 (addr / 64 % 2 ^ 30 * 2 ^ 98 + gen % 2 ^ 31 * 2 ^ 67 + ctr % 2 ^ 64 * 8 + idx)

/-- The 64-bit tag of R260 over four 16-byte blocks. -/
def sealTag (key : BitVec 256) (addr gen ctr : Nat) (data : List Nat) : Nat :=
  let h := blockNat (aesEnc key (List.replicate 16 0))
  (ghash h (blocks16 data) / 2 ^ 64) ^^^ (blockNat (aesEnc key (sealBlock addr gen ctr 4)) / 2 ^ 64)

/-- Counter-mode encryption of a line's 64 bytes (R260); decryption is the same. -/
def sealCrypt (key : BitVec 256) (addr gen ctr : Nat) (data : List Nat) : List Nat :=
  (blocks16 data).zipIdx.flatMap (fun bj => xorBytes bj.1 (aesEnc key (sealBlock addr gen ctr bj.2)))

/-- A root counter of a region. -/
def State.root (s : State) (stack rgn i : Nat) : Nat :=
  (Tab.get (zeroAt 64) s.vnr.roots ((stack * 16 + rgn) * 8 + i)).toNat

/-- Set a root counter. -/
def State.setRoot (s : State) (stack rgn i v : Nat) : State :=
  s.withVnr { s.vnr with
      roots := Tab.set (zeroAt 64) s.vnr.roots ((stack * 16 + rgn) * 8 + i) (BitVec.ofNat 64 v) }

/-- The parent counter of block b of level i: an entry of the block above, or a root counter (R262). -/
def parentCtr (s : State) (stack rgn : Nat) (r : Region) (i b : Nat) : Nat :=
  if r.top ≤ i then s.root stack rgn b
  else numLE (s.hbmBytes (r.blockAddr (i + 1) (b / 8) + 8 * (b % 8)) 8)

/-- The first failing counter block on the walk from the top level down (R553): class, level, block.
DESIGN CHOICE (log 46; unsafe). -/
def walkFail (s : State) (stack rgn : Nat) (r : Region) (line : Nat) : Option (Nat × Nat × Nat) :=
  (List.range (r.top + 1)).reverse.findSome? (fun i =>
    let b := line / 8 ^ (i + 1)
    let a := r.blockAddr i b
    if s.hbmUe.contains a then some (9, i, b)
    else
      let tag := sealTag (s.keys r.key).ctr a r.gen (parentCtr s stack rgn r i b) (s.hbmBytes a 64)
      if tag = numLE (s.hbmBytes (r.blockTagAddr i b) 8) then none else some (0xa, i, b))

/-- Does a line lie beneath a poisoned node, or in a region poisoned whole (R272)? -/
def poisoned (s : State) (stack rgn line : Nat) : Bool :=
  s.vnr.whole.contains (stack * 16 + rgn) ||
    s.vnr.poison.any (fun e => e.1 == stack && e.2.1 == rgn && line / 8 ^ (e.2.2.1 + 1) == e.2.2.2)

/-- Show a region's POISONED bit and the stack's poison table use (R272, R285). -/
def showPoison (s : State) (stack : Nat) : State :=
  let s := s.setF (vnrPg stack) 0x54 6 0 (s.vnr.poison.filter (fun e => e.1 == stack)).length
  (List.range 16).foldl (fun s i =>
    let b := s.vnr.whole.contains (stack * 16 + i) || s.vnr.poison.any (fun e => e.1 == stack && e.2.1 == i)
    s.setF (vnrPg stack) (0x100 + 0x20 * i) 18 18 (bit b)) s

/-- Record a failing block in the poison table, or poison the whole region when the table is full (R272). -/
def addPoison (s : State) (stack rgn lvl b : Nat) : State :=
  let full := decide (64 ≤ (s.vnr.poison.filter (fun e => e.1 == stack)).length)
  let v :=
    if full then { s.vnr with whole := (stack * 16 + rgn) :: s.vnr.whole }
    else { s.vnr with poison := s.vnr.poison ++ [(stack, rgn, lvl, b)] }
  showPoison (s.withVnr v) stack

/-- Clear a region's poison entries (R272). -/
def clearPoison (s : State) (stack rgn : Nat) : State :=
  showPoison (s.withVnr { s.vnr with
      poison := s.vnr.poison.filter (fun e => !(e.1 == stack && e.2.1 == rgn))
      whole := s.vnr.whole.filter (fun x => x != stack * 16 + rgn) }) stack

/-- Store a counter block with its tag under its parent counter (R260). -/
def putBlock (s : State) (stack rgn : Nat) (r : Region) (i b : Nat) (bytes : List Nat) : State :=
  let a := r.blockAddr i b
  let tag := sealTag (s.keys r.key).ctr a r.gen (parentCtr s stack rgn r i b) bytes
  (s.hbmWrite a bytes).hbmWrite (r.blockTagAddr i b) (bytesLE 8 tag)

/-- Add 1 to entry e of counter block b of level i, and to each counter above it, and tag every block again. `n`
counts the levels left.
DESIGN CHOICE (log 27; unsafe). -/
def bumpTree (s : State) (stack rgn : Nat) (r : Region) (n i b e : Nat) : State :=
  match n with
  | 0 => s
  | n + 1 =>
    let s :=
      if r.top ≤ i then s.setRoot stack rgn b (s.root stack rgn b + 1)
      else bumpTree s stack rgn r n (i + 1) (b / 8) (b % 8)
    let old := s.hbmBytes (r.blockAddr i b) 64
    let v := numLE ((old.drop (8 * e)).take 8) + 1
    putBlock s stack rgn r i b (old.take (8 * e) ++ bytesLE 8 v ++ old.drop (8 * e + 8))

/-- A data line's counter (R261). -/
def lineCtr (s : State) (r : Region) (line : Nat) : Nat := numLE (s.hbmBytes (r.blockAddr 0 (line / 8) + 8 * (line % 8)) 8)

/-! ### Line accesses (R254, R258, R271, R553) -/

/-- The first failing check of an access, of 0 for none (R553). `reads` says that the line is read: a read, or the read
of a partial write.
DESIGN CHOICE (log 46; unsafe). -/
def vnrCheck (s : State) (rq : VRequester) (addr : Nat) (reads : Bool) : Nat × Option (Nat × Nat) × Nat :=
  let stack := stackOf addr
  if hbmEnd ≤ addr || !s.on (vnrPg stack) then (1, none, 0x1f)
  else
    match s.regionOf stack addr with
    | none => (1, none, 0x1f)
    | some i =>
      let r := s.region stack i
      if !r.access.testBit (accessBit rq) then (2, none, i)
      else if s.keySt r.key ≠ 1 ∧ s.keySt r.key ≠ 2 then (3, none, i)
      else
        let line := (addr - r.base) / 64
        let la := addr / 64 * 64
        if r.mode = 2 then
          if r.state ≠ 2 then (4, none, i)
          else if poisoned s stack i line then (0xb, none, i)
          else
            match walkFail s stack i r line with
            | some (c, lvl, b) => (c, some (lvl, b), i)
            | none =>
              if reads then
                let ctr := lineCtr s r line
                if ctr = 0 then (7, none, i)
                else if s.hbmUe.contains la then (5, none, i)
                else if sealTag (s.keys r.key).ctr la r.gen ctr (s.hbmBytes la 64) ≠
                    numLE (s.hbmBytes (r.lineTagAddr line) 8) then (6, none, i)
                else (0, none, i)
              else (0, none, i)
        else if reads && s.hbmUe.contains la then (5, none, i)
        else (0, none, i)

/-- The plain bytes of a line that passed its checks. -/
def linePlain (s : State) (addr : Nat) (r : Region) : List Nat :=
  let la := addr / 64 * 64
  let k := s.keys r.key
  if r.mode = 2 then sealCrypt k.ctr la r.gen (lineCtr s r ((la - r.base) / 64)) (s.hbmBytes la 64)
  else xtsUnit false k.xts1 k.xts2 (la / 64) (s.hbmBytes la 64)

/-- Store the plain bytes of a whole line: re-encrypted, a Sealed line under its next counter (R258, R260, R261). -/
def linePut (s : State) (stack rgn addr : Nat) (bytes : List Nat) : State :=
  let r := s.region stack rgn
  let la := addr / 64 * 64
  let k := s.keys r.key
  if r.mode = 2 then
    let line := (la - r.base) / 64
    let s := bumpTree s stack rgn r (r.top + 1) 0 (line / 8) (line % 8)
    let ctr := lineCtr s r line
    let ct := sealCrypt k.ctr la r.gen ctr bytes
    (s.hbmWrite la ct).hbmWrite (r.lineTagAddr line) (bytesLE 8 (sealTag k.ctr la r.gen ctr ct))
  else s.hbmWrite la (xtsUnit true k.xts1 k.xts2 (la / 64) bytes)

/-- Bytes of a line merged under byte enables (R258). -/
def mergeBytes (old new : List Nat) (be : Nat) : List Nat :=
  (List.range old.length).map (fun i => if be.testBit i then new.getD i 0 else old.getD i 0)

/-- One line access of a requester (R254): the failure class (0 for none), the line's 64 plain bytes for a read, and
the state after it. A write carries 64 bytes and their 64 enables; one with every enable set reads nothing (R271). -/
def vnrLine (s : State) (rq : VRequester) (addr : Nat) (wr : Option (List Nat × Nat)) : Nat × List Nat × State :=
  let stack := stackOf addr
  let reads := match wr with
    | none => true
    | some (_, be) => be % 2 ^ 64 != 2 ^ 64 - 1
  let (cls, node, i) := vnrCheck s rq addr reads
  if cls ≠ 0 then
    let s := match node with
      | some (lvl, b) => addPoison s stack i lvl b
      | none => s
    (cls, List.replicate 64 0, vnrFail s stack cls wr.isSome rq i addr)
  else
    match wr with
    | none => (0, linePlain s addr (s.region stack i), s)
    | some (bytes, be) =>
      let new := if reads then mergeBytes (linePlain s addr (s.region stack i)) bytes be else bytes
      (0, [], linePut s stack i addr new)

/-- A read of n bytes that lie in one line. -/
def vnrRead (s : State) (rq : VRequester) (addr n : Nat) : Nat × List Nat × State :=
  let (c, bs, s) := vnrLine s rq addr none
  (c, (bs.drop (addr % 64)).take n, s)

/-- A write of bytes that lie in one line, under byte enables.
DESIGN CHOICE (log 27; unsafe). -/
def vnrWrite (s : State) (rq : VRequester) (addr : Nat) (bytes : List Nat) (be : Nat) : Nat × State :=
  let o := addr % 64
  let (c, _, s) := vnrLine s rq addr
    (some (List.replicate o 0 ++ bytes ++ List.replicate (64 - o - bytes.length) 0,
      be % 2 ^ bytes.length * 2 ^ o))
  (c, s)

/-- The ring node of a unit of H whose HBM traffic the ring carries (R431, R433); a memory queue has paths of its own, and a
control core's packets are sent by its own interface. -/
def ringNodeOf : VRequester → Option Nat
  | .host => some 9
  | .loader => some 10
  | .capture => some 15
  | .core _ | .queue _ => none

/-- The node of the stack that holds an address. -/
def hbmNode (addr : Nat) : Nat := if stackOf addr = 0 then 12 else 13

/-- The failure of an access that the ring completes with a STATUS other than a Veneer error: outside the Veneer classes,
with class 0 in INFO. -/
def ringClass (status : Nat) : Nat := 16 * status
def clsInfo (cls : Nat) : Nat := cls % 16 * 2 ^ 20

/-- A read of n bytes that lie in one line, as a unit makes it: over the ring where the unit is on it. -/
def netRead (s : State) (rq : VRequester) (addr n : Nat) (t : HostTrip) : Nat × List Nat × State :=
  match ringNodeOf rq with
  | none => vnrRead s rq addr n
  | some src =>
    let q := s.unitReq src (hbmNode addr) 1 addr n []
    match tripGo s q t with
    | (.goes k, s) =>
      let (c, bs, s) := vnrRead s rq addr n
      (c, bs, tripEnd s q k (if c = 0 then 0 else 1) c (if c = 0 then bs else []))
    | (.fails st, s) => (ringClass st, List.replicate n 0, s)

/-- A write of bytes that lie in one line, as a unit makes it. -/
def netWrite (s : State) (rq : VRequester) (addr : Nat) (bytes : List Nat) (be : Nat) (t : HostTrip) : Nat × State :=
  match ringNodeOf rq with
  | none => vnrWrite s rq addr bytes be
  | some src =>
    let q := s.unitReq src (hbmNode addr) 2 addr bytes.length bytes
    match tripGo s q t with
    | (.goes k, s) =>
      let (c, s) := vnrWrite s rq addr bytes be
      (c, tripEnd s q k (if c = 0 then 0 else 1) c [])
    | (.fails st, s) => (ringClass st, s)

/-- Cut a run of bytes at line boundaries: address and length of each piece, `fuel` pieces at most. -/
def linePieces (fuel addr n : Nat) : List (Nat × Nat) :=
  match fuel with
  | 0 => []
  | fuel + 1 =>
    if n = 0 then []
    else
      let k := min n (64 - addr % 64)
      (addr, k) :: linePieces fuel (addr + k) (n - k)

/-- A read of any run of bytes, line by line, up to the first line that fails: its class, and the bytes (zeros from that line
on). -/
def vnrReadRun (s : State) (rq : VRequester) (addr n : Nat) : Nat × List Nat × State :=
  (linePieces (n / 64 + 2) addr n).foldl (fun (acc : Nat × List Nat × State) e =>
    if acc.1 ≠ 0 then (acc.1, acc.2.1 ++ List.replicate e.2 0, acc.2.2)
    else
      let (c, bs, s) := netRead acc.2.2 rq e.1 e.2 clearTrip
      (c, acc.2.1 ++ bs, s)) (0, [], s)

/-- A write of any run of bytes, line by line, up to the first line that fails: its class. -/
def vnrWriteRun (s : State) (rq : VRequester) (addr : Nat) (bytes : List Nat) : Nat × State :=
  (linePieces (bytes.length / 64 + 2) addr bytes.length).foldl (fun (acc : Nat × State) e =>
    if acc.1 ≠ 0 then acc
    else netWrite acc.2 rq e.1 ((bytes.drop (e.1 - addr)).take e.2) (2 ^ e.2 - 1) clearTrip) (0, s)

/-! ### Regions, keys and seals -/

/-- The metadata area of a Sealed region of size R: 5R/16 bytes rounded up to 64 KiB (R259). -/
def metaSize (size : Nat) : Nat := (5 * size / 16 + 65535) / 65536 * 65536

/-- Two address ranges overlap. -/
def overlap (a n b k : Nat) : Bool := decide (a < b + k) && decide (b < a + n)

/-- Does a range overlap an enabled region of a stack, or an enabled Sealed region's metadata, entry i apart? -/
def rangeTaken (s : State) (stack i a n : Nat) : Bool :=
  (List.range 16).any (fun j =>
    let r := s.region stack j
    j != i && r.en && (overlap a n r.base r.size || r.mode == 2 && overlap a n r.meta_ (metaSize r.size)))

/-- A range lies wholly in a stack (R252). -/
def inStack (stack a n : Nat) : Bool :=
  if stack = 0 then decide (a + n ≤ hbm1Base) else decide (hbm1Base ≤ a) && decide (a + n ≤ hbmEnd)

/-- May region entry i of a stack, with these fields, be enabled (R255, R256, R259)? -/
def regionOk (s : State) (stack i : Nat) (r : Region) : Bool :=
  (r.mode == 1 || r.mode == 2) && r.size != 0 && inStack stack r.base r.size &&
    !rangeTaken s stack i r.base r.size &&
    (r.mode == 1 ||
      2 ^ Nat.log2 r.size == r.size && decide (65536 ≤ r.size) && decide (r.size ≤ 2 ^ 34) && r.base % r.size == 0 &&
      inStack stack r.meta_ (metaSize r.size) && !rangeTaken s stack i r.meta_ (metaSize r.size) &&
      !overlap r.meta_ (metaSize r.size) r.base r.size)

/-- A write of VNR_RGN_CFG sets EN from 0 to 1 (R256): the region is enabled, or the write is refused with CFG_ERR. A
Tweaked region reads READY, a Sealed one starts UNSEALED (R285). -/
def enableRegion (s : State) (stack i : Nat) : State :=
  let r := s.region stack i
  if regionOk s stack i r then s.setRgnState stack i (if r.mode = 1 then 2 else 1)
  else
    let s := s.setF (vnrPg stack) (0x100 + 0x20 * i) 0 0 0
    raise s (vnrPg stack) 13 (i * 2 ^ 4 + 1)

/-- A region that is disabled reads OFF. -/
def disableRegion (s : State) (stack i : Nat) : State := s.setRgnState stack i 0

/-- A key command that is refused (R267, R285). -/
def keyRefused (s : State) (id : Nat) : State := raise s (vnrPg 0) 13 (id * 2 ^ 4 + 3)

/-- GENERATE (R265): three fresh keys from the random source, GEN 0, ACTIVE. -/
def keyGenerate (s : State) (id : Nat) : State :=
  if s.keySt id = 0 then
    let r := (Config.randomKey s.free).toNat
    let s := s.withFree (s.free + 1)
    (s.setKeys id ⟨BitVec.ofNat 256 r, BitVec.ofNat 256 (r / 2 ^ 256), BitVec.ofNat 256 (r / 2 ^ 512), 0⟩).setKeySt id 1
  else keyRefused s id

/-- FLUSH (R266). -/
def keyFlush (s : State) (id : Nat) : State := if s.keySt id = 1 then s.setKeySt id 2 else keyRefused s id

/-- The end of a flush: ACTIVE again (R266). -/
def keyFlushEnd (s : State) (id : Nat) : State := if s.keySt id = 2 then s.setKeySt id 1 else s

/-- RETIRE (R267). -/
def keyRetire (s : State) (id : Nat) : State := if s.keySt id = 1 then s.setKeySt id 3 else keyRefused s id

/-- The key ID becomes EMPTY, its keys are erased, its Sealed regions lose their poison entries, and those that are
enabled become UNSEALED (R267, R272). -/
def emptyKey (s : State) (id : Nat) : State :=
  let s := (s.setKeys id KeyMat.none).setKeySt id 0
  (List.range 32).foldl (fun s j =>
    let r := s.region (j / 16) (j % 16)
    if r.mode == 2 && r.key == id then
      clearPoison (if r.en then s.setRgnState (j / 16) (j % 16) 1 else s) (j / 16) (j % 16)
    else s) s

/-- The end of a retire (R267). -/
def keyRetireEnd (s : State) (id : Nat) : State := if s.keySt id = 3 then emptyKey s id else s

/-- Every key ID EMPTY (R268): a reset that reaches a VNR_ page, or its SRST. -/
def emptyAllKeys (s : State) : State := (List.range 16).foldl emptyKey s

/-- A write of SEAL (R263): refused with CFG_ERR, or the region takes the next GEN and is SEALING. -/
def sealStart (s : State) (stack rgn : Nat) (zero : Bool) : State :=
  let p := vnrPg stack
  let r := s.region stack rgn
  let k := s.keys r.key
  if !r.en || r.mode != 2 || s.keySt r.key != 1 || s.f p 0x4c 0 0 == 1 || k.gen == 0x7fffffff then
    raise s p 13 (rgn * 2 ^ 4 + 4)
  else
    let s := s.setKeys r.key { k with gen := k.gen + 1 }
    let s := s.setF p (0x100 + 0x20 * rgn + 0x10) 30 0 (k.gen + 1)
    let s := (s.setRgnState stack rgn 3).setF p 0x4c 0 0 1
    clearPoison (s.withVnr { s.vnr with
      sealing := Tab.set (fun _ => none) s.vnr.sealing stack (some (rgn, zero)) }) stack rgn

/-- Write every counter block of a level with its tag: level 0 counters c0, inner counters 1 (R263, R264). -/
def sealLevel (s : State) (stack rgn : Nat) (r : Region) (c0 i : Nat) : State :=
  let entry := bytesLE 8 (if i = 0 then c0 else 1)
  (List.range (r.levelBlocks i)).foldl
    (fun s b => putBlock s stack rgn r i b ((List.replicate 8 entry).flatten)) s

/-- Write one line of zeros under counter 1, with its tag (R264). -/
def sealLine (s : State) (r : Region) (key : BitVec 256) (l : Nat) : State :=
  let la := r.base + 64 * l
  let ct := sealCrypt key la r.gen 1 (List.replicate 64 0)
  (s.hbmWrite la ct).hbmWrite (r.lineTagAddr l) (bytesLE 8 (sealTag key la r.gen 1 ct))

/-- What a seal writes (R263, R264): counters, tags and, with ZERO, every line zero under counter 1.
DESIGN CHOICE (log 27; unsafe). -/
def sealWrite (s : State) (stack rgn : Nat) (zero : Bool) (r : Region) : State :=
  let s := (List.range 8).foldl (fun s i => s.setRoot stack rgn i 1) s
  let s := (List.range (r.top + 1)).reverse.foldl (fun s i => sealLevel s stack rgn r (bit zero) i) s
  if zero then (List.range (2 ^ r.m)).foldl (fun s l => sealLine s r (s.keys r.key).ctr l) s else s

/-- No seal runs on the stack. -/
def sealDone (s : State) (stack : Nat) : State :=
  (s.withVnr { s.vnr with sealing := Tab.set (fun _ => none) s.vnr.sealing stack none }).setF (vnrPg stack) 0x4c 0 0 0

/-- The end of a seal (R263, R264): what it writes; then READY. A seal whose region or key has gone leaves nothing.
DESIGN CHOICE (log 27; unsafe). -/
def sealFinish (s : State) (stack : Nat) : State :=
  match Tab.get (fun _ => none) s.vnr.sealing stack with
  | none => s
  | some (rgn, zero) =>
    let t := sealDone s stack
    if (t.region stack rgn).en && (t.region stack rgn).state == 3 then
      (sealWrite t stack rgn zero (t.region stack rgn)).setRgnState stack rgn 2
    else t

/-- LINE_ACCESS (R254): one line access of a requester, its failure class, and its answer. -/
def lineAccess (s : State) (who : VRequester) (line : Nat) (wr : Option (BitVec 512 × BitVec 64)) : Nat × State :=
  let (c, bs, s) := vnrLine s who (64 * line) (wr.map (fun w => (bytesLE 64 w.1.toNat, w.2.toNat)))
  (c, s.send (.lineReply who c bs))

end Sys2Proof.Machine
end

