-- ==== Sys2Proof/Machine/Image.lean ====
section
/-! DEFINITION. Lubor images (R183-R216): the clear prefix, the header and frames, their soundness, and the content checks
1 to 17 of R200. Bytes are lists of numbers, in the order of the segment. -/
namespace Sys2Proof.Machine

/-- A little-endian field of n bytes at a byte offset (R5). -/
def at_ (bs : List Nat) (off n : Nat) : Nat := numLE ((bs.drop off).take n)

/-- Every byte of a run is zero. -/
def zeros (bs : List Nat) (off n : Nat) : Bool := ((bs.drop off).take n).all (· == 0)

/-- The clear prefix is sound (R216). -/
def prefixSound (p : List Nat) : Bool :=
  let len := at_ p 16 8
  at_ p 0 4 == 0x4c554252 && at_ p 4 2 == 1 && zeros p 6 2 && zeros p 39 1 && zeros p 44 20 &&
    len % 16 == 0 && decide (1248 ≤ len) && decide (len ≤ 2 ^ 32) && decide (at_ p 37 1 < at_ p 38 1)

/-- One frame of an image (R215): its header fields, whether the header's zero fields are zero, and its payload. -/
structure Frame where
  ty : Nat
  group : Nat
  panel : Nat
  first : Nat
  count : Nat
  len : Nat
  clean : Bool
  data : List Nat
  deriving DecidableEq, Repr

/-- The frames of a segment; none unless the first END frame ends exactly at the end (R216). -/
def parseFrames : Nat → List Nat → Option (List Frame)
  | 0, _ => none
  | fuel + 1, bs =>
    if bs.length < 16 then none
    else
      let h := at_ bs 0 16
      let len := fld h 127 96
      let total := 16 + (len + 15) / 16 * 16
      let f : Frame := ⟨fld h 7 0, fld h 9 8, fld h 23 16, fld h 63 32, fld h 95 64, len,
        fld h 15 10 == 0 && fld h 31 24 == 0, (bs.drop 16).take len⟩
      if f.ty = 0xf then (if bs.length = total then some [f] else none)
      else if bs.length < total then none
      else (parseFrames fuel (bs.drop total)).map (f :: ·)

/-- An image: its encrypted header's bytes and its frames. -/
structure Image where
  hdr : List Nat
  frames : List Frame
  deriving DecidableEq, Repr

/-- Header fields (R213). -/
def Image.devclass (i : Image) : Nat := at_ i.hdr 0 4
def Image.fore (i : Image) : Bool := i.devclass == 0x5132
def Image.cls (i : Image) : Nat := at_ i.hdr 4 1
def Image.full (i : Image) : Bool := i.cls == 1
def Image.n (i : Image) : Nat := at_ i.hdr 8 2
def Image.s (i : Image) : Nat := at_ i.hdr 10 2
def Image.v (i : Image) : Nat := at_ i.hdr 0x10 2
def Image.region (i : Image) (g p : Nat) : Bool := (at_ i.hdr (0x18 + 16 * g) 16).testBit p
def Image.chainSerial (i : Image) (k : Nat) : Nat := at_ i.hdr (0x80 + 16 * k) 8
def Image.inBundle (i : Image) (k : Nat) : Nat := at_ i.hdr (0x80 + 16 * k + 8) 1

/-- Panel counts: those of the header, or those of R206 for a forerunner image. -/
def Image.pg (i : Image) (g : Nat) : Nat :=
  if i.fore then (if g = 0 then (i.v + 1) / 2 else 0) else at_ i.hdr (0x0c + g) 1

/-- Frames of a type. -/
def Image.ofTy (i : Image) (ty : Nat) : List Frame := i.frames.filter (·.ty == ty)

/-- The payload unit of a frame type, for those whose LEN is COUNT units (R215). -/
def unitOf (fore : Bool) (ty : Nat) : Nat :=
  match ty with
  | 1 => if fore then 320 else 640
  | 3 => 8
  | 4 => if fore then 12 else 24
  | 5 => 9984
  | 6 => 7696
  | 0xa => 8
  | _ => 0

/-- A frame's LEN, FIRST and COUNT are those its type fixes, and the rows or words that it supplies lie in range (R215, R216):
with COUNT 0 it supplies none. -/
def frameShape (fore : Bool) (n : Nat) (f : Frame) : Bool :=
  let fixed := fun (count len : Nat) => f.first == 0 && f.count == count && f.len == len
  match f.ty with
  | 2 => if fore then fixed 2048 8192 else fixed 4096 32768
  | 7 => fixed 512 262144
  | 8 => fixed 64 3072
  | 9 => fixed 16 1024
  | 0xf => fixed 0 0
  | 3 => f.len == 8 * f.count && (f.count == 0 || decide (f.first + f.count ≤ 1024))
  | 0xa => f.len == 8 * f.count && (List.range f.count).all (fun k => decide (at_ f.data (8 * k) 2 < n))
  | 1 | 4 | 5 | 6 => f.len == unitOf fore f.ty * f.count && (f.count == 0 || decide (f.first + f.count ≤ n))
  | _ => false

/-- A frame's TYPE is permitted, and GROUP and PANEL are zero where its type has none (R215). -/
def frameFields (i : Image) (f : Frame) : Bool :=
  let permitted :=
    if i.fore then f.ty ≠ 5 ∧ f.ty ≠ 6 else f.ty ≠ 0xa
  let panelTy := decide (1 ≤ f.ty) && decide (f.ty ≤ 4)
  permitted && f.clean && (f.group == 0 || !i.fore && (panelTy || f.ty == 5)) && (f.panel == 0 || panelTy) &&
    (!panelTy || (if i.fore then decide (f.panel < i.v) else decide (f.panel < i.pg f.group)))

/-- The Panel or group that a frame's rows belong to: in a forerunner image a pair shares its Panel RAM (R216). -/
def frameOwner (fore : Bool) (f : Frame) : Nat × Nat :=
  (f.group, if fore && f.ty == 3 then f.panel / 2 else f.panel)

/-- Two frames supply the same row, word or slot, or both are of a type that may appear once (R216). -/
def framesClash (fore : Bool) (f g : Frame) : Bool :=
  f.ty == g.ty && f.ty != 0xa &&
    (decide (7 ≤ f.ty) || frameOwner fore f == frameOwner fore g && f.count != 0 && g.count != 0 &&
      overlap f.first f.count g.first g.count)

/-- Some two frames of a list clash. -/
def anyClash (fore : Bool) : List Frame → Bool
  | [] => false
  | f :: r => r.any (framesClash fore f) || anyClash fore r

/-- The header and frames are sound (R216). -/
def Image.sound (i : Image) (chainLen : Nat) : Bool :=
  let h := i.hdr
  zeros h 5 3 && zeros h 0x12 6 && zeros h 0x58 0x28 && (i.cls == 1 || i.cls == 2) &&
    (if i.fore then zeros h 0x0c 4 else zeros h 0x10 2) &&
    (if i.full then zeros h 0x18 64 else !zeros h 0x18 64) &&
    (List.range 64).all (fun k =>
      zeros h (0x80 + 16 * k + 9) 7 && (decide (k < chainLen) || zeros h (0x80 + 16 * k) 16)) &&
    i.frames.all (fun f => frameFields i f && frameShape i.fore i.n f) && !anyClash i.fore i.frames

/-! ### Words -/

/-- Word k of step u of an IWORD frame, 10 bytes. -/
def frameWord (fore : Bool) (f : Frame) (u k : Nat) : Nat := at_ f.data (unitOf fore 1 * u + 10 * k) 10

/-- The words of an IWORD frame: step, Dowel, word. -/
def frameWords (fore : Bool) (f : Frame) : List (Nat × Nat × Nat) :=
  let d := if fore then 32 else 64
  (List.range f.count).flatMap (fun u => (List.range d).map (fun k => (f.first + u, k, frameWord fore f u k)))

/-- The operands that a word reads (R66, R77): EVALC's d only at a chain head. -/
def readOpds (f : Frame) (fore : Bool) (step k w : Nat) : List Nat :=
  let b := BitVec.ofNat 80 w
  let op := wOp b
  if op = 0 ∨ 10 ≤ op then []
  else
    let abc := [wOpa b, wOpb b, wOpc b]
    let head := k % 16 == 0 || wOp (BitVec.ofNat 80 (frameWord fore f (step - f.first) (k - 1))) != 2
    if op = 1 ∨ op = 2 ∧ head then abc ++ [wOpd b] else abc

/-- A PWR instruction whose selector is the write strobe (R89). -/
def isWriteStrobe (w : Nat) : Bool := wOp (BitVec.ofNat 80 w) == 4 && wOpd (BitVec.ofNat 80 w) == 8192

/-! ### Content checks (R200) -/

/-- How many units the frames of a type supply for an owner. -/
def Image.units (i : Image) (ty group panel : Nat) : Nat :=
  ((i.ofTy ty).filter (fun f => f.group == group && f.panel == panel)).foldl (fun n f => n + f.count) 0

/-- A Panel's three items: all supplied, or none (R198). -/
def Image.panelAll (i : Image) (g p : Nat) : Bool :=
  i.units 1 g p == i.n && i.units 4 g p == i.n && i.units 2 g p != 0
def Image.panelNone (i : Image) (g p : Nat) : Bool :=
  i.units 1 g p == 0 && i.units 4 g p == 0 && i.units 2 g p == 0

/-- Check 4 (R183, R198): an item lacks. -/
def check4 (i : Image) : Bool :=
  let panels :=
    if i.fore then (List.range i.v).map (fun p => (0, p))
    else (List.range 4).flatMap (fun g => (List.range (i.pg g)).map (fun p => (g, p)))
  if i.full then
    !(panels.all (fun gp => i.panelAll gp.1 gp.2) &&
      (i.fore || (List.range 4).all (fun g => i.units 5 g 0 == i.n) && i.units 6 0 0 == i.n) &&
      [7, 8, 9].all (fun ty => !(i.ofTy ty).isEmpty))
  else
    i.frames.any (fun f => decide (f.ty ≤ 4) && !i.panelAll f.group f.panel && !i.panelNone f.group f.panel)

/-- Some word of the image has a property; the property also gets the frame. -/
def Image.anyWord (i : Image) (p : Frame → Nat × Nat × Nat → Bool) : Bool :=
  (i.ofTy 1).any (fun f => (frameWords i.fore f).any (p f))

/-- Check 10 (R89): the write strobes of one Panel; a forerunner pair shares its Panel RAM. -/
def check10 (i : Image) : Bool :=
  let owner := fun (f : Frame) => (f.group, if i.fore then f.panel / 2 else f.panel)
  (i.ofTy 1).any (fun f =>
    16 < ((i.ofTy 1).filter (fun g => owner g == owner f)).foldl
      (fun n g => n + ((frameWords i.fore g).filter (fun w => isWriteStrobe w.2.2)).length) 0)

/-- Entry d of a row of 13-bit entries. -/
def entry13 (row : List Nat) (d : Nat) : Nat := numLE ((row.drop (13 * d / 8)).take 3) / 2 ^ (13 * d % 8) % 8192

/-- The rows of an XBAR or BSLOT frame. -/
def frameRows (f : Frame) (unit : Nat) : List (List Nat) :=
  (List.range f.count).map (fun u => (f.data.drop (unit * u)).take unit)

/-- A crossbar entry that R126 refuses. -/
def badXbar (i : Image) (g d e : Nat) : Bool :=
  decide (6144 ≤ e) && e != 8191 || decide (e < 4096) && decide (i.pg g ≤ e / 32) ||
    decide (d < 4096) && decide (i.pg g ≤ d / 32) && e != 8191

/-- A bundle slot map entry that R136 refuses. -/
def badSlot (d e : Nat) : Bool :=
  decide (4736 ≤ e) && e != 8191 || decide (2688 ≤ d) && decide (e < 2048)

/-- Check 11 and check 12. -/
def check11 (i : Image) : Bool :=
  (i.ofTy 5).any (fun f => (frameRows f 9984).any (fun row =>
    (List.range 6144).any (fun d => badXbar i f.group d (entry13 row d))))
def check12 (i : Image) : Bool :=
  (i.ofTy 6).any (fun f => (frameRows f 7696).any (fun row => (List.range 4736).any (fun d => badSlot d (entry13 row d))))

/-- A pin map entry is invalid (R446, R448): output entries have FORCE at bit 14. -/
def badPinEntry (i : Image) (k : Nat) (e : Nat) : Bool :=
  let panel := k / 256
  let out := decide (k % 256 < 128)
  fld e 13 9 != 0 || !out && fld e 14 14 != 0 || fld e 15 15 == 1 && decide (383 < fld e 8 0) ||
    fld e 15 15 == 0 && e != 0 || e != 0 && decide (i.pg (panel / 128) ≤ panel % 128)

/-- The pin map is invalid (R448). -/
def badPinMap (i : Image) : Bool :=
  (i.ofTy 7).any (fun f => (List.range 131072).any (fun k => badPinEntry i k (at_ f.data (2 * k) 2)))

/-- The size of the ring in bytes (R250). -/
def State.ringSize (s : State) : Nat := 2 ^ s.f (pg .ldr) 0x58 5 0
def State.ringBase (s : State) : Nat := s.reg64 (pg .ldr) 0x50
def State.workBase (s : State) : Nat := s.reg64 (pg .ldr) 0x5c

/-- A queue window lies in a region it may use (R282). -/
def windowInRegion (s : State) (base size : Nat) : Bool :=
  let st := stackOf base
  inStack st base size && (List.range 16).any (fun k =>
    let r := s.region st k
    r.en && decide (r.base ≤ base) && decide (base + size ≤ r.base + r.size) && r.access.testBit 0 &&
      s.keySt r.key == 1 && (r.mode != 2 || r.state == 2))

/-- A queue descriptor is invalid (R275, R282). -/
def badDesc (s : State) (d : List Nat) : Bool :=
  let w := at_ d 0 4
  let base := at_ d 8 8
  let q := qDescOf w base
  if w % 2 = 0 then !zeros d 0 32
  else
    fld w 15 10 != 0 || fld w 31 22 != 0 || !zeros d 4 4 || !zeros d 16 16 || decide (2 ^ 36 ≤ base) ||
      base % 65536 != 0 || decide (q.winLog < 16) || decide (34 < q.winLog) || decide (1024 < q.recBits) ||
      !windowInRegion s base (2 ^ q.winLog) || overlap base (2 ^ q.winLog) s.ringBase s.ringSize ||
      overlap base (2 ^ q.winLog) s.workBase (2 ^ 32)

/-- A window map entry of Panel number k is invalid (R282). -/
def badWinEntry (i : Image) (data : List Nat) (k e : Nat) : Bool :=
  let q := qDescOf (at_ data (32 * (16 * (k / 128) + fld e 12 9)) 4) 0
  fld e 14 13 != 0 || fld e 8 5 != 0 || decide (i.pg (k / 128) ≤ k % 128) && e != 0 ||
    fld e 15 15 == 1 && (decide (16 < fld e 4 0) || !q.en ||
      decide (fld e 4 0 < 16) && decide (q.acc * q.width ≤ 64 * fld e 4 0))

/-- The queue layout is invalid (R282). -/
def badQLayout (s : State) (i : Image) : Bool :=
  (i.ofTy 8).any (fun f =>
    (List.range 64).any (fun q => badDesc s ((f.data.drop (32 * q)).take 32)) ||
    (List.range 512).any (fun k => badWinEntry i f.data k (at_ f.data (2048 + 2 * k) 2)))

/-- A GAUGE frame entry is invalid (R357, R359). -/
def badGauge (k : Nat) (e : List Nat) : Bool :=
  let fl := at_ e 0 1
  let src := fl % 2 == 1
  let evt := fl / 2 % 2 == 1
  let ctl := at_ e 4 4
  let ec := at_ e 32 4
  let win := at_ e 25 1
  decide (8 ≤ fl) || !zeros e 1 3 || !zeros e 13 3 || !zeros e 26 6 || !zeros e 56 8 ||
    !src && !zeros e 4 28 || !evt && !zeros e 32 24 || k == 0 && src ||
    src && (ctl % 4 == 3 || fld ctl 3 2 != 0 || decide (1024 ≤ ctl) || decide (at_ e 16 4 < 1024) ||
      decide (at_ e 20 5 < 10 * 2 ^ 32) || decide (win < 10) || decide (24 < win)) ||
    evt && (fld ec 2 1 == 3 || ec % 2 == 1 || fld ec 3 3 != 0 || decide (512 ≤ ec)) ||
    fl / 4 % 2 == 1 && (!evt || !armOk (fld ec 2 1) (at_ e 40 8) (at_ e 48 8) (at_ e 36 4))

/-- The Gauge programming is invalid (R359). -/
def badGauges (i : Image) : Bool :=
  (i.ofTy 9).any (fun f => (List.range 16).any (fun k => badGauge k ((f.data.drop (64 * k)).take 64)))

/-- A full image is committed (LDR_STS.IMAGE). -/
def State.imageCommitted (s : State) : Bool := s.f (pg .ldr) 0x44 4 4 == 1

/-- Check 14 (R196): a partial image supplies something outside its region, or names a Panel past Pg. -/
def check14 (s : State) (i : Image) : Bool :=
  !i.full && s.imageCommitted &&
    (i.frames.any (fun f =>
      f.ty != 0xf && (decide (5 ≤ f.ty) ||
        !(if i.fore then i.region 0 (f.panel / 2) else i.region f.group f.panel))) ||
    (List.range 512).any (fun k =>
      i.region (k / 128) (k % 128) && decide (s.ldr.counts.getD (k / 128) 0 ≤ k % 128)))

/-- Check 15 (R197). -/
def check15 (s : State) (i : Image) : Bool :=
  !i.full && (!s.imageCommitted || i.n != s.nLen || i.s != s.sLen || i.fore ||
    (List.range 4).any (fun g => i.pg g != s.ldr.counts.getD g 0))

/-- A forerunner word has an index past the IK5132's (R209). -/
def badForeWord (f : Frame) (e : Nat × Nat × Nat) : Bool :=
  (readOpds f true e.1 e.2.1 e.2.2).any (fun x =>
    x / 4096 == 1 && decide (31 < x % 4096) || x / 4096 == 2 && decide (15 < x % 4096) ||
      x / 4096 == 0 && decide (2047 < x))

/-- A route entry of a FROUTE frame (R215). -/
def routeEntries (i : Image) : List Nat :=
  (i.ofTy 0xa).flatMap (fun f => (List.range f.count).map (fun k => at_ f.data (8 * k) 8))

/-- Check 16 (R209). A virtual egress slot lies in four bits, so it exceeds 15 only through its zero field. An entry whose
bits [63:44] are not zero is refused here too.
DEDUCED (log 24; unsafe). DESIGN CHOICE (log 43; unsafe). -/
def check16 (i : Image) (chainLen : Nat) : Bool :=
  i.fore && (decide (2048 < i.n) || decide (256 < i.v) || decide (1 < chainLen) || i.anyWord badForeWord ||
    (i.ofTy 4).any (fun f => (List.range (16 * f.count)).any (fun k => decide (31 < at_ f.data (6 * k / 8) 2 / 2 ^ (6 * k % 8) % 64))) ||
    (routeEntries i).any (fun e =>
      decide (i.v ≤ fld e 23 16) || decide (i.v ≤ fld e 39 32) || fld e 31 28 != 0 || fld e 63 44 != 0))

/-- Check 17 (R130, R188, R209). -/
def check17 (s : State) (i : Image) : Bool :=
  (List.range 4).any (fun g =>
    decide (s.usable g < i.pg g) ||
      (List.range 4).any (fun m => s.modDown g m) &&
        (i.pg g != 0 || (i.ofTy 5).any (fun f => f.group == g &&
          (frameRows f 9984).any (fun row => (List.range 6144).any (fun d => entry13 row d != 8191)))))

/-- The content checks in order; the number of the first that fails (R200). -/
def contentCheck (s : State) (i : Image) (chainLen : Nat) : Option Nat :=
  let n := i.n
  let checks : List (Nat × Bool) := [
    (1, decide (n < 64) || decide (4096 < n) || n % 16 != 0),
    (2, decide (i.s < 16) || decide (1023 < i.s)),
    (3, (List.range 4).any (fun g => decide (128 < i.pg g))),
    (4, check4 i),
    (5, i.anyWord (fun _ e => fld e.2.2 57 56 != 0)),
    (6, i.anyWord (fun _ e => decide (10 ≤ fld e.2.2 79 76))),
    (7, i.anyWord (fun f e => (readOpds f i.fore e.1 e.2.1 e.2.2).any reservedIndex)),
    (8, i.anyWord (fun _ e =>
      decide (3 ≤ fld e.2.2 79 76) && selReserved (fld e.2.2 79 76) (fld e.2.2 55 42))),
    (9, i.anyWord (fun _ e => fld e.2.2 79 76 == 8 && decide (n ≤ e.1 + 7))),
    (10, check10 i), (11, check11 i), (12, check12 i),
    (13, badPinMap i || badQLayout s i || badGauges i),
    (14, check14 s i), (15, check15 s i), (16, check16 i chainLen), (17, check17 s i)]
  (checks.find? (·.2)).map (·.1)

/-- The result code of a content check (R200). -/
def checkCode (c : Nat) : Nat := if c = 14 then 5 else if c = 17 then 6 else 8

end Sys2Proof.Machine
end

