-- ==== Sys2Proof/Machine/Loader.lean ====
section
/-! DEFINITION. The loader (R211-R251): ring and pointers, the load state machine, forwarding and chain messages, and the
key slots. -/
namespace Sys2Proof.Machine

/-- The states of LDR_STS.STATE (R229). -/
def ldIdle : Nat := 0
def ldReceive : Nat := 1
def ldCheck : Nat := 2
def ldForward : Nat := 3
def ldReady : Nat := 4
def ldCommitWait : Nat := 5
def ldCommit : Nat := 6
def ldDrain : Nat := 7

/-- The LDR_ page. -/
def ldrPg : PageId := ⟨.ldr, 0⟩

/-- LDR_STS.STATE. -/
def State.ldSt (s : State) : Nat := s.f ldrPg 0x44 2 0
def State.setLdSt (s : State) (v : Nat) : State := s.setF ldrPg 0x44 2 0 v

/-- This device's position in the load, and CHAIN_LEN (LDR_STS). -/
def State.ldPos (s : State) : Nat := s.f ldrPg 0x44 15 8
def State.ldLen (s : State) : Nat := s.f ldrPg 0x44 23 16

/-- Ring pointers in units (R223). -/
def State.wrPtr (s : State) : Nat := (s.reg ldrPg 0x68).toNat
def State.rdPtr (s : State) : Nat := (s.reg ldrPg 0x6c).toNat

/-- LDR_CTL.SRC. -/
def State.ldSrc (s : State) : Bool := s.f ldrPg 0x40 8 8 == 1

/-- The ring and the work area meet the first two conditions of R222. -/
def State.areasOk (s : State) : Bool :=
  let k := s.f ldrPg 0x58 5 0
  decide (26 ≤ k) && decide (k ≤ 32) && s.ringBase % 65536 == 0 && s.workBase % 65536 == 0 &&
    decide (s.ringBase + s.ringSize ≤ hbmEnd) && decide (s.workBase + 2 ^ 32 ≤ hbmEnd) &&
    !overlap s.ringBase s.ringSize s.workBase (2 ^ 32)

/-- The bytes from a to e lie in enabled Sealed regions, `fuel` of them at most. -/
def State.sealedRun (s : State) : Nat → Nat → Nat → Bool
  | 0, a, e => decide (e ≤ a)
  | fuel + 1, a, e =>
    decide (e ≤ a) ||
      match s.regionOf (stackOf a) a with
      | none => false
      | some i =>
        let r := s.region (stackOf a) i
        r.mode == 2 && s.sealedRun fuel (r.base + r.size) e

/-- An area overlaps no window of the committed image's queues. -/
def State.clearOfQueues (s : State) (a n : Nat) : Bool :=
  (List.range 64).all (fun k =>
    let d := s.qDesc (k / 16) (k % 16)
    !d.en || !overlap a n d.base (2 ^ d.winLog))

/-- The ring and the work area meet every condition of R222. -/
def State.allAreasOk (s : State) : Bool :=
  s.areasOk && s.clearOfQueues s.ringBase s.ringSize && s.clearOfQueues s.workBase (2 ^ 32) &&
    s.sealedRun 32 s.ringBase (s.ringBase + s.ringSize) && s.sealedRun 32 s.workBase (s.workBase + 2 ^ 32)

/-- A message upstream; the head sends none. -/
def sendUp (s : State) (m : ChainMsg) : State := if s.ldr.head then s else sendPacket s s.ldr.up (.chain m)

/-- A message downstream; the last position sends none. -/
def sendDown (s : State) (m : ChainMsg) : State :=
  if s.ldPos + 1 < s.ldLen then sendPacket s s.ldr.down (.chain m) else s

/-- What a load leaves of the loader's working state: keys and the committed image's facts (R246). -/
def Loader.cleared (l : Loader) : Loader :=
  { l with part := [], seg := [], segLen := none, key := 0, plain := [], passed := false, fwdSegs := 0, fwdPre := [],
           fwdPos := 0, refused := none, endSeen := false, ended := false, timer := false }

/-- LDR_RESULT (R249, R251). -/
def loadResult (code check failPos failCode : Nat) : Word :=
  BitVec.ofNat 32 (failCode % 16 * 2 ^ 24 + failPos % 64 * 2 ^ 16 + check % 32 * 2 ^ 4 + code)

/-- The capture INFO of a load's end (R251). -/
def loadInfo (code check pos : Nat) : Nat := code + check % 32 * 2 ^ 4 + pos % 64 * 2 ^ 16

/-- The loader is IDLE again, with an empty ring and nothing of the load (R224, R246). -/
def ldrIdle (s : State) : State :=
  let s := (s.setLdSt ldIdle).setReg ldrPg 0x6c (s.reg ldrPg 0x68)
  s.withLdr s.ldr.cleared

/-- LOAD_DONE, and LOAD_FAIL for any result but LD_OK (R249). -/
def reportLoad (s : State) (code check : Nat) : State :=
  let info := loadInfo code check s.ldPos
  if code = 0 then raise s ldrPg 8 info else raise (raise s ldrPg 8 info) ldrPg 9 info

/-- A load that is given up before its stream has passed has nothing more to forward: bytes that wait on the downstream bundle go,
and an END behind them (R232, R551).
DESIGN CHOICE (log 43; unsafe). -/
def dropBytes (s : State) : State :=
  let b := s.ldr.down
  let x := (s.bundle b).tx
  s.setTx b { x with data := [], queue := x.queue.filter (fun p => p != .chain .end_) }

/-- The load returns to IDLE with a result (R224, R249, R251). -/
def finishLoad (s : State) (code check failPos failCode : Nat) : State :=
  reportLoad (ldrIdle (s.setReg ldrPg 0x48 (loadResult code check failPos failCode))) code check

/-- The load's own refusal that it holds ends it (R249). -/
def finishRefused (s : State) (code check : Nat) : State := finishLoad (dropBytes s) code check s.ldPos code

/-- The device refuses its own segment, or its stream (R231, R237): FAIL upstream, then DRAIN if the stream has not
ended. -/
def refuseLoad (s : State) (code check : Nat) : State :=
  let s := sendUp s (.fail s.ldPos code check)
  if s.ldr.ended then finishRefused s code check
  else (s.setLdSt ldDrain).withLdr { s.ldr with refused := some (code, check), passed := false }

/-- VENEER_ERR for a failed access of the loader (R225, R251): not where the ring network alone completed it unperformed. -/
def accessFailed (s : State) (c : Nat) : State := if c < 16 then raise s ldrPg 11 0 else s

/-- A loader access failed (R225): a Veneer bus error, or a STATUS 3 or 4 of the ring network, for which the spec gives no result
code; LD_BADTAG in both cases. In FORWARD nothing more goes downstream, neither END nor ABORT.
DESIGN CHOICE (log 45; unsafe). -/
def veneerRefuse (s : State) (c : Nat) : State := refuseLoad (accessFailed s c) 3 0

/-- The load is given up after the own segment passed (R239, R551). -/
def chainEndLoad (s : State) (pos code : Nat) : State := finishLoad (dropBytes s) 7 0 pos code

/-! ### The ring -/

/-- The HBM address of ring unit u (R223). -/
def State.unitAddr (s : State) (u : Nat) : Nat := s.ringBase + 16 * u % s.ringSize

/-- The loader writes the whole units among its waiting bytes to the ring, `fuel` at most (R226), while it has a free response
buffer (R434); where one fails, those behind it are written all the same. The limit of R223 is for writes of LDR_WR_PTR: units that
LDR_DATA or a bundle brings while the ring is full go over units not yet consumed, and LDR_WR_PTR advances without a test.
DESIGN CHOICE (log 46; unsafe). -/
def writeUnits : Nat → State → State
  | 0, s => s
  | fuel + 1, s =>
    if s.ldr.part.length < 16 ∨ s.bufferFree 10 = false then s
    else
      let u := s.wrPtr
      let (c, s) := netWrite s .loader (s.unitAddr u) (s.ldr.part.take 16) 0xffff clearTrip
      let s := s.withLdr { s.ldr with part := s.ldr.part.drop 16 }
      let s := s.setReg ldrPg 0x68 (BitVec.ofNat 32 (u + 1))
      writeUnits fuel
        (if c = 0 then s
        else if s.ldSt = ldReceive ∨ s.ldSt = ldCheck ∨ s.ldSt = ldForward then veneerRefuse s c
        else accessFailed s c)

/-- Bytes for the ring that the loader itself writes: from a bundle, or from LDR_DATA. -/
def feedRing (s : State) (bs : List Nat) : State := s.withLdr { s.ldr with part := s.ldr.part ++ bs }

/-- Forwarded bytes counted by segment, from the clear prefixes that pass (R236). -/
def countForward (l : Loader) (bs : List Nat) : Loader :=
  let pre := if l.fwdPre.length < 64 then l.fwdPre ++ bs else l.fwdPre
  let pos := l.fwdPos + bs.length
  if 64 ≤ pre.length ∧ max 64 (at_ pre 16 8) ≤ pos then
    { l with fwdSegs := l.fwdSegs + 1, fwdPre := [], fwdPos := 0 }
  else { l with fwdPre := pre, fwdPos := pos }

/-- The loader takes units now: in RECEIVE up to the clear prefix, and after it up to SEG_LEN; in FORWARD and DRAIN
always (R223, R229).
DEDUCED (log 25; unsafe). -/
def wantsUnit (s : State) : Bool :=
  s.rdPtr != s.wrPtr && s.bufferFree 10 &&
    (if s.ldSt = ldReceive then
      match s.ldr.segLen with
      | none => decide (s.ldr.seg.length < 64)
      | some n => decide (s.ldr.seg.length < n)
    else s.ldSt == ldForward || s.ldSt == ldDrain)

/-- The loader consumes units while it takes them, `fuel` at most (R223). -/
def pumpUnits : Nat → State → State
  | 0, s => s
  | fuel + 1, s =>
    if wantsUnit s then
      let u := s.rdPtr
      let (c, bs, s) := netRead s .loader (s.unitAddr u) 16 clearTrip
      let s := (s.setReg ldrPg 0x6c (BitVec.ofNat 32 (u + 1))).setReg64 ldrPg 0xc8 (s.reg64 ldrPg 0xc8 + 16)
      if s.ldSt = ldDrain then pumpUnits fuel (if c = 0 then s else accessFailed s c)
      else if c ≠ 0 then pumpUnits fuel (veneerRefuse s c)
      else if s.ldSt = ldReceive then
        pumpUnits fuel (s.withLdr { s.ldr with seg := s.ldr.seg ++ bs })
      else
        let s := sendBytes s s.ldr.down bs
        pumpUnits fuel (s.withLdr (countForward s.ldr bs))
    else s

/-- What has come behind the own segment (R232, R236): bytes that fill no unit are forwarded, too, on a device behind the
head. At the head only units reach the ring (R226). -/
def forwardRest (s : State) : State :=
  if s.ldr.head then s
  else
    let bs := s.ldr.part
    let s := sendBytes s s.ldr.down bs
    let s := s.setReg64 ldrPg 0xc8 (s.reg64 ldrPg 0xc8 + bs.length)
    s.withLdr { countForward s.ldr bs with part := [] }

/-- The stream ends for the device (R224, R229, R232, R236). A device in FORWARD sends the rest of the stream and END also where
END has come short, and then refuses. LDR_CHAIN_TMO counts as it stands then: a later write changes no
timer that runs.
DESIGN CHOICE (log 45; unsafe). -/
def streamEnds (s : State) : State :=
  let s := s.withLdr { s.ldr with ended := true, endSeen := true }
  if s.ldSt = ldReceive then
    let whole := match s.ldr.segLen with
      | none => false
      | some n => decide (n ≤ s.ldr.seg.length)
    if whole then s else refuseLoad s 1 0
  else if s.ldSt = ldCheck then
    if s.ldr.passed then (sendUp s .ready).setLdSt ldReady else s
  else if s.ldSt = ldForward then
    let s := sendDown (forwardRest s) .end_
    if !s.ldr.head && decide (s.ldPos + 1 + s.ldr.fwdSegs < s.ldLen) then
      finishLoad (sendUp s (.fail s.ldPos 1 0)) 1 0 s.ldPos 1
    else s.withLdr { s.ldr with timer := s.f ldrPg 0x64 15 0 != 0 }
  else if s.ldSt = ldDrain then
    match s.ldr.refused with
    | some (code, check) => finishRefused s code check
    | none => s
  else s

/-- The end of the stream is due (R224): END has come, and every unit is consumed; none waits for a response buffer, either. -/
def State.streamDue (s : State) : Bool :=
  s.ldr.endSeen && !s.ldr.ended && s.rdPtr == s.wrPtr && decide (s.ldr.part.length < 16) && s.ldSt != ldIdle

/-- A device behind the head holds bytes that it has not consumed. -/
def State.surplus (s : State) : Bool := !s.ldr.head && (s.rdPtr != s.wrPtr || !s.ldr.part.isEmpty)

/-- The loader works on what the ring holds. At the last position a byte after the own segment refuses (R236). On a
device behind the head the stream ends by itself when END has come and the ring is empty.
DEDUCED (log 25; unsafe). -/
def pump (s : State) : State :=
  let s := writeUnits (s.ldr.part.length / 16) s
  let s := pumpUnits ((s.wrPtr + 2 ^ 32 - s.rdPtr) % 2 ^ 32) s
  let s :=
    if s.ldSt = ldCheck ∧ s.ldr.passed ∧ s.surplus = true then
      let s := refuseLoad s 8 0
      pumpUnits ((s.wrPtr + 2 ^ 32 - s.rdPtr) % 2 ^ 32) s
    else s
  if !s.ldr.head && s.streamDue then streamEnds s else s

/-- A line access of the loader met a bus error (R225): while a load takes its stream, one to the ring or the work area
refuses it. -/
def loaderBusError (s : State) (line : Nat) : State :=
  let a := 64 * line
  let near := overlap a 64 s.ringBase s.ringSize || overlap a 64 s.workBase (2 ^ 32)
  if near && (s.ldSt == ldReceive || s.ldSt == ldCheck || s.ldSt == ldForward) then pump (veneerRefuse s 1)
  else raise s ldrPg 11 0

/-! ### Commands of LDR_CTL and the stream -/

/-- A new load begins (R224, R231). Until a prefix is taken CHAIN_LEN shows 0, and LDR_LOAD_ID at the head what the last load
left.
DESIGN CHOICE (log 45; unsafe). -/
def beginLoad (s : State) (head : Bool) (b pos : Nat) (id : Word) : State :=
  let s := s.withLdr { s.ldr.cleared with
    head := head, up := b, startPos := pos, startId := id, part := if head then s.ldr.part else [] }
  let s := (s.setF ldrPg 0x44 15 8 pos).setF ldrPg 0x44 23 16 0
  (s.setReg64 ldrPg 0xc8 0).setLdSt ldReceive

/-- GO (R222, R224). While the LDR_ page is not ON no rule names an outcome: it is ignored with SEQ_FAIL, as in any state but IDLE.
DESIGN CHOICE (log 46; unsafe). -/
def ldrGo (s : State) : State :=
  if s.on ldrPg && s.ldSt == ldIdle && s.areasOk then
    pump ((beginLoad s true 0 0 0).setReg64 ldrPg 0xc0 0)
  else raise s ldrPg bSeqFail 0

/-- END (R224): marks the end of the host stream, while a load from the host is in hand.
DEDUCED (log 25; unsafe). -/
def ldrEnd (s : State) : State :=
  if s.ldSt ≠ ldIdle ∧ s.ldr.head then pump (s.withLdr { s.ldr with endSeen := true }) else s

/-- STREAM_END (R224). -/
def ldrStreamEnd (s : State) : State := if s.streamDue then streamEnds s else s

/-- A write of 1 to LDR_CTL.ABORT (R239). -/
def ldrAbort (s : State) : State :=
  let st := s.ldSt
  if st = ldReceive ∨ st = ldCheck then pump (refuseLoad s 1 0)
  else if st = ldForward ∨ st = ldReady then
    chainEndLoad (sendDown s (.abort s.ldPos (s.reg ldrPg 0x4c))) s.ldPos 0xf
  else if st = ldDrain then
    match s.ldr.refused with
    | some (code, check) => finishRefused s code check
    | none => s
  else raise s ldrPg bSeqFail 0

/-- The device is ordered to commit (R231, R238). -/
def orderCommit (s : State) : State :=
  ((sendDown s (.commit (s.reg ldrPg 0x4c))).setLdSt ldCommitWait).withLdr { s.ldr with timer := false }

/-- A write of 1 to LDR_CTL.COMMIT (R238, R239). -/
def ldrCommit (s : State) : State := if s.ldSt = ldReady then orderCommit s else raise s ldrPg bSeqFail 0

/-- A write of LDR_WR_PTR by a requester (R223, R228); the register already holds the old value. -/
def writeWrPtr (s : State) (v : Word) : State :=
  if s.ldSrc || decide (s.ringSize / 16 < (v.toNat + 2 ^ 32 - s.rdPtr) % 2 ^ 32) then raise s ldrPg bSeqFail 0
  else pump (s.setReg ldrPg 0x68 v)

/-- LDR_DATA (R226, R228); ignored in Retain and Dormant (R545); and while the LDR_ page is not ON, for which no rule names an
outcome.
DESIGN CHOICE (log 46; unsafe). -/
def ldrDataWord (s : State) (w : Word) : State :=
  if s.ldSrc && s.on ldrPg && decide (s.f (pg .pwr) 0x44 2 0 < 3) then pump (feedRing s (bytesLE 4 w.toNat)) else s

/-- Bytes of a DATA unit or a LOAD frame reach the loader (R233): they are its stream while it is loading behind the
head, and while SRC is 0 (R228). -/
def streamBytes (s : State) (b : Nat) (bs : List Nat) : State :=
  let st := s.ldSt
  if !s.ldr.head && !s.ldSrc && s.ldr.up == b && (st == ldReceive || st == ldCheck || st == ldForward || st == ldDrain) &&
      !s.ldr.endSeen then
    pump (feedRing s bs)
  else s

/-! ### The own segment -/

/-- The key of a slot, if it may be used (R218). -/
def State.slotKey (s : State) (slot : Nat) : Option (BitVec 256) :=
  if slot < 4 then
    if s.ldr.retired.getLsbD slot then none else Tab.get (fun _ => none) s.ldr.fuses slot
  else if slot = 4 then s.ldr.batt
  else none

/-- SEGMENT_PREFIX (R229, tests 1 and 2). LDR_STS shows the prefix's CHAIN_LEN, and LDR_LOAD_ID at the head its LOAD_ID,
also where a test fails (R250). No test compares CHAIN_POS at the head, and LDR_STS then shows the prefix's. The
key of the slot is taken here: a slot that is cleared, retired or rewritten before the tag is verified changes nothing for this
load; R221 speaks of a load that has already decrypted alone.
DESIGN CHOICE (log 45; unsafe). DESIGN CHOICE (log 46; unsafe). -/
def segmentPrefix (s : State) : State :=
  if s.ldSt = ldReceive ∧ s.ldr.segLen = none ∧ 64 ≤ s.ldr.seg.length then
    let p := s.ldr.seg
    let pos := at_ p 37 1
    let id := BitVec.ofNat 32 (at_ p 40 4)
    let s := s.setF ldrPg 0x44 23 16 (at_ p 38 1)
    let s := if s.ldr.head then s.setReg ldrPg 0x4c id else s
    if prefixSound p && at_ p 8 8 == s.drw.serial.toNat &&
        (s.ldr.head || pos == s.ldr.startPos && id == s.ldr.startId) then
      let s := (s.setF ldrPg 0x44 15 8 pos).setReg ldrPg 0x4c id
      match s.slotKey (at_ p 36 1) with
      | none => pump (refuseLoad s 4 0)
      | some k => pump (s.withLdr { s.ldr with segLen := some (at_ p 16 8), key := k })
    else pump (refuseLoad s 8 0)
  else s

/-- A key of the loader with its bytes in the order of the standard (R5: byte j is key bits [8j+7:8j]). -/
def keyBytesFirst (k : BitVec 256) : BitVec 256 := BitVec.ofNat 256 (blockNat (bytesLE 32 k.toNat))

/-- TAG_VERIFY (R213, R229 test 4, R230): the plaintext goes to the work area. -/
def tagVerify (s : State) : State :=
  if s.ldSt = ldReceive ∧ s.ldr.segLen = some s.ldr.seg.length ∧ s.bufferFree 10 = true then
    let g := s.ldr.seg
    let body := (g.drop 64).take (g.length - 80)
    let key := keyBytesFirst s.ldr.key
    let nonce := (g.drop 24).take 12
    if gcmTag key nonce (g.take 64) body = g.drop (g.length - 16) then
      let plain := gcmCrypt key nonce body
      let (c, s) := vnrWriteRun s .loader s.workBase plain
      if c ≠ 0 then pump (veneerRefuse s c)
      else (s.setLdSt ldCheck).withLdr { s.ldr with plain := plain }
    else pump (refuseLoad s 3 0)
  else s

/-- The staged image. -/
def Loader.image (l : Loader) : Option Image :=
  (parseFrames (l.plain.length / 16) (l.plain.drop 1152)).map (fun fs => ⟨l.plain.take 1152, fs⟩)

/-- CHECK_END (R229 tests 5 to 7, R231). -/
def checkEnd (s : State) : State :=
  if s.ldSt = ldCheck ∧ s.ldr.passed = false ∧ s.bufferFree 10 = true then
    let (c, plain, s) := vnrReadRun s .loader s.workBase s.ldr.plain.length
    if c ≠ 0 then pump (veneerRefuse s c)
    else
      let s := s.withLdr { s.ldr with plain := plain }
      let devclass := at_ plain 0 4
      if devclass ≠ 0x7264 ∧ devclass ≠ 0x5132 then pump (refuseLoad s 2 0)
      else
        match s.ldr.image with
        | none => pump (refuseLoad s 8 0)
        | some i =>
          if !i.sound s.ldLen || i.chainSerial s.ldPos != s.drw.serial.toNat then pump (refuseLoad s 8 0)
          else
            match contentCheck s i s.ldLen with
            | some k => pump (refuseLoad s (checkCode k) k)
            | none =>
              let s := s.withLdr { s.ldr with passed := true }
              if s.ldLen = 1 then s.setLdSt ldCommitWait
              else if s.ldPos + 1 = s.ldLen then
                if s.ldr.ended then
                  (if s.surplus then refuseLoad s 8 0 else (sendUp s .ready).setLdSt ldReady)
                else pump s
              else
                let b := i.inBundle (s.ldPos + 1)
                let s := (s.setLdSt ldForward).withLdr { s.ldr with down := b }
                let s := sendDown s (.start (s.ldPos + 1) (s.reg ldrPg 0x4c))
                if s.ldr.ended then streamEnds s else pump s
  else s

/-! ### Chain messages that arrive -/

/-- START (R231, R234). -/
def chainStart (s : State) (b pos : Nat) (id : Word) : State :=
  if s.on ldrPg && s.ldSt == ldIdle && !s.ldSrc && s.allAreasOk then
    (beginLoad s false b pos id).setReg ldrPg 0x4c id
  else sendPacket s b (.chain (.fail pos 0xd 0))

/-- END (R236): the stream ends once the ring is empty. -/
def chainEnd (s : State) : State :=
  if !s.ldr.head && s.ldSt != ldIdle then pump (s.withLdr { s.ldr with endSeen := true }) else s

/-- READY from downstream (R231, R238).
DEDUCED (log 25; unsafe). -/
def chainReady (s : State) : State :=
  if s.ldSt = ldForward then
    if s.ldr.head then orderCommit s
    else ((sendUp s .ready).setLdSt ldReady).withLdr { s.ldr with timer := false }
  else s

/-- FAIL from downstream (R231, R237).
DEDUCED (log 25; unsafe). -/
def chainFail (s : State) (pos code check : Nat) : State :=
  if s.ldSt = ldForward then chainEndLoad (sendUp s (.fail pos code check)) pos code else s

/-- COMMIT from upstream (R231, R238). One with another LOAD_ID is of another load and is ignored.
DEDUCED (log 25; unsafe). DESIGN CHOICE (log 45; unsafe). -/
def chainCommit (s : State) (id : Word) : State :=
  if s.ldSt = ldReady ∧ id = s.reg ldrPg 0x4c then orderCommit s else s

/-- ABORT from upstream (R551). One with another LOAD_ID is of another load and is ignored.
DESIGN CHOICE (log 45; unsafe). -/
def chainAbort (s : State) (pos : Nat) (id : Word) : State :=
  let st := s.ldSt
  if s.ldr.head || id != s.reg ldrPg 0x4c then s
  else if st = ldReceive ∧ s.ldr.segLen ≠ some s.ldr.seg.length then
    refuseLoad (s.withLdr { s.ldr with ended := true }) 1 0
  else if st = ldReceive ∨ st = ldCheck then chainEndLoad s pos 0xf
  else if st = ldForward ∨ st = ldReady then chainEndLoad (sendDown s (.abort pos id)) pos 0xf
  else if st = ldDrain then
    match s.ldr.refused with
    | some (code, check) => finishRefused s code check
    | none => s
  else s

/-- DONE from downstream, or of this device (R240). -/
def chainDone (s : State) (pos : Nat) : State :=
  if s.ldr.head then
    s.setReg64 ldrPg 0xc0 ((BitVec.ofNat 64 (s.reg64 ldrPg 0xc0) ||| BitVec.ofNat 64 (2 ^ pos)).toNat)
  else sendUp s (.done pos)

/-- CHAIN_TIMEOUT (R235). -/
def chainTimeout (s : State) : State :=
  if s.ldr.timer then chainFail s (s.ldPos + 1) 0xe 0 else s

/-- The upstream bundle detaches during a load (R236). -/
def ldrLinkLost (s : State) (b : Nat) : State :=
  if s.ldr.head || s.ldr.up != b then s
  else
    let st := s.ldSt
    if st = ldReceive ∨ st = ldCheck then finishRefused s 1 0
    else if st = ldForward then finishRefused (sendDown s (.abort s.ldPos (s.reg ldrPg 0x4c))) 1 0
    else if st = ldDrain then
      match s.ldr.refused with
      | some (code, check) => finishRefused s code check
      | none => s
    else s

/-- The stop sequence of the LDR_ page begins (R248): a load before its commit is abandoned, with its drain.
DEDUCED (log 25; unsafe). -/
def ldrStops (s : State) : State :=
  let s := if s.ldSt = ldIdle ∨ s.ldSt = ldCommitWait ∨ s.ldSt = ldCommit then s else ldrAbort s
  if s.ldSt = ldDrain then ldrAbort s else s

/-! ### Key slots (R217-R221) -/

/-- A refused key operation. -/
def keyFail (s : State) (slot : Nat) : State := raise s ldrPg 10 slot

/-- BURN (R219).
DEDUCED (log 25; unsafe). -/
def keyBurn (s : State) (slot : Nat) : State :=
  if (Tab.get (fun _ => none) s.ldr.fuses slot).isSome || s.ldSt != ldIdle || decide (s.f (pg .pwr) 0x60 15 0 < 11400) then
    keyFail s slot
  else s.withLdr { s.ldr with fuses := Tab.set (fun _ => none) s.ldr.fuses slot (some s.ldr.keyData) }

/-- RETIRE (R219).
DEDUCED (log 25; unsafe). -/
def keySlotRetire (s : State) (slot : Nat) : State :=
  s.withLdr { s.ldr with retired := s.ldr.retired ||| BitVec.ofNat 4 (2 ^ slot) }

/-- BATT_WRITE (R220). -/
def battWrite (s : State) : State := s.withLdr { s.ldr with batt := some s.ldr.keyData }

/-- BATT_CLEAR (R220). -/
def battClear (s : State) : State := s.withLdr { s.ldr with batt := none }

/-- The tamper input fires, or VBAT falls below 2.5 V (R220): TAMPER follows at the next power-on.
DEDUCED (log 26; unsafe). -/
def battLost (s : State) : State := s.withLdr { s.ldr with batt := none, tamper := true }

/-- LDR_KEY_DATA is cleared once the commands of the write have acted (R221). -/
def clearKeyData (s : State) : State := s.withLdr { s.ldr with keyData := 0 }

/-! ### The commands -/

def execStreamEnd (s : State) := done (ldrStreamEnd s)
def execSegmentPrefix (s : State) := done (segmentPrefix s)
def execTagVerify (s : State) := done (tagVerify s)
def execCheckEnd (s : State) := done (checkEnd s)
def execChainTimeout (s : State) := done (chainTimeout s)
def execTamper (s : State) := done (battLost s)
def execVbatLow (s : State) := done (battLost s)

end Sys2Proof.Machine
end

