-- ==== Sys2Proof/Machine/Bundle.lean ====
section
/-! DEFINITION. Bundles (R287-R331): lane equalization, what packets do, retry, training and discovery, the topology table,
failover and degradation, and the bundle registers' commands. -/
namespace Sys2Proof.Machine

/-- BND_ instance 0, which serves the whole device. -/
def bnd0 : PageId := ⟨.bnd, 0⟩

/-- The device follows an upstream bundle; which one; it is LOCKED (BND_CLK, R313). -/
def State.follows (s : State) : Bool := s.f bnd0 0x80 0 0 == 1
def State.upstream (s : State) : Nat := s.f bnd0 0x80 6 4
def State.clkLocked (s : State) : Bool := s.f bnd0 0x80 8 8 == 1

/-- The step clock takes a frequency in MHz (R19, R313, R505). -/
def setMhz (s : State) (m : Nat) : State := s.withCyc { s.cyc with mhz := m }

/-- The step clock runs (R490): Active or Hold; and steps of the Cabinet step count pass: from the end of start-up on, and
not in Idle and Retain, where it holds (R314, R493). -/
def State.stepRuns (s : State) : Bool := s.f (pg .pwr) 0x44 2 0 == 1
def State.stepsPass (s : State) : Bool := s.stepRuns && !s.pwr.off && !s.pwr.starting

/-- The count moves on to a step of the execution or of the hold. -/
def countTo (s : State) (c : Nat) : State := if s.executing then moveStep s (c - s.cyc.t0) else moveCount s c

/-- A step of the execution or of the hold, by its count, that is not past, while steps pass: in an execution none from T
on; in a hold, but where the CYC_ page is OFF, none past the next release vote or release point (R24, R160). -/
def State.stepAhead (s : State) (c : Nat) : Bool :=
  s.stepsPass && decide (s.cyc.csc ≤ c) &&
    (if s.executing then decide (c < s.cyc.t0 + s.tStep)
     else s.cycOff || decide (c ≤ s.cyc.nextRel) && decide (c + s.prop ≤ s.cyc.voteFor))

/-- CAPT INFO of a BND_ event with a top field (R330). -/
def bndInfo (top count : Nat) : Nat := top * 2 ^ 20 + count % 4096

/-! ### Lane equalization (R292-R295) -/

/-- The default equalization entry (R295). -/
def defaultEq : Nat := 60 * 2 ^ 6 + 51 * 2 ^ 12 + 56 * 2 ^ 18 + 8 * 2 ^ 24 + 2 * 2 ^ 28 + 2 ^ 63

/-- A stored Drawer byte outside the snapshots and the repair map. -/
def State.drawerByte (s : State) (a : Nat) : Nat := (Tab.get (zeroAt 8) s.drw.bytes a).toNat

/-- The lane equalization table's bytes (R517: at 0x05_1000). -/
def State.eqTable (s : State) : List Nat := (List.range 880).map (fun i => s.drawerByte (0x51000 + i))

/-- |x| of a signed field of six bits. -/
def abs6 (x : Nat) : Nat := if x < 32 then x else 64 - x

/-- An entry may be used (R295). -/
def eqEntryOk (e : Nat) : Bool :=
  fld e 63 63 == 1 && fld e 31 31 == 0 && fld e 62 52 == 0 &&
    decide (abs6 (fld e 5 0) + abs6 (fld e 11 6) + fld e 17 12 + abs6 (fld e 23 18) ≤ 63)

/-- The two entries of a lane, for RATE 0 and 1, as its start sequence finds them (R293, R295): none where the default entry
stands in. -/
def State.eqFound (s : State) (l : Nat) : Option (BitVec 64) × Option (BitVec 64) :=
  let t := s.eqTable
  let hdr := at_ t 0 4 == 0x45514c54 && at_ t 4 2 == 1 && at_ t 6 2 == 108 &&
    at_ t 8 4 == crcBytes ((t.drop 16).take 864)
  let entry := fun (rate : Nat) =>
    let e := at_ t (16 + 8 * (2 * l + rate)) 8
    if hdr && eqEntryOk e then some (BitVec.ofNat 64 e) else none
  (entry 0, entry 1)

/-- A lane uses the entry of the step clock in force (R293, R295). -/
def chooseEq (s : State) (l : Nat) : State :=
  let p : PageId := ⟨.ln, l⟩
  let es := Tab.get (fun _ => (none, none)) (s.bundle (l / 9)).eqs (l % 9)
  match if 1200 ≤ s.cyc.mhz then es.1 else es.2 with
  | some e => s.setReg64 p 0x4c e.toNat
  | none => raise (s.setReg64 p 0x4c defaultEq) p 11 0

/-- The start sequence of an LN_ page loads its entry (R292, R293, R295). -/
def laneStarts (s : State) (l : Nat) : State :=
  let x := s.bundle (l / 9)
  chooseEq (s.setBundle (l / 9) { x with eqs := Tab.set (fun _ => (none, none)) x.eqs (l % 9) (s.eqFound l) }) l

/-- The step clock has changed (R293, R505): every lane that is ON chooses between its two entries again. -/
def eqAgain (s : State) : State := ((List.range 54).filter (fun l => s.on ⟨.ln, l⟩)).foldl chooseEq s

/-! ### The topology table (R321) -/

/-- This device's own entry. -/
def State.ownTopo (s : State) : TopoEntry :=
  ⟨s.drw.serial, s.topo.version, (List.range 6).map (fun b =>
    if s.bup b then some (BitVec.ofNat 64 (s.reg64 (bndPg b) 0x48), BitVec.ofNat 3 (s.f (bndPg b) 0x44 22 20))
    else none)⟩

/-- The device at the far end of bundle b of an entry, where both list the link. -/
def countedNbr (all : List TopoEntry) (e : TopoEntry) (b : Nat) : Option (BitVec 64) :=
  match e.nbrs.getD b none with
  | none => none
  | some (sn, j) =>
    match all.find? (fun x => x.serial == sn) with
    | none => none
    | some x => if x.nbrs.getD j.toNat none == some (e.serial, BitVec.ofNat 3 b) then some sn else none

/-- Serials reached from a list in one more hop. -/
def hopFrom (all : List TopoEntry) (l : List (BitVec 64)) : List (BitVec 64) :=
  (l ++ (all.filter (fun e => l.contains e.serial)).flatMap (fun e =>
    (List.range 6).filterMap (countedNbr all e))).eraseDups

/-- The serials reached from one within n hops, and the hops needed to reach the last of them. -/
def reachFrom (all : List TopoEntry) : Nat → Nat → List (BitVec 64) → List (BitVec 64) × Nat
  | 0, k, l => (l, k)
  | n + 1, k, l =>
    let m := hopFrom all l
    if m.length = l.length then (l, k) else reachFrom all n (k + 1) m

/-- Insert a serial in ascending order. -/
def insertSerial (x : BitVec 64) : List (BitVec 64) → List (BitVec 64)
  | [] => [x]
  | y :: r => if x.toNat ≤ y.toNat then x :: y :: r else y :: insertSerial x r

/-- The table as it follows from what is held: its serials in order, and the diameter. -/
def topoSerials (s : State) : List (BitVec 64) × Nat :=
  let all := s.ownTopo :: s.topo.held
  let n := all.length
  let (rs, _) := reachFrom all n 0 [s.drw.serial]
  let others := (rs.filter (· != s.drw.serial)).foldl (fun l x => insertSerial x l) []
  let dia := rs.foldl (fun d x => max d (reachFrom all n 0 [x]).2) 0
  (s.drw.serial :: others, dia)

/-- The shown entries: serial, and the neighbour's entry number by bundle. -/
def topoShow (s : State) (sn : List (BitVec 64)) : List (BitVec 64 × List (Option Nat)) :=
  let all := s.ownTopo :: s.topo.held
  sn.map (fun x =>
    (x, (List.range 6).map (fun b =>
      match all.find? (fun e => e.serial == x) with
      | none => none
      | some e => (countedNbr all e b).bind (fun y => sn.findIdx? (· == y)))))

/-- The table shown now; before any change it is the device alone. -/
def State.topoShown (s : State) : List (BitVec 64 × List (Option Nat)) :=
  if s.topo.shown = [] then [(s.drw.serial, List.replicate 6 none)] else s.topo.shown

/-- Bring the shown table up to date (R321): devices that are reached no more are dropped, and a change of the shown entries,
or of OVERFLOW, sets TOPO_CHG and ends STABLE. -/
def topoSettle (s : State) : State :=
  let (sn, dia) := topoSerials s
  let s := s.withTopo { s.topo with
    reach := sn
    held := s.topo.held.filter (fun e => sn.contains e.serial || !s.topo.reach.contains e.serial) }
  let long := decide (64 < sn.length)
  let new := topoShow s (sn.take 64)
  let same := new == s.topoShown && s.f bnd0 0x188 17 17 == bit long
  let s := s.withTopo { s.topo with shown := new }
  let s := ((s.setF bnd0 0x188 14 8 new.length).setF bnd0 0x188 17 17 (bit long)).setF bnd0 0x188 5 0
    (if long then 0x3f else dia)
  if same then s else raise (s.setF bnd0 0x188 16 16 0) bnd0 22 0

/-- The device's own set of UP partners has changed: VERSION advances and TOPO is sent (R321). -/
def ownTopoChanged (s : State) : State :=
  let s := s.withTopo { s.topo with version := s.topo.version + 1 }
  let s := topoSettle s
  sendAll s (.topo s.ownTopo)

/-- A received TOPO (R321): taken and relayed where its VERSION is newer than the one held.
DEDUCED (log 29; unsafe). -/
def topoIn (s : State) (b : Nat) (t : TopoEntry) : State :=
  let newer := match s.topo.held.find? (fun e => e.serial == t.serial) with
    | none => true
    | some e => t.version != e.version && decide ((t.version - e.version).toNat < 2 ^ 15)
  if t.serial = s.drw.serial ∨ !newer then s
  else
    let s := s.withTopo { s.topo with held := t :: s.topo.held.filter (fun e => e.serial != t.serial) }
    topoSettle ((s.upBundles.filter (· != b)).foldl (fun s c => sendPacket s c (.topo t)) s)

/-! ### Leaving UP, degradation (R319, R320, R327) -/

/-- Set the roles of a lane (LN_STS). -/
def setRxRole (s : State) (b k role logical : Nat) : State := (s.setF (lnPg b k) 0x44 1 0 role).setF (lnPg b k) 0x44 5 2 logical
def setTxRole (s : State) (b k role logical : Nat) : State := (s.setF (lnPg b k) 0x44 7 6 role).setF (lnPg b k) 0x44 11 8 logical

/-- Every lane of a bundle idle, and nothing of the training before is kept: the coders of its lanes start again (R291). What
RX_SPARE, TX_SPARE and the USED bits show outside UP the tables do not say: they keep what the last training or failover set.
DESIGN CHOICE (log 46; unsafe). -/
def clearBundle (s : State) (b : Nat) : State :=
  let s := (List.range 9).foldl (fun s k => (setTxRole (setRxRole s b k 3 0) b k 3 0).setF (lnPg b k) 0x44 14 14 0) s
  let x := s.bundle b
  s.setBundle b
    { x with checked := false, verdicts := false, partnerLocked := false, seen := false, spareOk := false,
             tx := { BundleTx.empty with corrupt := x.tx.corrupt }, rx := .empty, fail := none, txSwitch := none,
             sentInj := [], syms := [] }

/-- A bundle may train (R319): its page is ON, TRAIN_EN is 1 and the CYC_ page is OFF. -/
def State.mayTrain (s : State) (b : Nat) : Bool :=
  s.on (bndPg b) && s.f (bndPg b) 0x40 8 8 == 1 && s.cycOff

/-- The training block (R317): the marker, the receive verdict, and 960 bits of PRBS31. -/
def trainingBlock (verdict : Nat) : BitVec 1024 :=
  BitVec.ofNat 1024 (0x7e9c3a51 + verdict * 2 ^ 32 + (prbsRun 2 960 (2 ^ 31 - 1)).1 * 2 ^ 64)

/-- The lanes that passed the device's own check: those with a part in the receive direction. -/
def State.passMask (s : State) (b : Nat) : Nat :=
  (List.range 9).foldl (fun m k => if s.f (lnPg b k) 0x44 1 0 < 2 then m + 2 ^ k else m) 0

/-- What the device sends on a bundle's nine lanes: the symbols of so many lane bits, lane by lane, from the coders as they
stand (R290, R291). -/
def State.laneLevels (s : State) (b n v : Nat) : List (List (BitVec 2)) :=
  (List.range 9).map (fun k => ((s.laneCoding b k).run n 0 v (Tab.get (fun _ => .start) (s.bundle b).syms k)).1)

/-- What a bundle's lanes send goes out again and again: the coders then stand at free values. -/
def codersLost (s : State) (b : Nat) : State :=
  (s.withFree (s.free + 1)).setBundle b { s.bundle b with syms := codersAfter (Config.coder s.free) }

/-- The PRBS bits of a lane that wait to be inverted are those that it sends next (R323). -/
def sendInverted (s : State) (b k : Nat) : State :=
  let x := s.bundle b
  let n := Tab.get (fun _ => 0) x.inj k
  if n = 0 then s
  else
    (s.setBundle b { x with inj := Tab.set (fun _ => 0) x.inj k 0
                            sentInj := Tab.set (fun _ => 0) x.sentInj k (Tab.get (fun _ => 0) x.sentInj k + n) }).send
      (.prbsInverted (9 * b + k) n)

/-- The bundle's lanes send training blocks (R316, R317): in DETECT, LANE_TRAIN and LOCK, while it may train. -/
def State.inBlocks (s : State) (b : Nat) : Bool :=
  s.mayTrain b && decide (bsDetect ≤ s.bst b) && decide (s.bst b ≤ bsLock)

/-- A bundle's lanes send training blocks with a mask, DONE and the device's LOCKED (R317), with the injections that wait. -/
def sendVerdict (s : State) (b mask : Nat) (done : Bool) : State :=
  let block := trainingBlock (mask + bit done * 2 ^ 9 + bit s.clkLocked * 2 ^ 10)
  let s := codersLost (s.send (.trainingBlock b block (s.laneLevels b 1024 block.toNat))) b
  (List.range 9).foldl (fun s k => sendInverted s b k) s

/-- A bundle's lanes send training blocks, with its own verdict once its lane check is done. -/
def sendBlocks (s : State) (b : Nat) : State :=
  if s.inBlocks b then
    let done := (s.bundle b).checked
    sendVerdict s b (if done then s.passMask b else 0) done
  else s

/-- The device's LOCKED has changed: so do the blocks of the bundles that send them. -/
def sendLocked (s : State) : State := (List.range 6).foldl sendBlocks s

/-- A bundle goes to a state outside UP. One that was UP ends its packets, its load (R236), its place in the topology
table, and the clock of a device that follows it (R313). -/
def leaveTo (s : State) (b st : Nat) : State :=
  if s.bup b then
    let s := clearBundle (s.setBst b st) b
    let s :=
      if s.follows && s.upstream == b && s.clkLocked then
        sendLocked (raise ((s.setF bnd0 0x80 8 8 0).setF bnd0 0x80 9 9 1) bnd0 23 0)
      else sendBlocks s b
    ownTopoChanged (ldrLinkLost s b)
  else sendBlocks (clearBundle (s.setBst b st) b) b

/-- A bundle becomes degraded (R327). A failover in hand ends with it; the REPLAY of its lane failure lives until a vote has
carried it.
DESIGN CHOICE (log 43; unsafe). -/
def degrade (s : State) (b : Nat) : State :=
  let s := raise (s.setF (bndPg b) 0x44 5 5 1) (bndPg b) 17 0
  leaveTo (raiseFault s 0xb 0 1) b bsDetect

/-- A bundle leaves UP for DETECT, degraded where the CYC_ page is ON (R320, R327). -/
def loseBundle (s : State) (b : Nat) : State := if s.cycOn then degrade s b else leaveTo s b bsDetect

/-- Training fails with a reason (R316). -/
def failTraining (s : State) (b reason : Nat) : State :=
  let s := clearBundle ((s.setBst b bsFailed).setF (bndPg b) 0x44 15 12 reason) b
  raise s (bndPg b) 12 (reason * 2 ^ 20)

/-! ### Loss and retry (R310, R320) -/

/-- LOSS_OF_ALIGNMENT (R320). -/
def lossOfAlignment (s : State) (b : Nat) : State :=
  if s.bup b then loseBundle (raise s (bndPg b) 10 0) b else s

/-- The STATE packets among units that were sent: those the partner lacks it has not been told (R309, R310). -/
def statesIn (l : List TxItem) : Nat := (l.filter (fun i => match i with
  | .unit (.state _) _ => true
  | _ => false)).length

/-- The transmit direction goes back to the unit that a RETRY names, from which it sends again: one that has been sent, or,
while the RESUME of an earlier RETRY is still to be sent, one that waits to be sent again. None where it is kept no more. -/
def BundleTx.back (x : BundleTx) (n : Nat) : Option BundleTx :=
  let d := (x.next + 2 ^ 24 - n) % 2 ^ 24
  let e := (n + 2 ^ 24 - x.next) % 2 ^ 24
  if d ≤ x.kept.length then
    some { x with resume := some n, next := n, kept := x.kept.drop d, resend := (x.kept.take d).reverse ++ x.resend }
  else if x.resume.isSome ∧ e ≤ x.resend.length then
    some { x with resume := some n, next := n, kept := ((x.resend.take e).reverse ++ x.kept).take 65536,
                  resend := x.resend.drop e }
  else none

/-- The transmit direction goes back, and a STATE among the units that go out again is not told yet. Where the named unit is kept
no more the bundle trains again: one that is UP as R327 has it, one in IDENT once the CYC_ page is OFF (R310). -/
def retryFrom (s : State) (b : Nat) (back : Option BundleTx) : State :=
  match back with
  | some t =>
    let x := s.bundle b
    s.setBundle b { x with tx := t, told := x.told.drop (statesIn (x.tx.kept.take (x.tx.kept.length - t.kept.length))) }
  | none =>
    let s := raise s (bndPg b) 10 0
    if s.bup b then loseBundle s b else if s.cycOff then leaveTo s b bsDetect else s

/-- A RETRY arrives (R310): RESUME, then every unit from the named one again, ahead of anything new. -/
def retryIn (s : State) (b unit : Nat) : State :=
  if s.bup b || s.bst b == bsIdent then
    retryFrom (s.bump (bndPg b) 0x64 31 16) b ((s.bundle b).tx.back (unit % 2 ^ 24))
  else s

/-- RETRY_RESEND (R310). -/
def retryResend (s : State) (b : Nat) : State :=
  match (s.bundle b).rx.gap with
  | some n => sendPacket s b (.retry n)
  | none => s

/-- A RESUME arrives (R310): its own number is none of those that follow it, since the next unit takes the number it names; it
ends the outstanding RETRY of that number. -/
def resumeIn (s : State) (b unit : Nat) : State :=
  let x := (s.bundle b).rx
  let n := unit % 2 ^ 24
  if s.bup b || s.bst b == bsIdent then
    s.setRx b { x with number := n, gap := if x.gap = some n then none else x.gap }
  else s

/-! ### TIME, STATE and MESH (R309, R315, R329) -/

/-- A TIME packet arrives (R315), its first bit at the time rx. -/
def timeIn (s : State) (b : Nat) (rx : BitVec 64) (seq : BitVec 8) (tx : BitVec 64) (echoSeq : BitVec 8)
    (echoRx : BitVec 64) : State :=
  let p := bndPg b
  let s := s.setBundle b { s.bundle b with timeRx := (seq.toNat, rx) }
  if s.f p 0x100 24 24 = 0 then
    let s := ((s.setReg64 p 0xe8 rx.toNat).setReg64 p 0xf0 tx.toNat).setReg64 p 0xf8 echoRx.toNat
    raise (((s.setF p 0x100 15 8 seq.toNat).setF p 0x100 23 16 echoSeq.toNat).setF p 0x100 24 24 1) p 21 0
  else s.bump p 0x100 31 28

/-- One TIME packet is to be sent (R315): SEQ, time and echo are those of the step at which its first unit leaves. -/
def timeOut (s : State) (b : Nat) : State := sendPacket s b (.time 0 0 0 0)

/-- TIME_TIMER (R315). -/
def timeTimer (s : State) : State :=
  if s.f bnd0 0x88 0 0 = 1 then s.upBundles.foldl timeOut s else s

/-- A change of either CYC_ page between OFF and not OFF is learnt of at a count (R312). -/
def Bundle.changed (x : Bundle) (c : Nat) : Bundle :=
  { x with changedAt := c :: x.changedAt.filter (fun d => decide (c ≤ d + 4096)) }

/-- A STATE packet arrives (R309, R312). -/
def stateIn (s : State) (b : Nat) (off : Bool) : State :=
  let x := s.bundle b
  if x.partnerOff = off then s else s.setBundle b { x.changed s.cyc.csc with partnerOff := off }

/-- The CYC_ page has entered or left OFF (R309, R312): as it enters OFF, bundles that have waited for it train (R319). -/
def cycChanged (s : State) : State :=
  let s := (List.range 6).foldl (fun s b =>
    let s := s.setBundle b ((s.bundle b).changed s.cyc.csc)
    if s.bst b = bsDown ∧ s.stepRuns then (if s.mayTrain b then sendBlocks (s.setBst b bsDetect) b else s)
    else sendBlocks s b) s
  sendAll s (.state s.cycOff)

/-- A MESH packet arrives (R329). -/
def meshIn (s : State) (b : Nat) (tag : BitVec 4) (data : BitVec 128) : State :=
  let x := s.bundle b
  if 8 ≤ x.mesh.length then raise s (bndPg b) 20 0
  else s.setBundle b { x with mesh := x.mesh ++ [(tag, data)] }

/-- BND_MESH_CTL.TX_BUSY (R329): a MESH packet waits, or has not been sent whole. -/
def Packet.isMesh : Packet → Bool
  | .mesh _ _ => true
  | _ => false
def State.meshBusy (s : State) (b : Nat) : Bool :=
  let x := (s.bundle b).tx
  x.queue.any Packet.isMesh || (match x.cur with
    | some (p, _) => p.isMesh
    | none => false)

/-- A write of 1 to BND_MESH_CTL.SEND (R329). -/
def meshSend (s : State) (b : Nat) : State :=
  let p := bndPg b
  if s.bup b && !s.meshBusy b then
    sendPacket s b (.mesh (BitVec.ofNat 4 (s.f p 0xc0 3 0))
      (BitVec.ofNat 128 (s.reg64 p 0x70 + 2 ^ 64 * s.reg64 p 0x78)))
  else raise s p bSeqFail 0

/-- A write of 1 to BND_MESH_CTL.POP (R329). -/
def meshPop (s : State) (b : Nat) : State := s.setBundle b { s.bundle b with mesh := (s.bundle b).mesh.drop 1 }

/-! ### Training (R313, R316-R319) -/

/-- Lanes of a mask, ascending. -/
def lanesOf (m : BitVec 9) : List Nat := (List.range 9).filter (fun k => m.getLsbD k)

/-- Signal and clock recovery at the receiver of a lane, as they now are (R331): one that goes is recorded. -/
def showSignal (s : State) (b k : Nat) (sig cdr : Bool) : State :=
  let p := lnPg b k
  let hadSig := s.f p 0x44 12 12 == 1
  let hadCdr := s.f p 0x44 13 13 == 1
  let s := (s.setF p 0x44 12 12 (bit sig)).setF p 0x44 13 13 (bit cdr)
  let s := if hadSig && !sig then raise s p 8 0 else s
  if hadCdr && !cdr then raise s p 9 0 else s

/-- A receiver that recovers no clock any more: that of a lane whose LN_ page stops, or one that only watches for signal
(R495). -/
def clockStops (s : State) (b k : Nat) : State := showSignal s b k (s.f (lnPg b k) 0x44 12 12 == 1) false

/-- ATTACH (R316). -/
def attach (s : State) (b : Nat) (lanes : BitVec 9) : State :=
  if s.mayTrain b && s.bst b == bsDetect && decide (8 ≤ (lanesOf lanes).length) then
    let s := (List.range 9).foldl (fun s k => showSignal s b k (lanes.getLsbD k) (lanes.getLsbD k)) s
    sendBlocks (raise (s.setBst b bsLaneTrain) (bndPg b) 8 0) b
  else s

/-- Apply a lane map to one direction (R317): the first eight passing lanes carry logical lanes 0 to 7; a ninth is the
spare; a lane that does not pass has failed. -/
def applyMap (s : State) (b : Nat) (pass : BitVec 9) (rx : Bool) : State :=
  let set := if rx then setRxRole else setTxRole
  let act := (lanesOf pass).take 8
  let s := act.zipIdx.foldl (fun s e => set s b e.1 0 e.2) s
  let s := (List.range 9).foldl (fun s k => if pass.getLsbD k then s else set s b k 2 0) s
  let s := if pass = 0x1ff then set s b 8 1 0 else s
  let spare := if pass = 0x1ff then 8 else 0xf
  if rx then (s.setF (bndPg b) 0x44 11 8 spare).setF (bndPg b) 0x44 4 4 0
  else (s.setF (bndPg b) 0x44 19 16 spare).setF (bndPg b) 0x44 7 7 0

/-- A bundle goes on from LANE_TRAIN or LOCK: the checkers of its lanes no longer run (R322). -/
def trainOn (s : State) (b st : Nat) : State :=
  (List.range 9).foldl (fun s k => s.setF (lnPg b k) 0x44 14 14 0) (s.setBst b st)

/-- From LANE_TRAIN on, with the verdicts in (R316). -/
def afterVerdicts (s : State) (b : Nat) : State :=
  if s.follows && s.upstream == b then trainOn s b bsLock
  else if s.follows && !s.clkLocked then s
  else trainOn s b bsAlign

/-- A receive lane passes (R317): its LN_ page is ON, its checker locked, and it found no more than 16 errors. -/
def State.lanePasses (s : State) (b k : Nat) (c : LaneCheck) : Bool :=
  s.on (lnPg b k) && c.locked && decide (c.errors ≤ 16)

/-- What a lane's checker found shows in its LN_ page (R322, R331). -/
def showCheck (s : State) (b k : Nat) (c : LaneCheck) : State :=
  let p := lnPg b k
  let s := (s.setF p 0x44 14 14 (bit c.locked)).bump p 0x48 31 0 c.errors
  if c.errors = 0 then s else raise s p 10 0

/-- The lanes that pass the device's own check. -/
def State.passOf (s : State) (b : Nat) (own : List LaneCheck) : BitVec 9 :=
  own.zipIdx.foldl (fun m e => if s.lanePasses b e.2 e.1 then m ||| BitVec.ofNat 9 (2 ^ e.2) else m) 0

/-- The device's own lane check is done (R317): its mask and DONE go out in the blocks from now on; with fewer than eight
lanes the bundle then fails. -/
def ownVerdict (s : State) (b : Nat) (own : List LaneCheck) : State :=
  let s := own.zipIdx.foldl (fun s e => showCheck s b e.2 e.1) s
  let mine := s.passOf b own
  if (lanesOf mine).length < 8 then failTraining (sendVerdict s b mine.toNat true) b 1
  else
    let s := applyMap s b mine true
    sendBlocks (s.setBundle b { s.bundle b with checked := true, spareOk := own.getD 8 ⟨false, 0⟩ == ⟨true, 0⟩ }) b

/-- The partner's verdict is in too (R317): its map is the transmitters', or the bundle fails. -/
def partnerVerdict (s : State) (b : Nat) (partner : BitVec 9) (clock : PartnerClock) : State :=
  if (lanesOf partner).length < 8 then failTraining s b 1
  else
    let s := applyMap s b partner false
    afterVerdicts (s.setBundle b { s.bundle b with
      verdicts := true, partnerLocked := clock.locked, partnerMhz := clock.mhz }) b

/-- LANE_VERDICT (R317): what the checkers found in 2^24 bits, once, and the partner's mask where its blocks show DONE; or,
after that, the partner's LOCKED alone.
DESIGN CHOICE (log 30; safe). -/
def laneVerdict (s : State) (b : Nat) (own : List LaneCheck) (partner : BitVec 9) (clock : PartnerClock) : State :=
  let x := s.bundle b
  if s.bst b = bsLock ∨ s.bst b = bsLaneTrain ∧ x.verdicts then
    s.setBundle b { x with partnerLocked := clock.locked, partnerMhz := clock.mhz }
  else if s.mayTrain b && s.bst b == bsLaneTrain then
    let s := if x.checked then s else ownVerdict s b (own.take 9)
    if clock.done && s.bst b == bsLaneTrain then partnerVerdict s b partner clock else s
  else s

/-- CLOCK_LOCK (R313, R316): the step clock locks to the upstream bundle, and waiting bundles go on. -/
def clockLock (s : State) : State :=
  let u := s.upstream
  if s.follows && s.cycOff && decide (u < 6) && s.bst u == bsLock && (s.bundle u).partnerLocked then
    let s := eqAgain (setMhz s (s.bundle u).partnerMhz)
    let s := trainOn ((s.setF bnd0 0x80 8 8 1).setF bnd0 0x80 9 9 0) u bsAlign
    sendLocked ((List.range 6).foldl (fun s b =>
      if b ≠ u ∧ s.bst b = bsLaneTrain ∧ (s.bundle b).verdicts then trainOn s b bsAlign else s) s)
  else s

/-- ALIGN_DONE (R316). -/
def alignDone (s : State) (b flight : Nat) : State :=
  if s.mayTrain b && s.bst b == bsAlign then
    if flight ≤ 16 then (s.setBst b bsIdent).setF (bndPg b) 0x44 29 24 (16 - flight)
    else failTraining s b 8
  else s

/-- TRAINING_TIMEOUT (R316, R318). The verdicts that do not come within 20 ms fail the bundle with reason LANES: R316 names no
reason for that failure.
DESIGN CHOICE (log 46; unsafe). -/
def trainingTimeout (s : State) (b flight : Nat) : State :=
  let st := s.bst b
  if !s.mayTrain b then s
  else if st = bsLaneTrain then if (s.bundle b).verdicts then s else failTraining s b 1
  else if st = bsLock then if (s.bundle b).partnerLocked then failTraining s b 2 else s
  else if st = bsAlign then failTraining s b (if 16 < flight then 8 else 3)
  else if st = bsIdent then failTraining s b 9
  else s

/-- FAILED_RESTART (R316). FAIL_REASON goes back to 0 here and as the bundle reaches UP, and nowhere else: the tables do not say
when. A FAILED bundle that TRAIN_EN 0 takes to DOWN, or BND_CLK to DETECT, keeps its reason.
DESIGN CHOICE (log 46; unsafe). -/
def failedRestart (s : State) (b : Nat) : State :=
  if s.mayTrain b && s.bst b == bsFailed then sendBlocks ((s.setBst b bsDetect).setF (bndPg b) 0x44 15 12 0) b else s

/-- The IDENT packet that this device sends now (R308). -/
def State.identPacket (s : State) (b : Nat) : IdentPacket :=
  ⟨s.drw.serial, s.reg bnd0 0x84, BitVec.ofNat 3 b, s.clkLocked, BitVec.ofNat 64 s.cyc.csc, (s.bundle b).seen, 0⟩

/-- IDENT_RESEND (R318). -/
def identResend (s : State) (b : Nat) : State :=
  if s.bst b = bsIdent then sendPacket s b (.ident (s.identPacket b)) else s

/-- The first check of R318 that an IDENT fails: its FAIL_REASON, or 0. `own` is the device's count at the step at which the
frame whose count the packet carries was applied. -/
def identCheck (s : State) (b : Nat) (k : IdentPacket) (own : Nat) : Nat :=
  if k.serial = s.drw.serial then 7
  else if k.cabId ≠ s.reg bnd0 0x84 then 4
  else if k.bundle.toNat ≠ b ^^^ 1 then 5
  else if s.clkLocked && k.locked && k.count.toNat + 32 != own then 6
  else 0

/-- The checker of a spare lane runs while its bundle is UP (R322): it locks, since the lane has passed.
DEDUCED (log 45; unsafe). -/
def spareRuns (s : State) (b : Nat) : State :=
  let k := s.f (bndPg b) 0x44 11 8
  if k < 9 then s.setF (lnPg b k) 0x44 14 14 1 else s

/-- A bundle reaches UP (R316, R318, R321, R328): the partner is told that its IDENT was seen. -/
def bundleUp (s : State) (b : Nat) (k : IdentPacket) : State :=
  let x := s.bundle b
  let s := sendPacket s b (.ident (s.identPacket b))
  let s := spareRuns (((s.setBst b bsUp).setF (bndPg b) 0x44 5 5 0).setF (bndPg b) 0x44 15 12 0) b
  let me := (k.serial, k.bundle)
  let s :=
    match x.lastUp with
    | some l => if l = me then s else raise s (bndPg b) 11 0
    | none => s
  let s := s.setBundle b { s.bundle b with lastUp := some me }
  ownTopoChanged s

/-- What a bundle keeps by the count moves with it, so that the same steps lie between. -/
def Bundle.recount (x : Bundle) (old new : Nat) : Bundle :=
  { x with changedAt := x.changedAt.map (fun d => d + new - old)
           told := x.told.map (fun e => (e.1 + new - old, e.2))
           rx := { x.rx with cur := x.rx.cur.map (fun e => (e.1, e.2.1, e.2.2.1 + new - old, e.2.2.2)) } }

/-- The count jumps to the one that the upstream partner carried (R314): the release points and votes still to come are those
of the new count, and rounds of the old one are dropped.
DESIGN CHOICE (log 43; unsafe). -/
def takeCount (s : State) (c : Nat) : State :=
  if c = s.cyc.csc then s
  else
    let s := setCount (s.withBundles (Tab.mapAll (fun _ => Bundle.empty) (fun _ x => x.recount s.cyc.csc c) s.bundles)) c
    s.withCyc { s.cyc with rounds := [], casts := [], nextRel := ceil64 (c + 1), voteFor := ceil64 (c + s.prop) }

/-- An IDENT arrives (R314, R318, R329); the frame whose count it carries was applied at its `at_`, and the steps since then
are counted on. -/
def identIn (s : State) (b : Nat) (k : IdentPacket) : State :=
  if s.mayTrain b && s.bst b == bsIdent then
    let s := countTo s k.at_.toNat
    let since := s.cyc.csc - k.at_.toNat
    let s := if s.follows && s.upstream == b && k.locked then takeCount s (k.count.toNat + 32 + since) else s
    let s := (s.setReg64 (bndPg b) 0x48 k.serial.toNat).setF (bndPg b) 0x44 22 20 k.bundle.toNat
    match identCheck s b k (s.cyc.csc - since) with
    | 0 =>
      let s := s.setBundle b { s.bundle b with seen := true }
      if k.seen && k.locked then bundleUp s b k else s
    | reason => failTraining s b reason
  else s

/-! ### Lane failure and failover (R320, R325, R326) -/

/-- A receive lane loses its clock recovery, and its signal where that goes too (R331). -/
def signalLost (s : State) (b k : Nat) (signal : Bool) : State :=
  let p := lnPg b k
  let s := if signal then raise (s.setF p 0x44 12 12 0) p 8 0 else s
  raise (s.setF p 0x44 13 13 0) p 9 0

/-- DETACH (R320): signal or clock recovery lost on two or more receive lanes. -/
def detach (s : State) (b : Nat) (l : LanesLoss) : State :=
  let lost := l.lanes ||| l.signal
  if s.bup b ∧ 2 ≤ (lanesOf lost).length then
    let s := (lanesOf lost).foldl (fun s k => signalLost s b k (l.signal.getLsbD k)) s
    loseBundle (raise s (bndPg b) 9 0) b
  else s

/-- The spare lane of the receive direction, 15 for none. -/
def State.rxSpare (s : State) (b : Nat) : Nat := s.f (bndPg b) 0x44 11 8

/-- A receive lane of a bundle fails (R325, R326): an active one raises REPLAY while the CYC_ page is ON, and its failover
begins where a spare is free for it; a spare leaves its direction without one; an idle one shows failed.
DEDUCED (log 29; unsafe). -/
def failLane (s : State) (b k : Nat) : State :=
  let role := s.f (lnPg b k) 0x44 1 0
  if role = 1 then
    let s := ((setRxRole s b k 2 0).setF (bndPg b) 0x44 11 8 0xf).setF (lnPg b k) 0x44 14 14 0
    let s := raise s (bndPg b) 19 (bndInfo k 0)
    if (s.bundle b).fail.isSome then degrade s b else s
  else if role = 0 then
    let logical := s.f (lnPg b k) 0x44 5 2
    let s := raise (setRxRole s b k 2 0) (bndPg b) 15 (bndInfo k 0)
    let live := s.cycOn
    let s := if live then (raise s (pg .clp) 8 (clpInfo s 0xc 0 1)).withCyc { s.cyc with lane := some s.cyc.csc } else s
    if s.rxSpare b = 0xf ∨ (s.bundle b).fail.isSome then degrade s b
    else
      let st := if (s.bundle b).spareOk then FoStage.wait else FoStage.check
      s.setBundle b { s.bundle b with fail := some ⟨k, logical, s.rxSpare b, st, 0, live⟩ }
  else if role = 3 then raise (setRxRole s b k 2 0) (bndPg b) 15 (bndInfo k 0)
  else s

/-- LANE_FAIL (R320, R325): one lane of an UP bundle without clock recovery for 1 µs. -/
def laneFail (s : State) (b : Nat) (l : LaneLoss) : State :=
  if s.bup b ∧ l.lane < 9 then failLane (signalLost s b l.lane l.signal) b l.lane else s

/-- What a lane's checker finds in TEST (R322, R324): in a near-end loop, the pattern that the lane itself sends, with the
bits that it sent inverted since the last check. The serial loop joins the two ends at the pads, so that the receiver must
decode as the transmitter codes (R291); where it does not, and on a lane without such a loop, what the command says. -/
def State.testCheck (s : State) (b : Nat) (e : LaneChecked) : LaneCheck :=
  let loop := s.f (lnPg b e.lane) 0x40 1 0
  if loop = 1 ∧ s.laneDecoding b e.lane = s.laneCoding b e.lane ∨ loop = 2 then ⟨true, Tab.get (fun _ => 0) (s.bundle b).sentInj e.lane⟩ else e.check

/-- SPARE_CHECK_END (R322, R326): a checker has had 2^24 PRBS bits, of the receive spare of an UP bundle, or of a lane whose
PRBS test runs.
DEDUCED (log 29; unsafe). -/
def spareCheckEnd (s : State) (b : Nat) (e : LaneChecked) : State :=
  if s.bup b ∧ s.rxSpare b = e.lane ∧ s.f (lnPg b e.lane) 0x44 1 0 = 1 then
    let s := showCheck s b e.lane e.check
    let s := s.setBundle b { s.bundle b with spareOk := e.check.locked && e.check.errors == 0 }
    match (s.bundle b).fail with
    | some f =>
      if f.stage = .check then
        if e.check.locked && decide (e.check.errors ≤ 16) then
          s.setBundle b { s.bundle b with fail := some { f with stage := .wait } }
        else degrade s b
      else s
    | none => s
  else if s.bst b = bsTest ∧ e.lane < 9 ∧ s.f (lnPg b e.lane) 0x40 6 6 = 1 then
    let c := s.testCheck b e
    (showCheck s b e.lane c).setBundle b
      { s.bundle b with sentInj := Tab.set (fun _ => 0) (s.bundle b).sentInj e.lane 0 }
  else s

/-- A failover's steps are taken in a hold, or while the CYC_ page is not ON (R172, R326). -/
def State.mayFailOver (s : State) : Bool := !s.executing || !s.cycOn

/-- The device sends LANEMAP with a fresh switch count (R326). -/
def sendLanemap (s : State) (b : Nat) (f : Failover) : State :=
  let sw := (s.cyc.csc + 1024 + 63) / 64 * 64
  let s := s.setBundle b { s.bundle b with fail := some { f with stage := .sent, sw := sw } }
  sendPacket s b (.lanemap f.lane f.spare (sw % 2 ^ 16))

/-- FAILOVER_LANEMAP (R326): once the device is held, or its CYC_ page is not ON. -/
def failoverLanemap (s : State) (b : Nat) : State :=
  match (s.bundle b).fail with
  | some f => if f.stage = .wait ∧ s.mayFailOver then sendLanemap s b f else s
  | none => s

/-- A LANEMAP arrives (R326): too late, it is ignored. -/
def lanemapIn (s : State) (b failed spare : Nat) (sw : BitVec 16) : State :=
  let ahead := (sw - BitVec.ofNat 16 s.cyc.csc).toNat
  if 64 ≤ ahead ∧ ahead < 2 ^ 15 ∧ failed < 9 ∧ spare < 9 then
    s.setBundle b { s.bundle b with txSwitch := some (s.cyc.csc + ahead, failed, spare) }
  else s

/-- A count that the device has reached or can move on to now, and the move. -/
def State.mayReach (s : State) (c : Nat) : Bool := decide (c ≤ s.cyc.csc) || s.stepAhead c
def reachCount (s : State) (c : Nat) : State := if c ≤ s.cyc.csc then s else countTo s c

/-- The transmitter's map (R326): the spare takes the failed lane's number, or keeps it where it has it already. -/
def mapSpare (s : State) (b failed spare : Nat) : State :=
  let from_ := if s.txRole b failed ≠ 0 ∧ s.txRole b spare = 0 then spare else failed
  setTxRole (setTxRole s b spare 0 (s.txLogical b from_)) b failed 2 0

/-- LANEMAP_SWITCH (R172, R326): the receiver's own map from its count SW + 32, in a hold or while the CYC_ page is not ON; or
the transmitter's from the frame of count SW. One that comes later acts at the count in hand. Either direction then has no
spare left (R329).
DESIGN CHOICE (log 43; safe). -/
def lanemapSwitch (s : State) (b : Nat) (rx : Bool) : State :=
  let x := s.bundle b
  let p := bndPg b
  if rx then
    match x.fail with
    | some f =>
      if f.stage = .sent ∧ s.mayFailOver ∧ s.mayReach (f.sw + 32) then
        let s := reachCount s (f.sw + 32)
        let s := (setRxRole s b f.spare 0 f.logical).setF (lnPg b f.spare) 0x44 14 14 0
        let s := (s.setF p 0x44 11 8 0xf).setF p 0x44 4 4 1
        s.setBundle b { s.bundle b with fail := some { f with stage := .switched } }
      else s
    | none => s
  else
    match x.txSwitch with
    | some (sw, failed, spare) =>
      if s.mayReach sw then
        let s := reachCount s sw
        let s := ((mapSpare s b failed spare).setF p 0x44 19 16 0xf).setF p 0x44 7 7 1
        s.setBundle b { s.bundle b with txSwitch := none }
      else s
    | none => s

/-- LANEMAP_RESEND (R326): 512 steps without a good frame under the new map, again in a hold alone (R172). -/
def lanemapResend (s : State) (b : Nat) : State :=
  match (s.bundle b).fail with
  | some f => if (f.stage = .switched ∨ f.stage = .sent) ∧ s.mayFailOver then sendLanemap s b f else s
  | none => s

/-- FAILOVER_END (R326): the 256th consecutive good frame under the new map. -/
def failoverEnd (s : State) (b : Nat) : State :=
  match (s.bundle b).fail with
  | some f =>
    if f.stage = .switched then
      let s := s.setBundle b { s.bundle b with fail := none }
      raise s (bndPg b) 16 (bndInfo f.lane 0)
    else s
  | none => s

/-- FAILOVER_TIMEOUT (R326). -/
def failoverTimeout (s : State) (b : Nat) : State :=
  if (s.bundle b).fail.isSome then degrade s b else s

/-! ### Registers (R319, R323-R325, R329) -/

/-- A write of 1 to BND_CTL.RETRAIN (R319). -/
def bndRetrain (s : State) (b : Nat) : State :=
  if s.cycOff then (if s.bup b then leaveTo s b bsDetect else s) else raise s (bndPg b) bSeqFail 0

/-- A write of 1 to BND_CTL.FAILOVER (R325, R329). -/
def bndFailover (s : State) (b : Nat) : State :=
  let k := s.f (bndPg b) 0x40 7 4
  if 9 ≤ k ∨ s.executing ∧ s.cycOn then raise s (bndPg b) bSeqFail 0 else failLane s b k

/-- A lane of the bundle is in a loop or a PRBS test. -/
def State.lnTesting (s : State) (b : Nat) : Bool :=
  (List.range 9).any (fun k => s.f (lnPg b k) 0x40 1 0 != 0 || s.f (lnPg b k) 0x40 6 6 == 1)

/-- What a lane of a bundle in TEST sends from now on (R322, R324): nothing in a near-end serial loop, whose pads are idle; in
a far-end loop what it receives, also with PRBS_ON; else its pattern, whose generator starts at all ones, or nothing.
DESIGN CHOICE (log 30; unsafe). DESIGN CHOICE (log 45; unsafe). -/
def sendPattern (s : State) (b k : Nat) : State :=
  let loop := s.f (lnPg b k) 0x40 1 0
  let prbs := s.f (lnPg b k) 0x40 6 6 == 1
  let l := 9 * b + k
  if loop = 3 then s.send (.laneEcho l)
  else
    let head := (prbsRun (s.f (lnPg b k) 0x40 5 4) 128 (2 ^ 31 - 1)).1
    let s :=
      if prbs && loop != 1 then s.send (.prbsPattern l (BitVec.ofNat 128 head) ((s.laneLevels b 128 head).getD k []))
      else s.send (.laneIdle l)
    if prbs then sendInverted s b k else s

/-- A bundle enters TEST (R324): the coders of its lanes stand where they may (R291), and every lane sends what it is set
to. -/
def enterTest (s : State) (b : Nat) : State :=
  (List.range 9).foldl (fun s k => sendPattern s b k) (codersLost (clearBundle (s.setBst b bsTest) b) b)

/-- Where a bundle that is not UP rests (R316, R324): in TEST while a lane is under test, also with TRAIN_EN 0; else DOWN or
DETECT.
DESIGN CHOICE (log 43; safe). -/
def restBundle (s : State) (b : Nat) : State :=
  if s.on (bndPg b) && s.lnTesting b then (if s.bst b = bsTest then s else enterTest s b)
  else if s.on (bndPg b) && s.f (bndPg b) 0x40 8 8 == 1 then
    (if s.bst b = bsTest ∨ s.bst b = bsDown ∧ s.mayTrain b ∧ s.stepRuns then
      sendBlocks (clearBundle (s.setBst b bsDetect) b) b
    else s)
  else leaveTo s b bsDown

/-- BND_CTL.TRAIN_EN has been written (R316, R319, R328). -/
def trainEnWritten (s : State) (b : Nat) : State :=
  if s.f (bndPg b) 0x40 8 8 = 0 then
    let s := if s.bup b ∧ s.cycOn then degrade s b else s
    (restBundle (if s.bup b then leaveTo s b bsDown else s) b).setF (bndPg b) 0x44 5 5 0
  else if s.bup b then s
  else restBundle s b

/-- A BND_ page enters ON (R554), or leaves it. -/
def bndStarts (s : State) (b : Nat) : State := restBundle s b
def bndStops (s : State) (b : Nat) : State :=
  let s := if s.bup b ∧ s.cycOn then degrade s b else s
  leaveTo s b bsDown

/-- An LN_ page that stops (R554): its receiver recovers no clock, and where its bundle is UP the lane fails. -/
def laneStops (s : State) (l : Nat) : State :=
  let s := clockStops s (l / 9) (l % 9)
  if s.bup (l / 9) then failLane s (l / 9) (l % 9) else s

/-- BND_CLK.MODE or UPSTREAM has changed (R313, R329): a SOURCE runs at its own setting, and every bundle trains again. -/
def clkChanged (s : State) : State :=
  let s := if s.follows then s else eqAgain (setMhz s (s.f (pg .pwr) 0x48 10 0))
  let s := (s.setF bnd0 0x80 8 8 (bit (!s.follows))).setF bnd0 0x80 9 9 0
  (List.range 6).foldl (fun s b =>
    if s.bst b = bsDown ∨ s.bst b = bsTest then s else leaveTo s b bsDetect) s

/-- A lane test may begin (R324). -/
def lnTestOk (s : State) (b : Nat) : Bool :=
  !s.bup b && (s.cycOff || s.f (bndPg b) 0x44 5 5 == 1)

/-- LN_CTL has been written (R322, R324): the bundle enters TEST or leaves it; in TEST the lane sends what it is now set to,
and its checker runs no more where PRBS_ON is 0. -/
def lnTestWritten (s : State) (b k : Nat) : State :=
  let inTest := s.bst b == bsTest
  let s := if s.bup b then s else restBundle s b
  if inTest && s.bst b == bsTest then
    let s := if s.f (lnPg b k) 0x40 6 6 = 0 then s.setF (lnPg b k) 0x44 14 14 0 else s
    sendPattern s b k
  else s

/-- A lane sends PRBS bits, or repeats a block that holds them (R322). On a spare lane of an UP bundle they go out frame by
frame. -/
def State.sendsPrbs (s : State) (b k : Nat) : Bool :=
  s.inBlocks b || s.bst b == bsTest && s.f (lnPg b k) 0x40 6 6 == 1 && s.f (lnPg b k) 0x40 1 0 != 3

/-- A write of 1 to LN_CTL.INJ (R323): one more PRBS bit of the lane's transmitter to be inverted, the next that it sends. -/
def lnInject (s : State) (b k : Nat) : State :=
  let x := s.bundle b
  let s := s.setBundle b { x with inj := Tab.set (fun _ => 0) x.inj k (Tab.get (fun _ => 0) x.inj k + 1) }
  if s.sendsPrbs b k then sendInverted s b k else s

/-- A write of 1 to BND_INJ.ARM (R323): the next frame that the bundle sends is corrupted. -/
def injArm (s : State) (b : Nat) : State :=
  s.setTx b { (s.bundle b).tx with corrupt := some (s.f (bndPg b) 0x5c 2 0) }

/-! ### The commands -/

def execLossOfAlignment (b : Nat) (s : State) := done (lossOfAlignment s b)
def execRetryResend (b : Nat) (s : State) := done (retryResend s b)
def execResume (b : Nat) (unit : BitVec 24) (s : State) := done (resumeIn s b unit.toNat)
def execRetry (b : Nat) (unit : BitVec 24) (s : State) := done (packetIn s b 1 (fun s => retryIn s b unit.toNat))
def execLanemap (b failed spare : Nat) (sw : BitVec 16) (s : State) :=
  done (packetIn s b 1 (fun s => lanemapIn s b failed spare sw))
def execTime (b : Nat) (seq : BitVec 8) (tx : BitVec 64) (echoSeq : BitVec 8) (echoRx : BitVec 64) (s : State) :=
  done (packetIn s b 6 (fun s => timeIn s b s.timeStamp seq tx echoSeq echoRx))
def execTimeTimer (s : State) := done (timeTimer s)
def execState (b : Nat) (off : Bool) (s : State) := done (packetIn s b 1 (fun s => stateIn s b off))
def execStateTimer (s : State) := done (sendAll s (.state s.cycOff))
def execIdent (b : Nat) (pk : IdentPacket) (s : State) := done (packetIn s b 7 (fun s => identIn s b pk))
def execIdentResend (b : Nat) (s : State) := done (identResend s b)
def execTopo (b : Nat) (pk : TopoEntry) (s : State) := done (packetIn s b 18 (fun s => topoIn s b pk))
def execTopoTimer (s : State) := done (sendAll s (.topo s.ownTopo))
def execTopoStable (s : State) := done (s.setF bnd0 0x188 16 16 1)
def execMesh (b : Nat) (tag : BitVec 4) (data : BitVec 128) (s : State) :=
  done (packetIn s b 5 (fun s => meshIn s b tag data))
def execAttach (b : Nat) (lanes : BitVec 9) (s : State) := done (attach s b lanes)
/-- DESIGN CHOICE (log 11; safe). -/
def execLaneVerdict (b : Nat) (own : List LaneCheck) (partner : BitVec 9) (clock : PartnerClock) (s : State) :=
  done (laneVerdict s b own partner clock)
def execClockLock (s : State) := done (clockLock s)
def execAlignDone (b flight : Nat) (s : State) := done (alignDone s b flight)
def execTrainingTimeout (b flight : Nat) (s : State) := done (trainingTimeout s b flight)
def execFailedRestart (b : Nat) (s : State) := done (failedRestart s b)
def execDetach (b : Nat) (loss : LanesLoss) (s : State) := done (detach s b loss)
def execLaneFail (b : Nat) (loss : LaneLoss) (s : State) := done (laneFail s b loss)
def execSpareCheckEnd (b : Nat) (found : LaneChecked) (s : State) := done (spareCheckEnd s b found)
def execFailoverLanemap (b : Nat) (s : State) := done (failoverLanemap s b)
def execLanemapSwitch (b : Nat) (rx : Bool) (s : State) := done (lanemapSwitch s b rx)
def execLanemapResend (b : Nat) (s : State) := done (lanemapResend s b)
def execFailoverEnd (b : Nat) (s : State) := done (failoverEnd s b)
def execFailoverTimeout (b : Nat) (s : State) := done (failoverTimeout s b)

def execChainStart (b pos : Nat) (loadId : BitVec 32) (s : State) :=
  done (packetIn s b 2 (fun s => chainStart s b pos loadId))
def execChainEnd (s : State) := done (packetIn s s.ldr.up 2 chainEnd)
def execChainReady (s : State) := done (packetIn s s.ldr.down 2 chainReady)
def execChainFail (pos code check : Nat) (s : State) :=
  done (packetIn s s.ldr.down 2 (fun s => chainFail s pos code check))
def execChainCommit (loadId : BitVec 32) (s : State) := done (packetIn s s.ldr.up 2 (fun s => chainCommit s loadId))
def execChainAbort (pos : Nat) (loadId : BitVec 32) (s : State) :=
  done (packetIn s s.ldr.up 2 (fun s => chainAbort s pos loadId))
def execChainDone (pos : Nat) (s : State) := done (packetIn s s.ldr.down 2 (fun s => chainDone s pos))

end Sys2Proof.Machine
end

