-- ==== Sys2Proof/Machine/PciConfig.lean ====
section
/-! DEFINITION. The configuration requests of the host function (R469-R472) and error logging under AER (R478). -/
namespace Sys2Proof.Machine

/-! ### Configuration requests (R469-R472) -/

/-- The bits that a configuration write sets to what it carries: of Command, the two 64-bit BARs of 64 MiB and 64 GiB, Device
Control, Link Control, Message Control, and AER's masks, severities and ECRC enables. -/
def cfgWritable (off : Nat) : Word :=
  match off with
  | 0x04 => 0x00000542
  | 0x10 => 0xfc000000
  | 0x14 => 0xffffffff
  | 0x1c => 0xfffffff0
  | 0x50 => 0x000078ff
  | 0x58 => 0x000000cb
  | 0x90 => 0xc0000000
  | 0x118 => 0x07fff030
  | 0x11c => 0x07fff030
  | 0x124 => 0x0000f1c1
  | 0x128 => 0x00000140
  | _ => 0

/-- The bits that a configuration write of 1 clears. -/
def cfgClears (off : Nat) : Word :=
  match off with
  | 0x04 => 0xf9000000
  | 0x50 => 0x000f0000
  | 0x114 => 0x07fff030
  | 0x120 => 0x0000f1c1
  | _ => 0

/-- Set bits of a double word. -/
def State.orCfg (s : State) (off bits : Nat) : State := s.setCfg off (s.cfg off ||| BitVec.ofNat 32 bits)

/-- A double word of the function's configuration space as it reads (R469, R470, R472): Bus Master Enable, the
link's speed and width and the device serial that the bundles carry in IDENT are shown from where they are kept.
PRESUMED (log 37; unsafe). -/
def State.configWord (s : State) (off : Nat) : Option Word :=
  if off % 4 ≠ 0 ∨ 4096 ≤ off then none
  else some (match off with
    | 0x04 => s.cfg 0x04 ||| BitVec.ofNat 32 (4 * bit s.hst.busMaster)
    | 0x58 => s.cfg 0x58 ||| BitVec.ofNat 32 (s.hst.link % 16 * 2 ^ 16 + s.hst.link / 16 * 2 ^ 20)
    | 0x104 => s.drw.serial.setWidth 32
    | 0x108 => (s.drw.serial >>> 32).setWidth 32
    | _ => s.cfg off)

/-- The Max Payload Size in force, in bytes. -/
def State.maxPayload (s : State) : Nat := 128 * 2 ^ min 2 (fld (s.cfg cfgDev).toNat 7 5)

/-- ECRC is checked; memory requests are taken; the function is in D0; ASPM L1 is enabled. -/
def State.ecrcChecks (s : State) : Bool := (s.cfg aerCtl).getLsbD 8
def State.memSpace (s : State) : Bool := (s.cfg 0x04).getLsbD 1
def State.inD0 (s : State) : Bool := fld (s.cfg cfgPm).toNat 1 0 == 0
def State.aspmL1 (s : State) : Bool := (s.cfg cfgLnk).getLsbD 1

/-! ### Errors (R478) -/

/-- Bits of AER's uncorrectable status, and of its correctable status. -/
def aerPoisoned : Nat := 12
def aerAbort : Nat := 15
def aerMalformed : Nat := 18
def aerEcrc : Nat := 19
def aerUnsupported : Nat := 20
def aerDlProtocol : Nat := 4
def aerReceiver : Nat := 0
def aerBadTlp : Nat := 6
def aerBadDllp : Nat := 7
def aerRollover : Nat := 8
def aerTimeout : Nat := 12
def aerAdvisory : Nat := 13

/-- Error messages upstream: 0 correctable, 1 non-fatal, 2 fatal; sent while Device Control enables them, for an Unsupported
Request where it enables their reporting, too; or SERR# for the last two. -/
def errorMessage (s : State) (b k : Nat) : State :=
  let reports := (s.cfg cfgDev).getLsbD k && (b != aerUnsupported || (s.cfg cfgDev).getLsbD 3)
  if reports || (k != 0 && (s.cfg 0x04).getLsbD 8) then s.send (s.tlp (.errorMessage k)) else s

/-- An uncorrectable error in AER's status; the first that no mask hides is pointed at, and its header logged. The rows carry
no TLP header: what is logged is a free value.
DESIGN CHOICE (log 5; safe). -/
def aerStatusSet (s : State) (b : Nat) : State :=
  let t := s.orCfg aerStatus (2 ^ b)
  if (s.cfg aerMask).getLsbD b || (s.cfg aerStatus &&& ~~~s.cfg aerMask) != 0 then t
  else
    let h := (Config.tlpHeader s.free).toNat
    let t := t.setCfg aerCtl (setFld (s.cfg aerCtl) 4 0 b)
    ((List.range 4).foldl (fun t i => t.setCfg (aerLog + 4 * i) (BitVec.ofNat 32 (h / 2 ^ (32 * i)))) t).withFree (s.free + 1)

/-- A correctable error (R478); an advisory one stands for the uncorrectable one of bit `why`.
PRESUMED (log 37; unsafe). -/
def aerCorrected (s : State) (b why : Nat) : State :=
  let s := (s.orCfg cfgDev (2 ^ 16)).orCfg aerCorStatus (2 ^ b)
  if (s.cfg aerCorMask).getLsbD b then s else errorMessage s why 0
def aerCorrectable (s : State) (b : Nat) : State := aerCorrected s b b

/-- An uncorrectable error, non-fatal or fatal by its severity (R478).
PRESUMED (log 37; unsafe). -/
def aerUncorrectable (s : State) (b : Nat) : State :=
  let fatal := (s.cfg aerSeverity).getLsbD b
  let s := aerStatusSet (s.orCfg cfgDev (2 ^ (if fatal then 18 else 17))) b
  if (s.cfg aerMask).getLsbD b then s else errorMessage s b (if fatal then 2 else 1)

/-- A non-fatal error that the completion of a read has signalled is advisory: a correctable error, whose own bit is logged
where no mask hides the advisory error (R478).
PRESUMED (log 37; unsafe). -/
def aerAdvises (s : State) (b : Nat) : State :=
  if (s.cfg aerSeverity).getLsbD b then aerUncorrectable s b
  else
    let s := aerCorrected s aerAdvisory b
    if (s.cfg aerCorMask).getLsbD aerAdvisory then s else aerStatusSet s b

/-- A request is answered as Unsupported Request, or discarded as one where it is posted (R473, R478). -/
def logUnsupported (s : State) (wr : Bool) : State :=
  let s := s.orCfg cfgDev (2 ^ 19)
  if wr then aerUncorrectable s aerUnsupported else aerAdvises s aerUnsupported

/-- What befalls a TLP of the host on the link (R478): it arrives, once the link has sent it again where it was damaged, or beside
a DLLP that was, or after the replays of what the function sends; or it is discarded.
PRESUMED (log 37; unsafe). -/
def linkTakes (s : State) (f : TlpFault) : Bool × State :=
  match f with
  | .none => (true, s)
  | .receiver => (true, aerCorrectable s aerReceiver)
  | .badTlp => (true, aerCorrectable s aerBadTlp)
  | .badDllp => (true, aerCorrectable s aerBadDllp)
  | .replayRollover => (true, aerCorrectable s aerRollover)
  | .replayTimeout => (true, aerCorrectable s aerTimeout)
  | .dlProtocol => (false, aerUncorrectable s aerDlProtocol)
  | .ecrc => if s.ecrcChecks then (false, aerUncorrectable s aerEcrc) else (true, s)
  | .malformed => (false, aerUncorrectable s aerMalformed)

end Sys2Proof.Machine
end

