-- ==== Sys2Proof/Machine/Pins.lean ====
section
/-! DEFINITION. Target pins (R441-R468): ball levels, the pin map, design samples and outputs, firmware functions,
function switches, locks, edge lines; and the reference tick that moves Gauges, pins and time together. -/
namespace Sys2Proof.Machine

/-- The PIN_ page of a port. -/
def portPg (p : Nat) : PageId := ⟨.pin, p⟩

/-- A port beyond its registers, at rest. -/
def Port.empty : Port := ⟨0, false, none, none, [], [], none, none, true, [], 0, 3⟩

/-- A port. -/
def State.port (s : State) (p : Nat) : Port := Tab.get (fun _ => Port.empty) s.pins.ports p

/-- Replace a port. -/
def State.setPort (s : State) (p : Nat) (x : Port) : State :=
  s.withPins { s.pins with ports := Tab.set (fun _ => Port.empty) s.pins.ports p x }

/-- The 32 bits of a port in a vector of all pins. -/
def portBits (v : BitVec 384) (p : Nat) : BitVec 32 := BitVec.ofNat 32 (v.toNat / 2 ^ (32 * p))

/-- One pin of a vector of all pins. -/
def pinBit (pin : Nat) : BitVec 384 := BitVec.ofNat 384 (2 ^ pin)

/-- The pins of the ports whose page is ON. -/
def State.onPins (s : State) : BitVec 384 :=
  (List.range 12).foldl (fun acc p =>
    if s.on (portPg p) then acc ||| BitVec.ofNat 384 (0xffffffff * 2 ^ (32 * p)) else acc) 0

/-- The pins whose PIN_CFG.PULL has a value. -/
def State.pullPins (s : State) (v : Nat) : BitVec 384 :=
  s.cfgPins.foldl (fun acc pin => if fld (s.pinHalf pin) 9 8 = v then acc ||| pinBit pin else acc) 0

/-- The pads whose bit i is 1, as a vector. -/
def State.padBits (s : State) (i : Nat) : BitVec 384 :=
  s.pins.pads.foldl (fun acc e => if e.2.getLsbD i then acc ||| pinBit e.1 else acc) 0

/-- The level at every ball of a port that is ON (R445), 0 elsewhere (R442): what the device or the target drives, the
pull, the keeper's level, or a free value where nothing drives the ball or both drive it apart. -/
def ballLevels (s : State) (t : TargetLevels) : BitVec 384 :=
  let on := s.onPins
  let en := s.padBits 1 &&& on
  let lv := s.padBits 0
  let free := Config.padLevel s.free
  let undriven := (s.pullPins 1) ||| (s.pullPins 3 &&& s.pins.ball) |||
    (free &&& ~~~(s.pullPins 1 ||| s.pullPins 2 ||| s.pullPins 3))
  let both := en &&& t.drv
  let clash := both &&& (lv ^^^ t.lvl)
  on &&& ((en &&& ~~~t.drv &&& lv) ||| (~~~en &&& t.drv &&& t.lvl) ||| (both &&& ~~~clash &&& lv) ||| (clash &&& free) |||
    (~~~en &&& ~~~t.drv &&& undriven))

/-- The target drives its levels: the balls take their levels, and a free value has been drawn. -/
def targetDrives (s : State) (t : TargetLevels) : State :=
  (s.withFree (s.free + 1)).withPins { s.pins with tgt := t, ball := ballLevels s t }

/-- A refused configuration write of a PIN_ page (R467): reason 1 FUNC or SEL, 2 VSEL, 3 timing write. -/
def pinCfgErr (reason pin : Nat) : Nat × Nat := (8, reason * 2 ^ 8 + pin)

/-! ### The pin map (R446-R449) -/

/-- The output pads that an execution's contributions give (R447): data and enable of every pin. -/
def designOutputs (s : State) : BitVec 384 × BitVec 384 :=
  s.pins.outMap.foldl (fun acc e =>
    let w := e.2.toNat
    if fld w 15 15 = 1 then
      let g := e.1 / (128 * 128)
      let j := e.1 % 128
      let con := match s.phys g (e.1 / 128 % 128) with
        | some ph => (s.panel g ph).con
        | none => []
      let en := fld w 14 14 = 1 ∨ conBits con (640 + j) 1 = 1
      if en then
        (if conBits con (512 + j) 1 = 1 then acc.1 ||| pinBit (w % 512) else acc.1, acc.2 ||| pinBit (w % 512))
      else acc
    else acc) (0, 0)

/-- The DESIGN pins of a port: FUNC 1 in force. -/
def State.designPins (s : State) (p : Nat) : List Nat :=
  s.cfgPins.filter (fun pin => pin / 32 == p && s.pinFn pin % 16 == 1)

/-- The outputs of a committed execution are handed to a port (R452, R453): its pads in step timing, its pending
register in Gauge timing. -/
def handover (d e : BitVec 384) (s : State) (p : Nat) : State :=
  if s.f (portPg p) 0xf0 1 1 = 0 then
    (s.designPins p).foldl (fun s pin => drivePad s pin (padOf (d.getLsbD pin) (e.getLsbD pin))) s
  else if s.on (portPg p) then
    let x := s.port p
    let s := s.setPort p { x with pend := some (portBits d p, portBits e p) }
    if x.pend.isSome then raise s (portPg p) 10 (s.cycCount % 2 ^ 24) else s
  else s

/-- The pin outputs of a committed execution (R163, R452, R453). -/
def handoverAll (s : State) : State :=
  let (d, e) := designOutputs s
  (List.range 12).foldl (handover d e) s

/-- The state at the step of R450, where the next execution is known to begin 16 steps on, and to be the first of its cycle:
step T - 16, which CONFIRM_STEP has reached; or 16 steps before the release point of a hold. -/
def sampleStep (s : State) : Option State :=
  match s.cyc.phase with
  | .confirmed => if s.cyc.outcome = 0 ∧ s.step ≤ s.cStep then some s else none
  | .held =>
    let at_ := s.cyc.nextRel
    let t := moveCount s (at_ - 16)
    if s.cyc.rerun = false ∧ s.cyc.csc ≤ at_ - 16 ∧ t.cyc.rounds.any (fun r => r.rel == at_ && r.heard == 0) = true then some t
    else none
  | _ => none

/-- The latch of one port for the next cycle (R450, R451). -/
def stageSample (s : State) (p : Nat) : State :=
  let x := s.port p
  if s.f (portPg p) 0xf0 0 0 = 0 || !s.on (portPg p) then
    (s.setPort p { x with staged := some (portBits s.pins.ball p), capNew := false }).setF (portPg p) 0xf4 2 2 0
  else if x.capNew then (s.setPort p { x with staged := some x.cap, capNew := false }).setF (portPg p) 0xf4 2 2 0
  else
    raise ((s.setPort p { x with staged := some (s.reg (portPg p) 0xec) }).setF (portPg p) 0xf4 2 2 1) (portPg p) 9
      (s.cycCount % 2 ^ 24)

/-- PIN_SAMPLE (R450, R451). -/
def pinSample (s : State) (t : TargetLevels) : State :=
  match sampleStep s with
  | some s => (List.range 12).foldl stageSample (targetDrives s t)
  | none => s

/-- The K-space sample bits from the latched levels (R64, R446). -/
def sampleWindows (s : State) : Tab (BitVec 128) :=
  s.pins.smpMap.foldl (fun t e =>
    let w := e.2.toNat
    let pin := w % 512
    if fld w 15 15 = 1 ∧ fld (s.reg (pinPg pin) 0xec).toNat (pin % 32) (pin % 32) = 1 then
      Tab.set (zeroAt 128) t (e.1 / 128) (Tab.get (zeroAt 128) t (e.1 / 128) ||| BitVec.ofNat 128 (2 ^ (e.1 % 128)))
    else t) []

/-- The staged levels are latched for the cycle that begins (R65, R450). -/
def latchPins (s : State) : State :=
  let s := (List.range 12).foldl (fun s p =>
    match (s.port p).staged with
    | some v => (s.setPort p { s.port p with staged := none }).setReg (portPg p) 0xec v
    | none => s) s
  s.withPinWin (sampleWindows s)

/-- A Gauge time of a port advances past the Gauge's value (R451, R453). -/
def advanceTime (g t per : Nat) : Nat :=
  let t1 := (t + per) % 2 ^ 64
  if reached64 g t1 then (t1 + skipCount ((g + 2 ^ 64 - t1) % 2 ^ 64) per * per) % 2 ^ 64 else t1

/-- The Gauge of a port's Gauge timing. -/
def State.portG (s : State) (p : Nat) : Nat := s.gval (s.f (portPg p) 0xf0 7 4)

/-- SAMPLE_INSTANT (R451). -/
def sampleInstant (s : State) (p : Nat) (t : TargetLevels) : State :=
  let pg := portPg p
  if s.on pg && s.f pg 0xf0 0 0 == 1 && reached64 (s.portG p) (s.reg64 pg 0x100) then
    let s := targetDrives s t
    let s := s.setPort p { s.port p with cap := portBits s.pins.ball p, capNew := true }
    s.setReg64 pg 0x100 (advanceTime (s.portG p) (s.reg64 pg 0x100) (s.reg64 pg 0x108))
  else s

/-- The pending outputs of a port start on their way to its pads (R453, R454). -/
def drivePend (s : State) (p : Nat) : State :=
  match (s.port p).pend with
  | none => s
  | some (d, e) =>
    let new := (s.designPins p).map (fun pin => ⟨4, pin, padOf (d.getLsbD (pin % 32)) (e.getLsbD (pin % 32)), false⟩)
    let s := s.setPort p { s.port p with pend := none }
    s.withPins { s.pins with late := s.pins.late ++ new }

/-- The next drive instant of a port (R453). -/
def nextDrive (s : State) (p : Nat) : State :=
  s.setReg64 (portPg p) 0x110 (advanceTime (s.portG p) (s.reg64 (portPg p) 0x110) (s.reg64 (portPg p) 0x118))

/-- DRIVE_INSTANT (R453): the DESIGN pads take the pending register, four ticks on (R454). -/
def driveInstant (s : State) (p : Nat) : State :=
  let pg := portPg p
  if s.on pg && s.f pg 0xf0 1 1 == 1 && reached64 (s.portG p) (s.reg64 pg 0x110) then drivePend (nextDrive s p) p else s

/-! ### Firmware functions (R456-R459) -/

/-- The pins of a port with a function in force. -/
def State.fnPins (s : State) (p fn : Nat) : List Nat :=
  s.cfgPins.filter (fun pin => pin / 32 == p && s.pinFn pin % 16 == fn)

/-- A write of PIN_GPIO_OUT or PIN_GPIO_OE whose enabled bytes cover `mask` (R456, R462). -/
def gpioWritten (s : State) (p : Nat) (mask : Word) : State :=
  (s.fnPins p 2).foldl (fun s pin =>
    let i := pin % 32
    if mask.getLsbD i then
      drivePad s pin (padOf ((s.reg (portPg p) 0xe0).getLsbD i) ((s.reg (portPg p) 0xe4).getLsbD i))
    else s) s

/-- Drive every pin of a port with a function. -/
def driveFn (s : State) (p fn : Nat) (v : BitVec 2) : State :=
  (s.fnPins p fn).foldl (fun s pin => drivePad s pin v) s

/-- The port's UART is enabled. -/
def State.uartEn (s : State) (p : Nat) : Bool := s.on (portPg p) && s.f (portPg p) 0x84 19 19 == 1

/-- The odd parity of a byte. -/
def byteParity (b : BitVec 8) : Bool := (List.range 8).foldl (fun acc i => xor acc (b.getLsbD i)) false

/-- The bits of a byte on a UART line, as PIN_UART_CFG has it (R458): the start bit, the data bits from the least significant, the
parity bit if there is one, and the stop bits. -/
def uartBits (cfg : Word) (b : BitVec 8) : List Bool :=
  false :: (List.range 8).map b.getLsbD ++ (if cfg.getLsbD 16 then [xor (byteParity b) (cfg.getLsbD 17)] else []) ++
    List.replicate (1 + bit (cfg.getLsbD 18)) true

/-- The bit time in reference periods. -/
def uartTime (cfg : Word) : Nat := fld cfg.toNat 15 0 + 1

/-- The transmitter's line takes a level: the pads follow a change (R462). -/
def uartShow (s : State) (p : Nat) (lvl : Bool) : State :=
  let x := s.port p
  if x.txLine = lvl then s else driveFn (s.setPort p { x with txLine := lvl }) p 5 (padOf lvl true)

/-- The transmitter starts the byte at the head of its FIFO. -/
def uartStart (s : State) (p : Nat) : State := uartShow (s.setPort p { s.port p with txTick := some 0 }) p false

/-- A reference period of a UART: the byte in hand goes on, or the next one starts. -/
def uartTick (s : State) (p : Nat) : State :=
  match (s.port p).tx with
  | [] => s
  | b :: _ =>
    if s.uartEn p then
      let cfg := s.reg (portPg p) 0x84
      match (s.port p).txTick with
      | none => uartStart s p
      | some n =>
        if n < (uartBits cfg b).length * uartTime cfg then
          uartShow (s.setPort p { s.port p with txTick := some (n + 1) }) p (((uartBits cfg b)[(n + 1) / uartTime cfg]?).getD true)
        else s
    else s

/-- A byte appended to the transmit FIFO (R458); the first one starts at once.
DESIGN CHOICE (log 30; safe). -/
def uartSend (s : State) (p : Nat) (b : BitVec 8) : State :=
  let x := s.port p
  if 16 ≤ x.tx.length then raise s (portPg p) 11 0
  else
    let s := s.setPort p { x with tx := x.tx ++ [b] }
    if x.tx = [] ∧ s.uartEn p then uartStart s p else s

/-- Every bit of the byte in hand has had its time on the line. -/
def State.uartSent (s : State) (p : Nat) : Bool :=
  match (s.port p).tx, (s.port p).txTick with
  | b :: _, some n => decide ((uartBits (s.reg (portPg p) 0x84) b).length * uartTime (s.reg (portPg p) 0x84) ≤ n)
  | _, _ => false

/-- UART_BYTE_SENT (R458): the byte leaves the FIFO, and the next starts or the line idles at 1. -/
def uartByteSent (s : State) (p : Nat) : State :=
  match s.uartEn p && s.uartSent p, (s.port p).tx with
  | true, b :: r =>
    let s := (s.setPort p { s.port p with tx := r, txTick := none }).send (.uartByte p b)
    if r = [] then uartShow s p true else uartStart s p
  | _, _ => s

/-- UART_RX_BYTE (R458): a byte at the receiver, with its parity bit and whether its stop bits were there.
DESIGN CHOICE (log 30; safe). -/
def uartReceive (s : State) (p : Nat) (b : BitVec 8) (parity stop : Bool) : State :=
  if s.uartEn p && (s.fnPins p 6) != [] then
    let x := s.port p
    if 16 ≤ x.rx.length then raise s (portPg p) 11 0
    else
      let cfg := s.reg (portPg p) 0x84
      let perr := cfg.getLsbD 16 && parity != xor (byteParity b) (cfg.getLsbD 17)
      let e := BitVec.ofNat 11 (b.toNat + 2 ^ 8 + bit perr * 2 ^ 9 + bit (!stop) * 2 ^ 10)
      let s := s.setPort p { x with rx := x.rx ++ [e] }
      if perr || !stop then raise s (portPg p) 12 0 else s
  else s

/-- The oldest received byte is discarded (R458). -/
def uartDrop (s : State) (p : Nat) : State := s.setPort p { s.port p with rx := (s.port p).rx.drop 1 }

/-- The two I2C lines in one quarter of an SCL period: bit 0 SCL, bit 1 SDA, 1 released. -/
def i2cLevels (scl sda : Bool) : BitVec 2 := BitVec.ofNat 2 (bit scl + 2 * bit sda)

/-- One bit on the lines: SDA changes while SCL is 0.
PRESUMED (log 30; unsafe). -/
def i2cBit (b : Bool) : List (BitVec 2) := [i2cLevels false b, i2cLevels true b, i2cLevels true b, i2cLevels false b]

/-- What a command shows on the lines, quarter by quarter of an SCL period, in the order START, write or read, STOP (R459):
START from the lines as they stand; a byte from its most significant bit, with the acknowledge bit that the other side gives, or
that NACK withholds.
PRESUMED (log 30; unsafe). -/
def i2cWave (v : BitVec 13) (lines : BitVec 2) : List (BitVec 2) :=
  (if v.getLsbD 8 then
    [i2cLevels (lines.getLsbD 0) true, i2cLevels true true, i2cLevels true false, i2cLevels false false] else []) ++
  (if v.getLsbD 10 then (List.range 8).flatMap (fun i => i2cBit (v.getLsbD (7 - i))) ++ i2cBit true else []) ++
  (if v.getLsbD 11 then (List.range 8).flatMap (fun _ => i2cBit true) ++ i2cBit (v.getLsbD 12) else []) ++
  (if v.getLsbD 9 then
    [i2cLevels false false, i2cLevels true false, i2cLevels true true, i2cLevels true true] else [])

/-- The lines take levels: the pads of a line that changes follow it, driven to 0 or released (R459, R462). -/
def i2cShow (s : State) (p : Nat) (l : BitVec 2) : State :=
  let x := s.port p
  let pad := fun (b : Bool) => if b then 0 else padOf false true
  let s := s.setPort p { x with lines := l }
  let s := if x.lines.getLsbD 0 = l.getLsbD 0 then s else driveFn s p 7 (pad (l.getLsbD 0))
  if x.lines.getLsbD 1 = l.getLsbD 1 then s else driveFn s p 8 (pad (l.getLsbD 1))

/-- A reference period of an I2C controller: a quarter of an SCL period lasts DIV + 1 of them. -/
def i2cTick (s : State) (p : Nat) : State :=
  let x := s.port p
  match x.wave with
  | [] => s
  | _ :: r =>
    if x.waveTick < s.f (portPg p) 0x88 9 0 then s.setPort p { x with waveTick := x.waveTick + 1 }
    else
      let s := s.setPort p { x with wave := r, waveTick := 0 }
      match r with
      | [] => s
      | l :: _ => i2cShow s p l

/-- A command of the I2C controller (R459): refused while one is in hand; a disabled controller does nothing.
DESIGN CHOICE (log 30; safe). -/
def i2cStart (s : State) (p : Nat) (v : BitVec 13) : State :=
  let pg := portPg p
  if (s.port p).i2c.isSome then raise s pg bSeqFail 0
  else if s.on pg && s.f pg 0x88 16 16 == 1 then
    let wave := i2cWave v (s.port p).lines
    let s := (s.setPort p { s.port p with i2c := some v, wave := wave, waveTick := 0 }).setF pg 0xd4 10 8 1
    let s := s.send (.i2cCommand p v)
    match wave with
    | [] => s
    | l :: _ => i2cShow s p l
  else s

/-- Release both lines (R459). -/
def i2cRelease (s : State) (p : Nat) : State := i2cShow s p 3

/-- A command can end now: arbitration is lost; or a write has had its acknowledge bit, and found none; or everything has been
on the lines. -/
def State.i2cEnds (s : State) (p : Nat) (v : BitVec 13) (ack lost : Bool) : Bool :=
  lost || (v.getLsbD 10 && !ack && decide ((s.port p).wave.length ≤ 36 * bit (v.getLsbD 11) + 4 * bit (v.getLsbD 9))) ||
    (s.port p).wave.isEmpty

/-- I2C_COMMAND_END (R459). -/
def i2cEnd (s : State) (p : Nat) (ack lost : Bool) (rdata : BitVec 8) : State :=
  let pg := portPg p
  match (s.port p).i2c with
  | none => s
  | some v =>
    if !s.i2cEnds p v ack lost then s
    else
    let s := (s.setPort p { s.port p with i2c := none, wave := [] }).setF pg 0xd4 8 8 0
    if lost then i2cRelease (raise (s.setF pg 0xd4 10 10 1) pg 13 0) p
    else if v.getLsbD 10 && !ack then i2cRelease (raise (s.setF pg 0xd4 9 9 1) pg 13 0) p
    else
      let s := if v.getLsbD 11 then s.setF pg 0xd4 7 0 rdata.toNat else s
      if v.getLsbD 9 then i2cRelease s p else s

/-! ### Edge lines (R460) -/

/-- The port that EDL_SRC names for a line. -/
def State.edlPort (s : State) (n : Nat) : Nat := s.f (pg .edl) (0x40 + 4 * (n / 8)) (4 * (n % 8) + 3) (4 * (n % 8))

/-- The lines fed by an eligible pin. -/
def State.edlOk (s : State) : BitVec 32 :=
  (List.range 32).foldl (fun acc n =>
    let p := s.edlPort n
    if p < 12 ∧ s.pinFn (32 * p + n) % 16 = 9 ∧ s.on (portPg p) then acc ||| BitVec.ofNat 32 (2 ^ n) else acc) 0

/-- The lines that name a port. -/
def State.edlNamed (s : State) : BitVec 32 :=
  (List.range 32).foldl (fun acc n => if s.edlPort n < 12 then acc ||| BitVec.ofNat 32 (2 ^ n) else acc) 0

/-- A line whose pin is not eligible reads 0 from then on, and SRC_ERR is set when a line first finds its pin so (R460). -/
def edgeSources (s : State) : State :=
  let ok := s.edlOk
  let bad := s.edlNamed &&& ~~~ok
  let fresh := bad &&& ~~~s.pins.edlBad
  let s := s.withPins { s.pins with edl3 := s.pins.edl3 &&& ok, edlBad := bad }
  (List.range 32).foldl (fun s n => if fresh.getLsbD n then raise s (pg .edl) 8 n else s) s

/-- The edge lines at a tick: the pipeline moves. -/
def edgeLines (s : State) : State :=
  let ok := s.edlOk
  let new := (List.range 32).foldl (fun acc n =>
    if ok.getLsbD n ∧ s.pins.ball.getLsbD (32 * s.edlPort n + n) then acc ||| BitVec.ofNat 32 (2 ^ n) else acc) 0
  edgeSources (s.withPins { s.pins with
    edl4 := s.pins.edl3, edl3 := s.pins.edl2, edl2 := s.pins.edl1, edl1 := new })

/-! ### Switching a function, locks (R461-R464) -/

/-- SEL and FUNC of a PIN_CFG half are permitted (R444). -/
def fnOk (half : Nat) : Bool :=
  let fn := half % 16
  let sel := half / 16 % 16
  match fn with
  | 3 => true
  | 4 => decide (sel ≤ 2)
  | _ => decide (fn ≤ 9) && sel == 0

/-- The function in force at a pin becomes the one that PIN_CFG names. -/
def pendOver (s : State) (pin : Nat) (keep : Option (BitVec 8)) : State :=
  s.withPins { s.pins with pendFn := Tab.set (fun _ => none) s.pins.pendFn pin keep }

/-- A switch takes effect (R462): an input function turns the driver off, and what was on its way to the pad is gone; another
waits for its first output event, and what the last function drove before still reaches the pad. -/
def switchPin (s : State) (pin : Nat) : State :=
  let s := pendOver s pin none
  let fn := s.pinFn pin % 16
  if fn = 0 ∨ fn = 6 ∨ fn = 9 then
    drivePad (s.withPins { s.pins with late := s.pins.late.filter (fun e => e.pin != pin) }) pin 0
  else
    s.withPins { s.pins with
        waiting := Tab.set (fun _ => false) s.pins.waiting pin true
        late := s.pins.late.map (fun e => if e.pin = pin then { e with old := true } else e) }

/-- A write has changed SEL or FUNC of a pin from what PIN_CFG named (R461); `old` was in force. -/
def fnWritten (s : State) (pin was old : Nat) : State :=
  let new := s.pinHalf pin % 256
  if new = was then s
  else if s.on (pg .cyc) then pendOver s pin (if new = old then none else some (BitVec.ofNat 8 old))
  else if new = old then pendOver s pin none
  else switchPin s pin

/-- The switches that are pending take effect at step 0 of an execution (R461). -/
def switchAll (s : State) : State :=
  match s.pins.pendFn with
  | [] => s
  | l => edgeSources (l.foldl (fun s e => switchPin s e.1) s)

/-- What a pad carries as its page enters ON: its function's output as it stands. -/
def padAtStart (s : State) (pin : Nat) : BitVec 2 :=
  let fn := s.pinFn pin
  let p := pin / 32
  match fn % 16 with
  | 2 => padOf ((s.reg (portPg p) 0xe0).getLsbD (pin % 32)) ((s.reg (portPg p) 0xe4).getLsbD (pin % 32))
  | 3 => padOf (s.pulseOut (fn / 16)) true
  | 4 => padOf (s.trigSignals.getLsbD (fn / 16)) true
  | 5 => padOf (s.port p).txLine true
  | 7 => if (s.port p).lines.getLsbD 0 then 0 else padOf false true
  | 8 => if (s.port p).lines.getLsbD 1 then 0 else padOf false true
  | _ => 0

/-- The boundary register drives the pads of a port whose bank is ON (R544, R545). -/
def extestPads (s : State) (p : Nat) : State :=
  if s.on (portPg p) then
    (List.range 32).foldl (fun s i =>
      (s.withPins { s.pins with pads := Tab.set (zeroAt 2) s.pins.pads (32 * p + i) (s.cellPad (32 * p + i)) })) s
  else s

/-- A PIN_ page enters ON (R442): the supply is good and the functions drive their pads, but for one that still waits for its
first output event (R462). -/
def portStarts (s : State) (p : Nat) : State :=
  let s := s.setF (portPg p) 0xf4 0 0 1
  let s := if s.extest then extestPads s p else s
  let mine := s.cfgPins.filter (fun pin => pin / 32 == p && !Tab.get (fun _ => false) s.pins.waiting pin)
  edgeSources (mine.foldl (fun s pin => drivePad s pin (padAtStart s pin)) s)

/-- A PIN_ page leaves ON (R442): drivers off. -/
def portStops (s : State) (p : Nat) : State :=
  let s := s.setF (portPg p) 0xf4 0 0 0
  edgeSources (s.withPins { s.pins with
      pads := s.pins.pads.filter (fun e => e.1 / 32 != p)
      late := s.pins.late.filter (fun e => e.pin / 32 != p) })

/-- The pin is locked (R463): its bit of PIN_LOCK. -/
def State.pinLocked (s : State) (pin : Nat) : Bool := (s.reg (pinPg pin) 0xfc).getLsbD (pin % 32)

/-- The number of a requester's key state of a port. -/
def keyNum (rq : Requester) (p : Nat) : Nat := p * 16 + rqCode rq

/-- A requester's key is in force on a port. -/
def State.keyLives (s : State) (rq : Requester) (p : Nat) : Bool := Tab.get (zeroAt 7) s.pins.keys (keyNum rq p) != 0

/-- A requester's key on a port serves for n periods more. -/
def setKey (s : State) (rq : Requester) (p : Nat) (n : BitVec 7) : State :=
  s.withPins { s.pins with keys := Tab.set (zeroAt 7) s.pins.keys (keyNum rq p) n }

/-- A write of PIN_LOCK_KEY (R463): the key serves in this period and the 64 after it. -/
def writeLockKey (s : State) (rq : Requester) (p : Nat) (v : Word) : State := if v = 0x4c4b then setKey s rq p 65 else s

/-- A key is used up or runs out (R463). -/
def dropKey (s : State) (rq : Requester) (p : Nat) : State := setKey s rq p 0

/-- A period of the reference clock passes for the keys (R463). -/
def agedKeys (k : Tab (BitVec 7)) : Tab (BitVec 7) :=
  (List.range 192).foldl (fun t i => Tab.set (zeroAt 7) t i (BitVec.ofNat 7 ((Tab.get (zeroAt 7) t i).toNat - 1))) k

/-- A write of PIN_LOCK (R463). -/
def writeLock (s : State) (rq : Requester) (p : Nat) (mask : Word) : State :=
  if s.keyLives rq p then
    let s := dropKey s rq p
    s.setReg (portPg p) 0xfc (s.reg (portPg p) 0xfc ||| mask)
  else raise s (portPg p) bSeqFail 0

/-- A write of the upper register of PIN_SMP_T, PIN_SMP_P, PIN_DRV_T or PIN_DRV_P (which: 0 to 3) (R455). -/
def writePinTime (s : State) (p which : Nat) (hi : Word) : State :=
  let pg := portPg p
  let off := 0x100 + 8 * which
  let lo := match Tab.get (fun _ => none) s.lows (regKey pg off) with
    | some w => w
    | none => s.reg pg off
  let v := hi.toNat * 2 ^ 32 + lo.toNat
  let s := s.withLows (Tab.set (fun _ => none) s.lows (regKey pg off) none)
  if s.st (⟨.cyc, 0⟩ : PageId) ≠ stOff ∧ v = s.reg64 pg off then s
  else if s.st (⟨.cyc, 0⟩ : PageId) ≠ stOff ∨ which % 2 = 1 ∧ v < 0x50000 then
    raise s pg (pinCfgErr 3 0).1 (pinCfgErr 3 0).2
  else s.setReg64 pg off v

/-! ### The reference tick -/

/-- A pad change arrives (R454): one that the pin's function drove takes the pad; one that an earlier function drove is the level
that the pad keeps until the new function takes it (R462). -/
def lateArrives (s : State) (e : LateDrive) : State :=
  if !e.old then drivePad s e.pin e.pad
  else if Tab.get (fun _ => false) s.pins.waiting e.pin && s.on (pinPg e.pin) && !s.extest then
    s.withPins { s.pins with pads := Tab.set (zeroAt 2) s.pins.pads e.pin e.pad }
  else s

/-- Pad changes on their way (R454): each loses a tick, and some arrive. -/
def latePads (s : State) : State :=
  let s0 := s.withPins { s.pins with
    late := (s.pins.late.filter (fun e => decide (1 < e.left))).map (fun e => { e with left := e.left - 1 }) }
  s.pins.late.foldl (fun s e => if e.left ≤ 1 then lateArrives s e else s) s0

/-- The reference clock runs: not in Retain, Dormant or Off, and not before the end of start-up (R409, R493). -/
def State.refRuns (s : State) : Bool :=
  !s.pwr.off && !s.pwr.starting && decide (s.f (pg .pwr) 0x44 2 0 < 3)

/-- REFERENCE_TICK (R333, R334, R445, R460). A new period begins (R44). -/
def referenceTick (s : State) (t : TargetLevels) : State :=
  let s := s.withRecent []
  if s.refRuns then
    let s := latePads s
    let s := (List.range 12).foldl (fun s p => i2cTick (uartTick s p) p) s
    let s := targetDrives s t
    let s := (List.range 16).foldl gaugeTick s
    let s := edgeLines s
    (s.withTicks (s.ticks + 1)).withPins
      { s.pins with sync1 := s.pins.ball, sync2 := s.pins.sync1, keys := agedKeys s.pins.keys }
  else s

/-! ### The commands -/

def execPinSample (t : TargetLevels) (s : State) := done (pinSample s t)
def execSampleInstant (p : Nat) (t : TargetLevels) (s : State) := done (sampleInstant s p t)
def execDriveInstant (p : Nat) (s : State) := done (driveInstant s p)
def execUartByteSent (p : Nat) (s : State) := done (uartByteSent s p)
def execUartRxByte (p : Nat) (b : BitVec 8) (parity stop : Bool) (s : State) := done (uartReceive s p b parity stop)
def execI2cCommandEnd (p : Nat) (ack lost : Bool) (rdata : BitVec 8) (s : State) := done (i2cEnd s p ack lost rdata)
/-- LOCK_KEY_EXPIRY (R463): the command says that the 64 periods have passed, whatever periods the ticks have counted.
DESIGN CHOICE (log 45; unsafe). -/
def execLockKeyExpiry (rq : Requester) (p : Nat) (s : State) := done (dropKey s rq p)

end Sys2Proof.Machine
end

