-- ==== Sys2Proof/Machine/Queue.lean ====
section
/-! DEFINITION. Memory queues (R275-R283): taking a record, responses, release of writes, latching of windows. -/
namespace Sys2Proof.Machine

/-- All queues in die and queue order. -/
def allQueues : List (Nat × Nat) := (List.range 64).map (fun i => (i / 16, i % 16))

/-- Show MQ_STS.PENDING: records issued and not yet arrived (R286). -/
def showPending (s : State) (die q : Nat) : State :=
  s.setF (mqPg die q) 0x4c 3 0 ((s.queue die q).resps.filter (fun r => !r.arrived)).length

/-- One access of a record at step N+8 (R277): a read is issued to Veneer at once, a write is held. -/
def issueAccess (die q : Nat) (d : QDesc) (bits : Tab (Nat × Bool)) (acc : State × Resp × List HeldWrite) (i : Nat) :
    State × Resp × List HeldWrite :=
  let (s, r, ws) := acc
  let a := d.access bits i
  let (s, r) :=
    if a.re then
      let (c, bs, s) := vnrRead s (.queue (die * 16 + q)) a.addr d.wBytes
      if c = 0 then
        (s, { r with valid := r.valid ||| BitVec.ofNat 8 (2 ^ i), classes := r.classes ++ [0],
                     data := r.data ||| BitVec.ofNat 1024 (numLE bs * 2 ^ (d.width * i)) })
      else (s, { r with err := r.err ||| BitVec.ofNat 8 (2 ^ i), classes := r.classes ++ [c] })
    else (s, { r with classes := r.classes ++ [0] })
  (s, r, if a.we then ws ++ [⟨a.addr, bytesLE d.wBytes a.wdata, a.be, i⟩] else ws)

/-- A queue takes its record (R277, R280): a record with no read arrives when it is issued. -/
def takeRecord (s : State) (die q : Nat) : State :=
  let d := s.qDesc die q
  let x := s.queue die q
  let r0 : Resp := ⟨s.cycCount, 0, 0, [], 0, false⟩
  let (s, r, ws) := (List.range d.acc).foldl (issueAccess die q d x.bits) (s, r0, [])
  let noRead := r.valid == 0 && r.err == 0
  let x := s.queue die q
  showPending (s.setQueue die q
    { x with issued := true, held := ws, resps := x.resps ++ [{ r with arrived := noRead }] }) die q

/-- The error events of an arrived response (R273, R286): one RD_ERR for each failed read. -/
def responseErrors (s : State) (die q : Nat) (r : Resp) : State :=
  r.classes.zipIdx.foldl (fun s ci =>
    if r.err.getLsbD ci.2 then
      (raise s (mqPg die q) 9 (ci.1 * 2 ^ 20 + ci.2 * 2 ^ 17 + r.cycle % 2 ^ 16)).bump (mqPg die q) 0x54 15 0
    else s) s

/-- Responses of a queue are discarded, but for those to keep (R163, R166, R279, R283). A read of one that is still in
flight has failed or not by then: what R273 says of a failed read is recorded as it is discarded.
DESIGN CHOICE (log 41; unsafe). -/
def dropResps (s : State) (die q : Nat) (keep : Resp → Bool) : State :=
  let x := s.queue die q
  let s := s.setQueue die q { x with resps := x.resps.filter keep }
  showPending ((x.resps.filter (fun r => !keep r && !r.arrived)).foldl (fun s r => responseErrors s die q r) s) die q

/-- Mark the oldest response that has not arrived as arrived.
DEDUCED (log 28; unsafe). -/
def arriveFirst : List Resp → List Resp
  | [] => []
  | r :: rs => if r.arrived then r :: arriveFirst rs else { r with arrived := true } :: rs

/-- The oldest response of a queue in flight arrives (R280).
DEDUCED (log 28; unsafe). DESIGN CHOICE (log 41; safe). -/
def responseArrives (s : State) (die q : Nat) : State :=
  let x := s.queue die q
  match x.resps.find? (fun r => !r.arrived) with
  | none => s
  | some r =>
    showPending (responseErrors (s.setQueue die q { x with resps := arriveFirst x.resps }) die q r) die q

/-- One held write is released (R277, R273). -/
def releaseWrite (die q : Nat) (s : State) (w : HeldWrite) : State :=
  let (c, s) := vnrWrite s (.queue (die * 16 + q)) w.addr w.bytes w.be
  if c = 0 then s
  else
    (raise s (mqPg die q) 10 (c * 2 ^ 20 + w.idx * 2 ^ 17 + s.cycCount % 2 ^ 16)).bump (mqPg die q) 0x54 31 16

/-- The commit step for the queues (R163, R277): held writes released in order, or discarded with the responses of the
execution. -/
def queuesAtQ (s : State) (commit : Bool) : State :=
  allQueues.foldl (fun s dq =>
    let x := s.queue dq.1 dq.2
    if commit then
      let s := x.held.foldl (releaseWrite dq.1 dq.2) s
      s.setQueue dq.1 dq.2 { s.queue dq.1 dq.2 with held := [] }
    else
      dropResps (s.setQueue dq.1 dq.2 { x with held := [] }) dq.1 dq.2
        (fun r => !x.issued || r.cycle != s.cycCount)) s

/-- Is the response that cycle m consumes awaited and missing at a queue (R167)? One to a request not issued yet at the
vote step, as with Lq = 1 and D before N+8, is not awaited.
DESIGN CHOICE (log 43; unsafe). -/
def queueLate (s : State) (die q m : Nat) : Bool :=
  s.on (mqPg die q) && (s.queue die q).resps.any (fun r => r.cycle + (s.qDesc die q).lq == m && !r.arrived)

/-- Latch each queue's window at the boundary into cycle m (R166, R279); a response missing then is discarded. -/
def latchWindows (s : State) (m : Nat) : State :=
  allQueues.foldl (fun s dq =>
    let x := s.queue dq.1 dq.2
    let l := (s.qDesc dq.1 dq.2).lq
    let r := if s.on (mqPg dq.1 dq.2) then x.resps.find? (fun r => r.cycle + l == m && r.arrived) else none
    dropResps (s.setQueue dq.1 dq.2
      { x with window := r.map (fun r => (r.data, BitVec.ofNat 16 (r.valid.toNat + 256 * r.err.toNat))) }) dq.1 dq.2
      (fun r => decide (m < r.cycle + l))) s

/-- A queue at step 0 of an execution: its record starts at 0 (R82). -/
def queuesStart (s : State) : State :=
  allQueues.foldl (fun s dq =>
    s.setQueue dq.1 dq.2 { s.queue dq.1 dq.2 with bits := [], held := [], issued := false }) s

/-- The CYC_ start sequence empties every queue's response buffer and window (R279). -/
def queuesEmpty (s : State) : State :=
  allQueues.foldl (fun s dq =>
    dropResps (s.setQueue dq.1 dq.2 { s.queue dq.1 dq.2 with window := none }) dq.1 dq.2 (fun _ => false)) s

/-- A queue whose page leaves ON loses its pending responses (R283). -/
def queueStops (s : State) (die q : Nat) : State := dropResps s die q (fun _ => false)

end Sys2Proof.Machine
end

