-- ==== Sys2Proof/Machine/Receive.lean ====
section
/-! DEFINITION. What a bundle receives (R298-R303, R305, R308, R310): frames, their header and slots, control units, packets
put together from units. -/
namespace Sys2Proof.Machine

/-! ### Packets and data -/

/-- What a packet that has arrived on a bundle does; `rx` is the time at which its first unit arrived. -/
def packetActs (s : State) (b : Nat) (rx : BitVec 64) : Packet → State
  | .retry n => retryIn s b n
  | .lanemap f sp sw => lanemapIn s b f sp (BitVec.ofNat 16 sw)
  | .time seq tx es er => timeIn s b rx (BitVec.ofNat 8 seq) tx (BitVec.ofNat 8 es) er
  | .state off => stateIn s b off
  | .ident k => identIn s b k
  | .topo t => topoIn s b t
  | .mesh tag data => meshIn s b tag data
  | .chain (.start pos id) => chainStart s b pos id
  | .chain .end_ => if s.ldr.up = b then chainEnd s else s
  | .chain (.commit id) => if s.ldr.up = b then chainCommit s id else s
  | .chain (.abort pos id) => if s.ldr.up = b then chainAbort s pos id else s
  | .chain .ready => if s.ldr.down = b then chainReady s else s
  | .chain (.fail pos code check) => if s.ldr.down = b then chainFail s pos code check else s
  | .chain (.done pos) => if s.ldr.down = b then chainDone s pos else s

/-- A PKT unit (R303, R308): it begins a packet, or goes on with the one in assembly; the last one brings the packet. A packet
of a reserved type is discarded. -/
def pktUnit (s : State) (b u : Nat) : State :=
  let x := (s.bundle b).rx
  let t := fld u 27 24
  let cur := if u.testBit 28 then (if ptypeUnits t = 0 then none else some (t, s.timeStamp, s.cyc.csc, [u]))
    else x.cur.map (fun e => (e.1, e.2.1, e.2.2.1, e.2.2.2 ++ [u]))
  match cur with
  | some (t, rx, at_, us) =>
    if us.length = ptypeUnits t then
      let s := s.setRx b { x with cur := none }
      match Packet.ofContent t (contentOf us) at_ with
      | some p => packetActs s b rx p
      | none => s
    else s.setRx b { x with cur := cur }
  | none => s.setRx b { x with cur := none }

/-! ### Frames (R298-R301) -/

/-- A frame fails: the first unit missing is asked for again (R310). -/
def openGap (s : State) (b : Nat) : State :=
  let x := (s.bundle b).rx
  if (s.bup b || s.bst b == bsIdent) && x.gap.isNone then
    sendPacket (s.setRx b { x with gap := some x.next }) b (.retry x.next)
  else s

/-- Dovetail slots delivered on a bundle in a row; a bundle that is not UP delivers 0. -/
def deliverSlots (s : State) (b row : Nat) (v : BitVec 448) : State :=
  if s.executing && s.bup b then
    s.withFab { s.fab with bgot := Tab.set (zeroAt 448) s.fab.bgot (b * 8192 + row) v }
  else s

/-- A frame that fails under R301: reason 1 decoder, 2 header. -/
def frameFails (s : State) (b row cnt reason : Nat) : State :=
  let s := (raise (deliverSlots s b row 0) (bndPg b) 14 (bndInfo reason cnt)).bump (bndPg b) 0x58 31 0
  let s := if s.executing && decide (32 ≤ row) && decide (row < s.nLen) then raiseReplay s 2 0 1 else s
  openGap s b

/-- The header that a receiver expects (R301): LOAD where the direction was in load mode at the step of its sending. -/
def frameHeaderOk (s : State) (b row cnt f : Nat) : Bool :=
  if s.executing && decide (32 ≤ row) && decide (row < s.nLen + 32) then
    fld f 480 480 == 1 && fld f 482 481 == s.execCycle % 4 && fld f 494 483 == row - 32
  else
    fld f 480 480 == 0 && (fld f 482 481 == 0 || fld f 482 481 == 1 && s.heardLoad b (cnt - 32)) &&
      fld f 494 483 == (cnt + 4096 - 32) % 4096

/-- A control unit that arrives in the frame of a count (R302, R303): a vote unit is held for its round; PKT and DATA units are
numbered; a unit of a reserved KIND is discarded as if its frame had failed. -/
def unitIn (s : State) (b cnt u : Nat) : State :=
  match fld u 31 29 with
  | 0 => s
  | 1 => s.setRx b { (s.bundle b).rx with votes := ((cnt, u) :: (s.bundle b).rx.votes).take 16 }
  | 2 => packetIn s b 1 (fun s => pktUnit s b u)
  | 3 => packetIn s b 1 (fun s => streamBytes s b ((bytesLE 3 u).take (fld u 25 24)))
  | 4 => resumeIn s b (fld u 23 0)
  | _ => openGap s b

/-- What a frame with the expected header brings: its slots, 0 where VALID is 0, and its control unit or the 60 bytes of a LOAD
frame, which are 15 numbered words (R298, R310). -/
def frameTaken (s : State) (b row cnt f : Nat) : State :=
  let s := deliverSlots s b row (if f.testBit 480 then BitVec.ofNat 448 f else 0)
  if fld f 482 480 = 2 then packetIn s b 15 (fun s => streamBytes s b (bytesLE 60 f))
  else unitIn s b cnt (fld f 479 448)

/-- BUNDLE_FRAME: a frame is applied at a count that is not past (R300, R301).
DEDUCED (log 29; unsafe). -/
def bundleFrame (s : State) (b cnt : Nat) (raw : BitVec 531) : State :=
  if bsAlign ≤ s.bst b ∧ s.bst b ≤ bsUp ∧ s.stepAhead cnt then
    let s := countTo s cnt
    let row := cnt - s.cyc.t0
    match rsDecode raw.toNat with
    | none => frameFails s b row cnt 1
    | some (n, f) =>
      if frameHeaderOk s b row cnt f then
        let s := if n = 0 then s else (raise s (bndPg b) 13 (bndInfo n cnt)).bump (bndPg b) 0x54 31 0
        frameTaken s b row cnt f
      else frameFails s b row cnt 2
  else s

/-! ### The commands -/

def execBundleFrame (b : Nat) (cnt : BitVec 64) (raw : BitVec 531) (s : State) := done (bundleFrame s b cnt.toNat raw)
/-- DATA_UNIT (R311): the bytes of DATA units, or of LOAD frames while the direction is in load mode, and as many units as those
take. -/
def execDataUnit (b : Nat) (bytes : List (BitVec 8)) (s : State) :=
  let n := bytes.length
  done (packetIn s b (if s.heardLoad b (s.cyc.csc - 32) then (n + 3) / 4 else (n + 2) / 3) (fun s => streamBytes s b (bytes.map BitVec.toNat)))

end Sys2Proof.Machine
end

