-- ==== Sys2Proof/Machine/Cycle.lean ====
section
/-! DEFINITION. Cycles, votes, Clamp and replay (R144-R182, R304-R307): the named steps of an execution, vote rounds, holds
and releases, commit and discard, starting and stopping. -/
namespace Sys2Proof.Machine

/-- The causes that the next execution itself waits for: MQ_LATE and PACE, where it is a new cycle m (R167, R361). -/
def State.nextCauses (s : State) (new : Bool) (m : Nat) : BitVec 8 :=
  when_ (new && allQueues.any (fun dq => queueLate s dq.1 dq.2 m)) cMqLate ||| when_ (new && paceLive s) cPace

/-- The causes live now, where the next execution is that of cycle m. -/
def State.liveCauses (s : State) (new : Bool) (m : Nat) : BitVec 8 := s.standing ||| s.nextCauses new m

/-- CLP_LIVE.LOCAL (R182): the causes live now, with the tests made for the execution that comes next. -/
def State.localCauses (s : State) : BitVec 8 :=
  if s.executing && s.cyc.phase != .settled then s.liveCauses true (s.cycCount + 1)
  else s.liveCauses (!s.cyc.rerun) s.cycCount

/-- What a vote at this step carries (R147): of the standing causes, those that were live before it. -/
def State.voteCauses (s : State) (new : Bool) (m : Nat) : BitVec 8 := (s.standing &&& s.cyc.carried) ||| s.nextCauses new m

/-! ### Vote rounds (R147-R150, R304-R307) -/

/-- K of R304: how often a round's message is sent. -/
def State.relays (s : State) : Nat := (s.prop - 16) / 48

/-- The vote message of a round (R149). -/
def State.voteMessage (s : State) (r : Round) : BitVec 50 :=
  BitVec.ofNat 50 (r.v % 16 + r.heard.toNat * 2 ^ 4 + bit s.cycOn * 2 ^ 12 + s.nLen * 2 ^ 13 + s.sLen * 2 ^ 26 +
    s.prop * 2 ^ 36 + s.f clpPg 0x44 2 0 * 2 ^ 46)

/-- The number of older rounds whose messages fall on the same step as message k of a round with vote step v (R304). -/
def State.roundPlace (s : State) (v k : Nat) : Nat :=
  (s.cyc.casts.filter (fun w => decide (w < v) && (v - w) % 48 == 0 && decide (k + (v - w) / 48 < s.relays))).length

/-- The two vote units of a message (R302, R305). -/
def voteUnit1 (m : BitVec 50) : Nat := 2 ^ 29 + 2 ^ 28 + fld m.toNat 27 0
def voteUnit2 (m : BitVec 50) : Nat := 2 ^ 29 + fld m.toNat 49 28

/-- The spare-lane copy of a message (R306). -/
def voteBlock (m : BitVec 50) : BitVec 128 :=
  let n := 0x5a3c + fld (voteUnit1 m) 27 0 * 2 ^ 16 + fld (voteUnit2 m) 27 0 * 2 ^ 44
  BitVec.ofNat 128 (n + crcBits 72 n * 2 ^ 72)

/-- A message is due on a bundle in the frames of two counts, and on its spare lane where that is free (R304-R306). -/
def sendVote (s : State) (b c : Nat) (m : BitVec 50) : State :=
  let x := (s.bundle b).tx
  let spare := if (s.txSpare b).isSome then x.spare ++ [(streamPos c / 8, voteBlock m)] else x.spare
  s.setTx b { x with votes := x.votes ++ [(c, voteUnit1 m), (c + 1, voteUnit2 m)], spare := spare }

/-- A round's message goes out on every UP bundle that is not in load mode, in the frames of counts V + 48k + 7 + 2i and the
one after (R304). -/
def sendVotes (s : State) (r : Round) (k : Nat) : State :=
  (s.upBundles.filter (fun b => !s.loadMode b)).foldl (fun t b =>
    sendVote t b (r.v + 48 * k + 7 + 2 * s.roundPlace r.v k) (s.voteMessage r)) s

/-- Cast a vote now (R147, R148, R312): for the release point `rel`, or 0 for a decision step. A receive direction in load
mode counts as HOST_HOLD. -/
def castVote (s : State) (rel : Nat) (own : BitVec 8) : State :=
  let r : Round := ⟨rel, s.cyc.csc, own, own ||| when_ (s.upBundles.any (fun b => s.heardLoad b s.cyc.csc)) cHostHold, false⟩
  let s := s.withCyc { s.cyc with
    rounds := s.cyc.rounds ++ [r], casts := s.cyc.csc :: s.cyc.casts.filter (fun w => decide (s.cyc.csc < w + 2048)) }
  if s.relays = 0 then s else sendVotes s r 0

/-- VOTE_RELAY (R304): the round's message is sent again at V + 48k. -/
def voteRelay (s : State) (v k : Nat) : State :=
  if 0 < k ∧ k < s.relays ∧ s.stepAhead (v + 48 * k) then
    let s := countTo s (v + 48 * k)
    match s.cyc.rounds.find? (fun r => r.v == v) with
    | some r => sendVotes s r k
    | none => s
  else s

/-- The message of a spare-lane copy whose marker and CRC are good (R306).
DEDUCED (log 22; unsafe). -/
def spareCopy (c : BitVec 128) : Option (BitVec 50) :=
  let n := c.toNat
  if fld n 15 0 = 0x5a3c ∧ fld n 103 72 = crcBits 72 (n % 2 ^ 72) then
    some (BitVec.ofNat 50 (fld n 43 16 + fld n 65 44 * 2 ^ 28))
  else none

/-- The comparison of R150.
DEDUCED (log 22; unsafe). -/
def compareVote (s : State) (m : BitVec 50) : State :=
  let n := m.toNat
  if s.cycOn && fld n 12 12 == 1 &&
      (fld n 25 13 != s.nLen || fld n 35 26 != s.sLen || fld n 45 36 != s.prop || fld n 48 46 != s.f clpPg 0x44 2 0) then
    raiseFault s 0xa 0 1
  else s

/-- The vote step lies within 1,024 steps after a change of either CYC_ page that the device has learnt of (R312). -/
def State.votesExcused (s : State) (b v : Nat) : Bool :=
  (s.bundle b).changedAt.any (fun c => decide (c ≤ v) && decide (v < c + 1024))

/-- The frame copy of a message (R304, R305): its two units, in the frames applied at counts V + 48k + 39 + 2i and the one
after. -/
def frameCopy (s : State) (b v k : Nat) : Option (BitVec 50) :=
  let c := v + 48 * k + 39 + 2 * s.roundPlace v k
  let at_ := fun (n : Nat) => ((s.bundle b).rx.votes.find? (fun e => e.1 == n)).map (·.2)
  match at_ c, at_ (c + 1) with
  | some u, some w =>
    if u.testBit 28 && !w.testBit 28 then some (BitVec.ofNat 50 (fld u 27 0 + fld w 21 0 * 2 ^ 28)) else none
  | _, _ => none

/-- The receive spare lane carries vote copies: the direction has one, and it is not in use (R306). -/
def State.spareHeard (s : State) (b : Nat) : Bool := decide (s.rxSpare b < 9) && s.f (bndPg b) 0x44 4 4 == 0

/-- Every message received is compared (R150): the frame copy, or the spare-lane copy where no frame copy came. -/
def compareCopies (s : State) (frame copy : Option (BitVec 50)) : State :=
  match frame.or copy with
  | some m => compareVote s m
  | none => s

/-- What a bundle holds for a round is applied (R150, R307, R312): the frame copy where it counts, else the spare-lane copy. -/
def voteHeld (s : State) (b v : Nat) (frame copy : Option (BitVec 50)) : State :=
  let counts := fun (m : BitVec 50) => m.toNat % 16 == v % 16
  let s := compareCopies s frame copy
  match (frame.filter counts).or (copy.filter counts) with
  | some m =>
    s.withCyc { s.cyc with rounds := s.cyc.rounds.map (fun r =>
        if r.v = v ∧ !r.held then { r with heard := r.heard ||| BitVec.ofNat 8 (fld m.toNat 11 4) } else r) }
  | none =>
    if s.votesExcused b v || !s.cyc.rounds.any (fun r => r.v == v) then s
    else
      let s := (raise s (bndPg b) 18 (s.cyc.csc % 4096)).bump (bndPg b) 0x64 15 0
      raiseFault s 0xa 0 1

/-- The time moves to a step with its count, before what is known at that step is held. -/
def stepTo (s : State) (c : Nat) : State := if s.executing then passTo s (c - s.cyc.t0) else passSteps s c

/-- VOTE_MESSAGE (R304, R307): at step V + 48(k + 1), what a bundle holds of message k of a round; Cabinet votes known at that
step hold it too. A message that this device's own K does not count is compared alone (R150). The frame copy is the command's,
or the one that BUNDLE_FRAME brought.
DEDUCED (log 22; unsafe). DESIGN CHOICE (log 42; safe). -/
def voteMessageIn (s : State) (b v : Nat) (frame : VoteCopy) (spare : Option (BitVec 128)) : State :=
  let c := v + 48 * (frame.k + 1)
  if !s.bup b || s.heardLoad b (v + 48 * frame.k) || !s.stepAhead c then s
  else
    let s := stepTo s c
    let inFrame := frame.msg.or (frameCopy s b v frame.k)
    let copy := if s.spareHeard b then spare.bind spareCopy else none
    holdDue (if frame.k < s.relays then voteHeld s b v inFrame copy else compareCopies s inFrame copy)

/-! ### The steps of an execution -/

/-- A vote step shows at each queue whether it makes MQ_LATE live (R286): MQ_STS.LATE, and where it does, the sticky bit
and MQ_LATE_CNT. -/
def queueVotes (s : State) (new : Bool) (m : Nat) : State :=
  allQueues.foldl (fun t dq =>
    let p := mqPg dq.1 dq.2
    let late := new && queueLate s dq.1 dq.2 m
    let t := t.setF p 0x4c 8 8 (bit late)
    if late then (raise t p 11 (s.cycCount % 2 ^ 16)).bump p 0x50 31 0 else t) s

/-- The REPLAY of a lane failure that this vote carries (R155): it goes on as that of a poisoning event where a restore
follows, and else has counted. -/
def laneCounted (s : State) (restore : Bool) : State :=
  match s.cyc.lane with
  | some c => if c < s.cyc.csc then s.withCyc { s.cyc with lane := none, replay := s.cyc.replay || restore } else s
  | none => s

/-- DECISION_STEP (R147). -/
def decisionStep (s : State) : State :=
  if s.cyc.phase = .running then
    let s := moveStep s s.dStep
    let v := s.voteCauses true (s.cycCount + 1)
    let s := laneCounted (castVote (queueVotes s true (s.cycCount + 1)) 0 v) true
    s.withCyc { s.cyc with phase := .voted }
  else s

/-- REPLAY_LIMIT (R170): the vote holds REPLAY and CURRENT already equals CLP_REPLAY_MAX. -/
def State.atLimit (s : State) : Bool :=
  s.cyc.outcome.getLsbD 1 && s.f clpPg 0x58 2 0 == s.f clpPg 0x44 2 0

/-- CONFIRM_STEP (R148, R170). -/
def confirmStep (s : State) : State :=
  if s.cyc.phase = .voted then
    let s := moveStep s s.cStep
    let out := match s.cyc.rounds.find? (fun r => r.rel == 0) with
      | some r => r.heard
      | none => 0
    let s := s.withCyc { s.cyc with
      phase := .confirmed, outcome := out, rounds := s.cyc.rounds.filter (fun r => r.rel != 0) }
    let s := holdVote s out
    let s := s.withCyc { s.cyc with limit := s.atLimit }
    if s.atLimit then raiseFault s 9 0 1 else s
  else s

/-- QUEUE_ISSUE (R277): a queue takes its record at step N+8. -/
def queueIssue (s : State) (die q : Nat) : State :=
  if s.executing && s.on (mqPg die q) && decide (die < 4) && decide (q < 16) && !(s.queue die q).issued &&
      decide (s.step ≤ s.nLen + 8) && s.cyc.phase != .settled then
    takeRecord (moveStep s (s.nLen + 8)) die q
  else s

/-- EXPORT_RECORD (R115): a Panel's record reaches H. -/
def exportRecord (s : State) (die panel : Nat) : State :=
  if s.executing && s.cyc.phase != .settled && decide (die < 4) && decide (panel < 132) && s.on (pnlPg die panel) &&
      (s.lpanel die panel).isSome && decide (s.step ≤ s.nLen + 12) then
    let s := moveStep s s.nLen
    s.withExports (Tab.put s.exports (die * 132 + panel) (exportOf (s.panel die panel)))
  else s

/-- The Panels that take part: bound and ON, as die and number. -/
def State.livePanels (s : State) : List (Nat × Nat) :=
  (List.range 528).filterMap (fun k =>
    let d := k / 132
    let p := k % 132
    if (s.lpanel d p).isSome && s.on (pnlPg d p) then some (d, p) else none)

/-- A Panel at Q of a committed execution (R88, R163): buffer drained, Value Store copied to the shadow bank. -/
def commitPanel (p : Panel) : Panel :=
  { p with
    ram := p.wbuf.foldl (fun t e => Tab.set (zeroAt 64) t e.1 e.2) p.ram
    ramErr := p.wbuf.foldl (fun t e => Tab.set (fun _ => EccClass.clean) t e.1 EccClass.clean) p.ramErr
    wbuf := [], sh := p.vs, shBad := p.vsBad }

/-- A Panel at Q of an execution that is not committed (R88, R100). -/
def restorePanel (p : Panel) : Panel := { p with wbuf := [], vs := p.sh, vsBad := p.shBad }

/-- The restore of one Panel with the check of R104, in the order of R107.
DESIGN CHOICE (log 14; unsafe). -/
def restoreChecked (s : State) (die panel : Nat) : State :=
  let p := s.panel die panel
  let bad := p.shBad.map (·.1)
  let s := s.setPanel die panel (restorePanel p)
  let s := raiseAll s (pnlPg die panel) (bad.map (fun r => (13, dowelInfo (r % 64) (r / 64) 0)))
  bad.foldl (fun s _ => raiseFault s 5 die 0) s

/-- The actions of a committed execution (R163). -/
def commitActions (s : State) : State :=
  let s : State := s.withTrg { s.trg with gq := s.gaugeValues, record := some (s.cycCount, s.cyc.rerun) }
  let s := handoverAll (queuesAtQ s true)
  let s := s.livePanels.foldl (fun s dp => s.setPanel dp.1 dp.2 (commitPanel (s.panel dp.1 dp.2))) s
  let s := s.setReg64 cycPg 0x48 (s.cycCount + 1)
  let s := s.setF clpPg 0x58 2 0 0
  s.withCyc { s.cyc with stopif := s.cyc.stopif || !s.cyc.stopAt.isEmpty, stopAt := [], rerun := false }

/-- The actions of an execution that is not committed (R163, R170). A shadow row that fails in the restore is captured
with CURRENT as it stands before it increments at the same step.
DESIGN CHOICE (log 43; unsafe). -/
def discardActions (s : State) : State :=
  let out := s.cyc.outcome
  let s := queuesAtQ s false
  let s := s.livePanels.foldl (fun s dp => restoreChecked s dp.1 dp.2) s
  let s :=
    if out.getLsbD 1 && !out.getLsbD 7 && !s.cyc.limit then (s.bump clpPg 0x58 31 16).bump clpPg 0x58 2 0 else s
  (s.withExports []).withCyc { s.cyc with stopAt := [], rerun := true, replay := s.cyc.replay && !out.getLsbD 1 }

/-- COMMIT_STEP (R163). -/
def commitStep (s : State) : State :=
  if s.cyc.phase = .confirmed then
    let s := moveStep s s.qStep
    let s := if s.cyc.outcome.getLsbD 1 || s.cyc.outcome.getLsbD 7 then discardActions s else commitActions s
    s.withCyc { s.cyc with phase := .settled }
  else s

/-! ### Boundaries and holds -/

/-- What an execution leaves in a Panel ends at step 0 of the next (R82, R84). -/
def freshPanel (p : Panel) : Panel :=
  { p with wbuf := [], con := [], rdata := [], strobes := [], res := [], done := [], cout := [], toggles := 0,
           stopReq := false, stopCode := 0 }

/-- A hold ends: its release rounds stand for no release point any more, and only go on to be held (R148, R158). -/
def roundsOver (rs : List Round) : List Round :=
  (rs.filter (fun r => !r.held)).map (fun r => { r with rel := relOver })

/-- Step 0 of an execution begins now (R65, R157, R356, R358, R360, R450, R461).
DEDUCED (log 21; unsafe). -/
def startExecution (s : State) : State :=
  let first := !s.cyc.rerun
  let s : State := s.withPanels (Tab.mapAll (fun _ => Panel.empty) (fun _ p => freshPanel p) s.panels)
  let s : State := s.withFab { s.fab with ingress := [], sent := [], got := [], bsent := [], bgot := [] }
  let s : State := s.withCyc { s.cyc with
    phase := .running, t0 := s.cyc.csc, rounds := roundsOver s.cyc.rounds, stopAt := [], outcome := 0, free := false,
    limit := false }
  let s := s.setReg cycPg 0x44 (BitVec.ofNat 32 (1 + 4 * bit (!first)))
  let s : State := s.withTrg { s.trg with g0 := s.gaugeValues, record := none }
  let s := switchAll (queuesStart s)
  if first then
    let s : State := s.withExports []
    let s := if s.cycCount == 0 then pendingArms s else s
    latchPins (latchWindows (latchEvents (paceStart s)) s.cycCount)
  else s

/-- M of R160: the slots always held, never fewer than one. -/
def State.minSlots (s : State) : Nat := max 1 ((s.prop + 63) / 64)

/-- Hold step 0 is now (R160). -/
def startHold (s : State) : State :=
  let m := s.cyc.csc + 64 * s.minSlots
  let s := s.withCyc { s.cyc with
    phase := .held, t0 := s.cyc.csc, nextRel := s.cyc.csc + 64, voteFor := m, firstRel := m }
  s.setF cycPg 0x44 1 1 1

/-- BOUNDARY (R157). -/
def boundary (s : State) : State :=
  if s.cyc.phase = .settled then
    let s := moveStep s s.tStep
    if s.cyc.outcome = 0 then startExecution s else startHold s
  else s

/-- The release points of a free hold lie at multiples of 64 of the Cabinet step count (R176): those that the count has
passed are no longer to come.
DESIGN CHOICE (log 10; safe). -/
def alignFree (s : State) : State :=
  if s.cyc.free then
    s.withCyc { s.cyc with
      nextRel := max s.cyc.nextRel (ceil64 s.cyc.csc)
      voteFor := max s.cyc.voteFor (ceil64 (s.cyc.csc + s.prop)) }
  else s

/-- A free hold begins at the count that stands (R176), or goes on. -/
def freeHold (s : State) : State :=
  if s.cyc.free && !s.executing then alignFree s
  else
    alignFree (s.withCyc { s.cyc with
      phase := .held, free := true, rounds := roundsOver s.cyc.rounds, nextRel := ceil64 (s.cyc.csc + 1),
      voteFor := ceil64 (s.cyc.csc + s.prop), firstRel := 0 })

/-- RELEASE_VOTE (R160, R176): the vote for the next release point that has one, unless a release point comes first. -/
def releaseVote (s : State) : State :=
  let s := alignFree s
  if s.executing || !s.stepsPass || decide (s.cyc.nextRel + s.prop ≤ s.cyc.voteFor) then s
  else
    let s := moveCount s (s.cyc.voteFor - s.prop)
    let new := !s.cyc.rerun
    let v := s.voteCauses new s.cycCount
    let s := laneCounted (castVote (queueVotes s new s.cycCount) s.cyc.voteFor v) false
    s.withCyc { s.cyc with voteFor := s.cyc.voteFor + 64 }

/-- RELEASE_POINT (R160, R162, R176, R178). A release vote that holds no cause ends the hold, also where the page has
begun to stop since the vote was cast (R158, R179).
DEDUCED (log 21; unsafe). -/
def releasePoint (s : State) : State :=
  let s := alignFree s
  let at_ := s.cyc.nextRel
  if s.executing || !s.stepsPass ||
      decide (s.cyc.voteFor ≤ at_) && decide (s.cyc.firstRel ≤ at_) then s
  else
    let s := moveCount s at_
    let s := s.withCyc { s.cyc with nextRel := at_ + 64 }
    let s := if s.cycOn then s.bump clpPg 0x5c 31 0 else s
    match s.cyc.rounds.find? (fun r => r.rel == at_) with
    | none => s
    | some r =>
      let s := if r.held then s else holdVote s r.heard
      let s := s.withCyc { s.cyc with rounds := s.cyc.rounds.filter (fun r => r.rel != at_) }
      if r.heard = 0 ∧ s.st cycPg ≠ stOff then startExecution s else s

/-! ### Starting and stopping (R177, R179) -/

/-- Every page that R177 requires is ON. -/
def State.pagesReady (s : State) : Bool :=
  (List.range 528).all (fun k => !(s.lpanel (k / 132) (k % 132)).isSome || s.on (pnlPg (k / 132) (k % 132))) &&
    (List.range 4).all (fun g => !s.ldr.dvts.getLsbD g || s.on (dvtPg g))

/-- The first condition of R177 that makes a start fail: its reason, or 0. -/
def State.startReason (s : State) : Nat :=
  if !s.on clpPg then 1
  else if !s.imageCommitted || s.cyc.noImage then 2
  else if s.sLen < s.prop then 3
  else if s.prop < 48 * s.f bnd0 0x188 5 0 + 16 then 4
  else if (List.range 6).any (fun b => s.f (bndPg b) 0x44 5 5 == 1) then 5
  else if s.f bnd0 0x188 16 16 = 0 then 6
  else if !s.pagesReady then 7
  else 0

/-- The CYC_ page has started: cycle 0 is next (R177, R279, R356, R360). -/
def cycStarted (s : State) : State :=
  let s := gaugesStart (queuesEmpty ((s.setReg64 cycPg 0x48 0).setSt cycPg stOn))
  freeHold (s.withCyc { s.cyc with rerun := false, stopAt := [], stopif := s.cyc.stopif })

/-- The CYC_ page's stop ends in OFF (R179): held, with REPLAYING still that of the latest execution (R181). -/
def cycStopped (s : State) : State :=
  freeHold (((s.setSt cycPg stOff).setF cycPg 0x44 0 0 0).setF cycPg 0x44 1 1 1)

/-! ### Releases of causes (R156, R170) -/

/-- A cause ends (R156): raised again at the same step, it is a new one (R147). -/
def endCause (s : State) (c : BitVec 8) : State := s.withCyc { s.cyc with carried := s.cyc.carried &&& ~~~c }

/-- CLP_RELEASE.FAULT: FAULT ends, and CURRENT is 0, also where FAULT was not live on this device.
DESIGN CHOICE (log 43; unsafe). -/
def releaseFault (s : State) : State :=
  endCause ((s.setF clpPg 0x58 2 0 0).withCyc { s.cyc with fault := false }) cFault

/-- CLP_RELEASE.STOPIF: STOPIF ends; requests still on their way raise it again as they arrive (R113, R156). -/
def releaseStopif (s : State) : State :=
  endCause (s.withCyc { s.cyc with stopif := false, stopAt := s.cyc.stopAt.filter (fun t => decide (s.step ≤ t)) }) cStopif

/-- CLP_RELEASE.TRIG_STOP. -/
def releaseTrigStop (s : State) : State := endCause (s.withCyc { s.cyc with trigStop := false }) cTrigStop

/-! ### The commands -/

def execDecisionStep (s : State) := done (decisionStep s)
def execVoteRelay (v : BitVec 64) (k : Nat) (s : State) := done (voteRelay s v.toNat k)
def execVoteMessage (b : Nat) (v : BitVec 64) (frame : VoteCopy) (spare : Option (BitVec 128)) (s : State) :=
  done (voteMessageIn s b v.toNat frame spare)
def execConfirmStep (s : State) := done (confirmStep s)
def execCommitStep (s : State) := done (commitStep s)
def execBoundary (s : State) := done (boundary s)
def execReleaseVote (s : State) := done (releaseVote s)
def execReleasePoint (s : State) := done (releasePoint s)
def execQueueIssue (die q : Nat) (s : State) := done (queueIssue s die q)
def execExportRecord (die panel : Nat) (s : State) := done (exportRecord s die panel)
def execMemoryResponse (die q : Nat) (s : State) := done (responseArrives s die q)

def execNop (d : DowelAt) (s : State) := done (execDowel s d (· == 0))
def execEval (d : DowelAt) (s : State) := done (execDowel s d (· == 1))
def execEvalc (d : DowelAt) (s : State) := done (execDowel s d (· == 2))
def execPrd (d : DowelAt) (s : State) := done (execDowel s d (· == 3))
def execPwr (d : DowelAt) (s : State) := done (execDowel s d (· == 4))
def execMemq (d : DowelAt) (s : State) := done (execDowel s d (· == 5))
def execProbe (d : DowelAt) (s : State) := done (execDowel s d (· == 6))
def execPino (d : DowelAt) (s : State) := done (execDowel s d (· == 7))
def execStopif (d : DowelAt) (s : State) := done (execDowel s d (· == 8))
def execTrigb (d : DowelAt) (s : State) := done (execDowel s d (· == 9))
def execReservedOpcode (d : DowelAt) (s : State) := done (execDowel s d (fun o => decide (10 ≤ o)))

/-- CROSSBAR_ROW (R124): the row of a step of the execution. -/
def execCrossbarRow (g row : Nat) (s : State) :=
  done (if s.executing && decide (row < s.nLen) && decide (s.step ≤ row) && decide (g < 4) then
    crossbarStep (moveStep s row) g row else s)

/-- BUNDLE_SLOT_ROW (R134). -/
def execBundleSlotRow (row : Nat) (s : State) :=
  done (if s.executing && decide (row < s.nLen) && decide (s.step ≤ row) then slotStep (moveStep s row) row else s)

/-- DIE_LINK_FRAME (R133): a frame reaches a receiver at a step of the execution, or in a hold. -/
def execDieLinkFrame (die m : Nat) (atHub : Bool) (t : Nat) (noise : LinkNoise) (s : State) :=
  done (if decide (die < 4) && decide (m < 4) && (m == 2 || !atHub) && linkCarries s die m &&
      (!s.executing || decide (s.step ≤ t) && decide (t < s.tStep)) then
    linkReceive (if s.executing then moveStep s t else s) die m atHub t noise else s)

/-- DL_LANE (R133). -/
def execDlLane (die m lane : Nat) (atHub : Bool) (s : State) :=
  done (if decide (die < 4) && decide (m < 4) && (m == 2 || !atHub) && s.mod die m == .up then
    laneLost s die m lane atHub else s)

/-- DIE_LINK_TRAINING_END (R129, R130). -/
def execDieLinkTrainingEnd (die m : Nat) (failed : TrainResult) (failedRx : Nat) (s : State) :=
  done (if decide (die < 4) && decide (m < 4) && s.modTrains die m then
    trainingEnd s die m failed.lanes failedRx failed.ok else s)

end Sys2Proof.Machine
end

