-- ==== Sys2Proof/Machine/Trace.lean ====
section
/-! DEFINITION. The trace units of the control cores (R395-R403): packets, filters, the trace trigger, and the buffer on
chip or in HBM. -/
namespace Sys2Proof.Machine

/-- The TRC_ page of a core. -/
def trcPg (c : Nat) : PageId := ⟨.trc, c⟩

/-- A trace unit that has run nothing. -/
def TraceUnit.empty : TraceUnit := ⟨[], 0, [], 0, 0, [], 0, 0, none, false, false⟩

/-- The trace unit of a core. -/
def State.tr (s : State) (c : Nat) : TraceUnit := Tab.get (fun _ => TraceUnit.empty) s.traces c

/-- Replace a trace unit. -/
def State.setTr (s : State) (c : Nat) (t : TraceUnit) : State :=
  s.withTraces (Tab.set (fun _ => TraceUnit.empty) s.traces c t)

/-- A core that has executed nothing: machine mode, every CSR 0.
DESIGN CHOICE (log 3; unsafe). -/
def Core.empty : Core :=
  ⟨[], 0, true, false, false, false, false, false, 0, 0, 0, 0, 0, 0, 0, 0, false, 0, 0, [], [], [], [], none, none, none, []⟩

/-- A core. -/
def State.core (s : State) (c : Nat) : Core := Tab.get (fun _ => Core.empty) s.cores c

/-- Replace a core. -/
def State.setCore (s : State) (c : Nat) (k : Core) : State :=
  s.withCores (Tab.set (fun _ => Core.empty) s.cores c k)

/-- A range of HBM lies wholly in one enabled region of one stack whose ACCESS names the requester class and which
passes a further test. -/
def State.withinRegion (s : State) (a n : Nat) (who : VRequester) (p : Region → Bool) : Bool :=
  match s.regionOf (stackOf a) a with
  | none => false
  | some i =>
    let r := s.region (stackOf a) i
    decide (a + n ≤ r.base + r.size) && r.access.testBit (accessBit who) && p r

/-- TRC_HBM_BASE, and the bytes of the buffer: the on-chip part, or the ring in HBM (R395). -/
def State.trcBase (s : State) (c : Nat) : Nat := s.reg64 (trcPg c) 0x58 % 2 ^ 36
def State.trcHbm (s : State) (c : Nat) : Bool := s.f (trcPg c) 0x40 3 3 == 1
def State.trcSize (s : State) (c : Nat) : Nat := if s.trcHbm c then 2 ^ s.f (trcPg c) 0x60 5 0 else 262144

/-- The unit takes packets: its run has not written STOP and its page is ON (R550). -/
def State.tracing (s : State) (c : Nat) : Bool := (s.tr c).running && s.on (trcPg c)

/-- Bytes that the unit holds until they are written (R401). -/
def traceRoom : Nat := 1024

/-- STOP is due: TRC_POST bytes have followed the trigger (R400). -/
def State.stopDue (s : State) (c : Nat) : Bool :=
  match (s.tr c).trigAt with
  | some a => decide (a + (s.reg (trcPg c) 0x4c).toNat ≤ (s.tr c).total)
  | none => false

/-- Accept the bytes of a packet. -/
def tracePut (s : State) (c : Nat) (bs : List Nat) : State :=
  let t := s.tr c
  s.setTr c { t with total := t.total + bs.length, held := t.held ++ bs, sinceSync := t.sinceSync + bs.length }

/-- One packet, while STOP is not due (R400); one that does not fit is dropped and counted (R401). -/
def traceFit (s : State) (c : Nat) (bs : List Nat) : State :=
  let t := s.tr c
  if s.stopDue c then s
  else if 0 < t.dropped ∨ traceRoom < t.held.length + bs.length then
    (s.setTr c { t with dropped := t.dropped + 1 }).bump (trcPg c) 0x6c 31 0
  else tracePut s c bs

/-- MODE of SYNC (R396): 3 in machine mode, and bit 2 where machine-mode trace is authorised. -/
def State.traceMode (s : State) (c : Nat) (machine : Bool) : Nat := (if machine then 3 else 0) + 4 * s.f (trcPg c) 0x48 0 0

/-- SYNC, which starts a new stretch of 4,096 bytes (R399).
DEDUCED (log 33; unsafe). -/
def putSync (s : State) (c : Nat) (pc : Word) (machine : Bool) : State :=
  let s := s.setTr c { s.tr c with sinceSync := 0, lastAddr := pc }
  traceFit s c (1 :: bytesLE 4 pc.toNat ++ [s.traceMode c machine])

/-- TIMESTAMP. -/
def putStamp (s : State) (c : Nat) : State :=
  let s := s.setTr c { s.tr c with lastTs := BitVec.ofNat 64 (s.gval 0) }
  traceFit s c (2 :: bytesLE 8 (s.gval 0))

/-- The partial BRANCH packet, before any other (R396). -/
def flushBranches (s : State) (c : Nat) : State :=
  let t := s.tr c
  if t.branches = [] then s
  else
    let s := s.setTr c { t with branches := [] }
    traceFit s c [0x80 + 16 * (t.branches.length - 1) + (t.branches.zipIdx.foldl (fun n b => n + bit b.1 * 2 ^ b.2) 0)]

/-- Room has returned after dropped packets (R401): OVERFLOW, then SYNC and TIMESTAMP, behind a partial BRANCH packet (R396). -/
def traceResume (s : State) (c : Nat) (pc : Word) (machine : Bool) : State :=
  let t := s.tr c
  if 0 < t.dropped ∧ t.held.length + 18 + bit (!t.branches.isEmpty) ≤ traceRoom ∧ s.stopDue c = false then
    let s := flushBranches (s.setTr c { t with dropped := 0 }) c
    let s := traceFit s c (4 :: bytesLE 2 (min t.dropped 65535))
    raise (putStamp (putSync s c pc machine) c) (trcPg c) 10 0
  else s

/-- What comes before a packet other than SYNC (R396, R399, R401): a partial BRANCH packet, the report of dropped packets, and
SYNC after 4,096 bytes. -/
def emitBefore (s : State) (c : Nat) (pc : Word) (machine : Bool) : State :=
  let s := flushBranches (traceResume s c pc machine) c
  if 4096 ≤ (s.tr c).sinceSync then putSync s c pc machine else s

/-- Emit a packet other than SYNC (R396, R399-R401): nothing once STOP is due. -/
def emit (s : State) (c : Nat) (pc : Word) (machine : Bool) (bs : List Nat) : State :=
  if s.tracing c && !s.stopDue c then traceFit (emitBefore s c pc machine) c bs else s

/-- Emit SYNC. -/
def emitSync (s : State) (c : Nat) (pc : Word) (machine : Bool) : State :=
  if s.tracing c && !s.stopDue c then putSync (flushBranches (traceResume s c pc machine) c) c pc machine else s

/-- Emit TIMESTAMP. -/
def emitStamp (s : State) (c : Nat) (pc : Word) (machine : Bool) : State :=
  let s := if s.tracing c then s.setTr c { s.tr c with lastTs := BitVec.ofNat 64 (s.gval 0) } else s
  emit s c pc machine (2 :: bytesLE 8 (s.gval 0))

/-- The trace trigger (R400), once in a run: TRIGGER, its offset, and the sticky bit. -/
def traceTrigger (s : State) (c : Nat) (pc : Word) (machine : Bool) : State :=
  if s.tracing c && (s.tr c).trigAt.isNone then
    let s := emit s c pc machine [7]
    let t := s.tr c
    let off := (if t.dropped = 0 then t.total - 1 else t.total) % s.trcSize c
    let s := (s.setTr c { t with trigAt := some t.total }).setReg (trcPg c) 0x68 (BitVec.ofNat 32 off)
    raise (s.setF (trcPg c) 0x44 0 0 1) (trcPg c) 8 (s.cycCount % 2 ^ 24)
  else s

/-- The unit writes nothing more in this run, and packets that a STOP has ended leave no outcome behind (R400). -/
def endRun (s : State) (c : Nat) : State := s.setTr c { s.tr c with running := false, branches := [] }

/-- A write of 0 to RUN writes STOP, the last packet of the run, as any other packet (R396, R399-R401), whether or not the page is
ON (R550); where it is due already, STOP follows the TRC_POST bytes at once.
DESIGN CHOICE (log 33; unsafe). -/
def traceStop (s : State) (c : Nat) (pc : Word) (machine : Bool) : State :=
  if (s.tr c).running then
    let s := if s.stopDue c then s.setTr c { s.tr c with trigAt := none } else emitBefore s c pc machine
    endRun (traceFit s c [8]) c
  else s

/-- The bytes held are written to the part or the ring (R395), in HBM once a response buffer is free (R434); a bus error of the
ring stops the unit (R401). -/
def traceDrain (s : State) (c : Nat) : State :=
  let t := s.tr c
  if t.held = [] ∨ s.trcHbm c = true ∧ s.bufferFree 15 = false then s
  else
    let size := s.trcSize c
    let from_ := (t.total - t.held.length) % size
    let s := (s.setReg (trcPg c) 0x64 (BitVec.ofNat 32 (t.total % size))).setF (trcPg c) 0x44 3 3
      (bit (decide (size ≤ t.total)))
    if s.trcHbm c then
      let s := s.setTr c { t with held := [] }
      let n := size - from_
      let (c1, s) := vnrWriteRun s .capture (s.trcBase c + from_) (t.held.take n)
      let (cls, s) := if c1 = 0 then vnrWriteRun s .capture (s.trcBase c) (t.held.drop n) else (c1, s)
      if cls = 0 then s
      else raise (s.setTr c { s.tr c with running := false }) (trcPg c) 11 (clsInfo cls)
    else
      s.setTr c { t with
        held := []
        part := t.held.zipIdx.foldl
          (fun p b => Tab.set (zeroAt 8) p ((from_ + b.2) % size) (BitVec.ofNat 8 b.1)) t.part }

/-- May RUN be set (R395)? -/
def State.traceRunOk (s : State) (c : Nat) : Bool :=
  let lg := s.f (trcPg c) 0x60 5 0
  (!s.trcHbm c || decide (16 ≤ lg) && decide (lg ≤ 30) && s.trcBase c % 2 ^ lg == 0 &&
      s.withinRegion (s.trcBase c) (2 ^ lg) .capture (fun _ => true)) &&
    (s.f (trcPg c) 0x40 5 4 != 2 || decide ((s.reg (trcPg c) 0xb0).toNat < (s.reg (trcPg c) 0xb4).toNat))

/-- RUN goes from 0 to 1 (R395): refused with CFG_ERR, or a new run with SYNC and TIMESTAMP, whether or not the page is ON and
the core sleeps.
DEDUCED (log 33; unsafe). -/
def traceRun (s : State) (c : Nat) (pc : Word) (machine : Bool) : State :=
  let p := trcPg c
  if s.traceRunOk c then
    let s := (s.setReg p 0x64 0).setReg p 0x44 0
    let s := s.setTr c { TraceUnit.empty with running := true, asleep := s.f ⟨.cc, c⟩ 0x4c 0 0 == 1 }
    putStamp (putSync s c pc machine) c
  else raise (s.setF p 0x40 0 0 0) p 14 2

/-! ### Filters (R397, R398) -/

/-- Range r of a unit: START, END, and its filter bit b. -/
def State.inRange (s : State) (c r a : Nat) : Bool :=
  let o := 0x80 + 16 * r
  decide ((s.reg (trcPg c) o).toNat ≤ a) && decide (a < (s.reg (trcPg c) (o + 4)).toNat)

/-- An address passes the ranges that have filter bit b set; every address where none has. -/
def State.filtered (s : State) (c b a : Nat) : Bool :=
  let on := (List.range 4).filter (fun r => s.f (trcPg c) (0x88 + 16 * r) b b == 1)
  on.isEmpty || on.any (fun r => s.inRange c r a)

/-- Machine-mode execution is traced only while authorised. -/
def State.traceAllowed (s : State) (c : Nat) (machine : Bool) : Bool := !machine || s.f (trcPg c) 0x48 0 0 == 1

/-- The instruction at pc is traced. -/
def State.itraced (s : State) (c pc : Nat) (machine : Bool) : Bool :=
  s.tracing c && s.f (trcPg c) 0x40 1 1 == 1 && s.traceAllowed c machine && s.filtered c 0 pc

/-- Instruction trace is halted (TRC_STS.SUSPENDED). -/
def State.suspended (s : State) (c : Nat) : Bool := s.f (trcPg c) 0x44 2 2 == 1

/-- Instruction trace goes on with the instruction at pc where it was halted (R397, R398): SYNC. -/
def traceEnter (s : State) (c : Nat) (pc : Word) (machine : Bool) : State :=
  if s.itraced c pc.toNat machine && s.suspended c then emitSync (s.setF (trcPg c) 0x44 2 2 0) c pc machine else s

/-- The unit sees the fetch of an instruction (R397, R400): SUSPEND on leaving the traced set, SYNC on entering it again,
and the trigger of range 3. -/
def traceFetch (s : State) (c : Nat) (pc : Word) (machine : Bool) : State :=
  if s.tracing c then
    let want := s.itraced c pc.toNat machine
    let s :=
      if s.f (trcPg c) 0x40 1 1 = 0 then s
      else if want then traceEnter s c pc machine
      else if !s.suspended c then (emit s c pc machine [6]).setF (trcPg c) 0x44 2 2 1
      else s
    if s.f (trcPg c) 0x40 5 4 = 2 ∧ s.inRange c 3 pc.toNat then traceTrigger s c pc machine else s
  else s

/-- A conditional branch (R396): four outcomes make a BRANCH packet. What is due before that packet, the report of dropped packets
and SYNC after 4,096 bytes, names this branch and so comes behind the outcomes of earlier ones (R399, R401). -/
def traceBranch (s : State) (c : Nat) (pc : Word) (machine taken : Bool) : State :=
  if s.itraced c pc.toNat machine && !s.stopDue c then
    let s := traceResume s c pc machine
    let s := if 4096 ≤ (s.tr c).sinceSync then putSync (flushBranches s c) c pc machine else s
    let s := s.setTr c { s.tr c with branches := (s.tr c).branches ++ [taken] }
    if (s.tr c).branches.length < 4 then s else flushBranches s c
  else s

/-- The least number of low-order bytes that, with the higher bytes of the last address, give an address (R396). -/
def addrBytes (last a : Nat) : Nat :=
  if a / 256 = last / 256 then 1
  else if a / 65536 = last / 65536 then 2
  else if a / 16777216 = last / 16777216 then 3
  else 4

/-- The target of a JALR or MRET (R396), against the last address emitted before it. -/
def traceIndirect (s : State) (c : Nat) (pc : Word) (machine : Bool) (target : Word) : State :=
  if s.itraced c pc.toNat machine && !s.stopDue c then
    let s := emitBefore s c pc machine
    let n := addrBytes (s.tr c).lastAddr.toNat target.toNat
    let s := traceFit s c ((0x10 + n) :: (bytesLE 4 target.toNat).take n)
    s.setTr c { s.tr c with lastAddr := target }
  else s

/-- A data access (R396, R397): address, size of 1, 2 or 4 bytes, and the value. -/
def traceData (s : State) (c : Nat) (pc : Word) (machine store : Bool) (a n v : Nat) : State :=
  if s.tracing c && s.f (trcPg c) 0x40 2 2 == 1 && s.traceAllowed c machine && s.filtered c 1 a then
    let s := emit s c pc machine ((0x30 + 8 * bit store + 2 * Nat.log2 n) :: bytesLE 4 a ++ bytesLE n v)
    s.setTr c { s.tr c with lastAddr := BitVec.ofNat 32 a }
  else s

/-- A trap (R396, R398), with SYNC first where instruction trace has been halted until here: EXCEPTION with its cause and the
trapped or interrupted instruction's address, then SYNC at the handler or SUSPEND. -/
def traceTrap (s : State) (c : Nat) (pc : Word) (machine : Bool) (cause : Nat) (handler : Word) : State :=
  if s.itraced c pc.toNat machine then
    let s := traceEnter s c pc machine
    let s := emit s c pc machine (5 :: cause % 256 :: bytesLE 4 pc.toNat)
    let s := s.setTr c { s.tr c with lastAddr := pc }
    if s.itraced c handler.toNat true then emitSync s c handler true
    else (emit s c handler true [6]).setF (trcPg c) 0x44 2 2 1
  else s

/-- The core enters its sleep, or the device a state below Idle (R402). While the page is not ON no packet is written, but a wake
with the page ON is one. -/
def traceSleep (s : State) (c : Nat) (pc : Word) (machine : Bool) : State :=
  if (s.tr c).running && !(s.tr c).asleep then
    let s := emit s c pc machine (3 :: bytesLE 8 (s.gval 0))
    s.setTr c { s.tr c with asleep := true }
  else s

/-- The wake (R402). -/
def traceWake (s : State) (c : Nat) (pc : Word) (machine : Bool) : State :=
  if (s.tr c).running && (s.tr c).asleep then
    let s := s.setTr c { s.tr c with asleep := false }
    emitStamp (emitSync s c pc machine) c pc machine
  else s

/-- The on-chip parts are lost (R402): RUN 0, the part empty, and BUF_LOST. -/
def traceLost (s : State) (c : Nat) : State :=
  let s := (s.setF (trcPg c) 0x40 0 0 0).setTr c TraceUnit.empty
  raise s (trcPg c) 13 0

/-- TRACE_SYNC (R399). -/
def traceSyncDue (s : State) (c : Nat) (pc : Word) (machine : Bool) : State :=
  if 4096 ≤ (s.tr c).sinceSync then emitSync s c pc machine else s

/-- TRACE_TIMESTAMP (R399). -/
def traceStampDue (s : State) (c : Nat) (pc : Word) (machine : Bool) : State :=
  let n := s.reg64 (trcPg c) 0x50
  if n ≠ 0 ∧ s.tracing c = true ∧ reached64 (s.gval 0) ((s.tr c).lastTs.toNat + n) = true then emitStamp s c pc machine else s

/-- TRACE_STOP (R400): TRC_POST bytes after the trigger. -/
def traceStopDue (s : State) (c : Nat) : State :=
  if s.tracing c && s.stopDue c then raise ((traceStop s c 0 false).setF (trcPg c) 0x44 1 1 1) (trcPg c) 9 0 else s

/-- A byte of the on-chip part as offsets 0x800 to 0xFFF show it (R403). -/
def State.traceByte (s : State) (c a : Nat) : Nat := (Tab.get (zeroAt 8) (s.tr c).part a).toNat

end Sys2Proof.Machine
end

