-- ==== Sys2Proof/Machine/Trigger.lean ====
section
/-! DEFINITION. The cycle record and the units that work from it (R367-R394): the activity averager, the comparators and
the trigger sequencer, the measurement units, capture; snapshot and restore. -/
namespace Sys2Proof.Machine

def trgPg : PageId := ⟨.trg, 0⟩
def capPg : PageId := ⟨.cap, 0⟩
def measPg (k : Nat) : PageId := ⟨.meas, k⟩

/-- A cycle record (R367, R369): its cycle, whether a replay committed it, the two planes as 4,096-bit numbers, and the
toggle sum of each die. -/
structure CycleRec where
  cycle : Nat
  replayed : Bool
  probe : Nat
  trig : Nat
  toggles : List Nat
  deriving DecidableEq, Repr

/-- H assembles the record from the export records that have reached it (R367). -/
def assemble (s : State) (cycle : Nat) (replayed : Bool) : CycleRec :=
  s.exports.foldl (fun r e =>
    let d := e.1 / 132
    match s.lpanel d (e.1 % 132) with
    | none => r
    | some p =>
      if p < s.ldr.counts.getD d 0 then
        { r with probe := r.probe + e.2.1 % 256 * 2 ^ (1024 * d + 8 * p),
                 trig := r.trig + e.2.2.1 % 256 * 2 ^ (1024 * d + 8 * p),
                 toggles := setAt r.toggles d (r.toggles.getD d 0 + e.2.2.2) }
      else r) ⟨cycle, replayed, 0, 0, [0, 0, 0, 0]⟩

/-- Probe group j of a plane (R367). -/
def probeGroup (plane j : Nat) : Nat := plane / 2 ^ (64 * j) % 2 ^ 64

/-- A Gauge's value at step 0 of the execution that committed (R369). -/
def State.recTime (s : State) (k : Nat) : Nat := (s.trg.g0.getD k 0).toNat

/-- A Gauge's value at its step Q (R373, R375). -/
def State.recEnd (s : State) (k : Nat) : Nat := (s.trg.gq.getD k 0).toNat

/-! ### Activity (R388, R389) -/

/-- A write of EN = 1 or of K starts the block counting afresh (R388). -/
def blocksAfresh (s : State) : State :=
  s.withTrg { s.trg with blockN := 0, sums := [0, 0, 0, 0], prevBlock := [none, none, none, none] }

/-- The place of a crossing (R389): f, and x in Gauge units. -/
def crossingPlace (a0 t0 a t thr : Nat) : Nat × Nat :=
  let f := (256 * ((thr : Int) - a0)).fdiv ((a : Int) - a0)
  let dt := (BitVec.ofNat 64 (t + 2 ^ 64 - t0 % 2 ^ 64)).toInt
  (f.toNat % 512, (((t0 : Int) + (f * dt).fdiv 256) % 2 ^ 64).toNat)

/-- A die's completed block (R388, R389): LAST, and a crossing that DIR selects. True where one is placed. -/
def blockDie (s : State) (k t d : Nat) : Bool × State :=
  let p := trgPg
  let pg := s.ldr.counts.getD d 0
  if pg = 0 then
    (false, ((s.setReg p (0x820 + 4 * d) 0).withTrg { s.trg with prevBlock := setAt s.trg.prevBlock d none }))
  else
    let a := s.trg.sums.getD d 0 * 32 / (2 ^ k * pg) % 2 ^ 24
    let before := s.trg.prevBlock.getD d none
    let s := (s.setReg p (0x820 + 4 * d) (BitVec.ofNat 32 (2 ^ 31 + a))).withTrg
      { s.trg with prevBlock := setAt s.trg.prevBlock d (some (a, t)) }
    match before with
    | none => (false, s)
    | some (a0, t0) =>
      let thr := s.f p (0x810 + 4 * d) 23 0
      let dir := s.f p 0x800 9 8
      let up := decide (a0 < thr) && decide (thr ≤ a)
      let down := decide (thr ≤ a0) && decide (a < thr)
      if up && dir % 2 == 1 || down && dir / 2 == 1 then
        let (f, x) := crossingPlace a0 t0 a t thr
        (true, (s.setReg p (0x830 + 4 * d) (BitVec.ofNat 32 (2 ^ 31 + bit down * 2 ^ 16 + f))).setReg64 p (0x840 + 8 * d) x)
      else (false, s)

/-- The averager takes a record: the crossing flags of the dies (ACT), and the state. -/
def average (s : State) (r : CycleRec) : List Bool × State :=
  let none4 := [false, false, false, false]
  if s.on trgPg && s.f trgPg 0x800 16 16 == 1 then
    let sums := (List.range 4).map (fun d => s.trg.sums.getD d 0 + r.toggles.getD d 0)
    let n := s.trg.blockN + 1
    let k := s.f trgPg 0x800 4 0
    let s : State := s.withTrg { s.trg with sums := sums, blockN := n }
    if n < 2 ^ k then (none4, s)
    else
      let t := s.recTime (s.f trgPg 0x800 15 12)
      let (fl, s) := (List.range 4).foldl (fun (acc : List Bool × State) d =>
        let (b, s) := blockDie acc.2 k t d
        (acc.1 ++ [b], s)) ([], s)
      (fl, (s.withTrg { s.trg with blockN := 0, sums := [0, 0, 0, 0] }))
  else (none4, s)

/-! ### Comparators and the sequencer (R371-R379) -/

/-- The output of a comparator mode (R372). -/
def compareOut (mode : Nat) (g q v m : BitVec 64) : Bool :=
  match mode with
  | 0 => (g ^^^ v) &&& m == 0
  | 1 => (g ^^^ v) &&& m != 0
  | 2 => ~~~q &&& g &&& m != 0
  | _ => (g ^^^ q) &&& m != 0

/-- The group that comparator c selects. -/
def State.cmpGroup (s : State) (r : CycleRec) (c : Nat) : BitVec 64 :=
  let o := 0x400 + 0x20 * c
  BitVec.ofNat 64 (probeGroup (if s.f trgPg o 6 6 = 1 then r.trig else r.probe) (s.f trgPg o 5 0))

/-- The comparators' outputs as bits 31:0. -/
def State.compare (s : State) (r : CycleRec) : Nat :=
  (List.range 32).foldl (fun x c =>
    let o := 0x400 + 0x20 * c
    x + bit (compareOut (s.f trgPg o 9 8) (s.cmpGroup r c) (Tab.get (zeroAt 64) s.trg.prev c)
      (BitVec.ofNat 64 (s.reg64 trgPg (o + 8))) (BitVec.ofNat 64 (s.reg64 trgPg (o + 0x10)))) * 2 ^ c) 0

/-- Timer i: running (R373), and due at the record. -/
def State.tmrRun (s : State) (i : Nat) : Bool := s.f trgPg 0x60 (16 + i) (16 + i) == 1
def State.tmrGauge (s : State) (i : Nat) : Nat := s.recEnd (s.f trgPg 0x60 (4 * i + 3) (4 * i))
def State.tmrDue (s : State) (i : Nat) : Bool :=
  s.tmrRun i && reached64 (s.tmrGauge i) (Tab.get (zeroAt 64) s.trg.deadline i).toNat

/-- Four flags as bits. -/
def bits4 (f : Nat → Bool) : Nat := (List.range 4).foldl (fun x i => x + bit (f i) * 2 ^ i) 0

/-- The input vector X (R371). -/
def State.inputVector (s : State) (r : CycleRec) (act : List Bool) : BitVec 60 :=
  BitVec.ofNat 60 (s.compare r +
    bits4 (fun i => decide ((s.reg trgPg (0xb0 + 4 * i)).toNat ≤ (s.reg trgPg (0xa0 + 4 * i)).toNat)) * 2 ^ 32 +
    bits4 s.tmrDue * 2 ^ 36 + bits4 (fun d => act.getD d false) * 2 ^ 40 + s.cyc.gauLatch.toNat * 2 ^ 44)

/-- taken of R375. -/
def branchTaken (func : Nat) (sel x : BitVec 60) : Bool :=
  match func with
  | 0 => false
  | 1 => x &&& sel != 0
  | 2 => sel != 0 && x &&& sel == sel
  | _ => true

/-- The CTL word of the branch that state st takes, A before B (R375). -/
def State.branchCtl (s : State) (st : Nat) (x : BitVec 60) : Option Word :=
  let o := 0x200 + 0x20 * st
  let sel := fun k => BitVec.ofNat 60 (s.reg64 trgPg (o + k))
  if branchTaken (s.f trgPg (o + 8) 1 0) (sel 0) x then some (s.reg trgPg (o + 8))
  else if branchTaken (s.f trgPg (o + 0x18) 1 0) (sel 0x10) x then some (s.reg trgPg (o + 0x18))
  else none

/-- What a record's processing tells capture: a TRIGGER recorded, from auto mode, MARK, CAP_START, CAP_STOP. -/
structure SeqActs where
  trigger : Bool
  auto : Bool
  mark : Bool
  start : Bool
  stop : Bool
  deriving DecidableEq, Repr

/-- Counter and timer actions on index i (R373-R375). -/
def countAndTime (s : State) (ctl i : Nat) : State :=
  let s := if ctl.testBit (20 + i) then s.setReg trgPg (0xa0 + 4 * i) 0 else s
  let s := if ctl.testBit (16 + i) then s.bump trgPg (0xa0 + 4 * i) 31 0 else s
  let s := if ctl.testBit (28 + i) then s.setF trgPg 0x60 (16 + i) (16 + i) 0 else s
  if ctl.testBit (24 + i) then
    let dl := BitVec.ofNat 64 (s.tmrGauge i + s.reg64 trgPg (0x80 + 8 * i))
    (s.setF trgPg 0x60 (16 + i) (16 + i) 1).withTrg { s.trg with deadline := Tab.set (zeroAt 64) s.trg.deadline i dl }
  else s

/-- TRG_STS.TRIGGERED. -/
def State.triggered (s : State) : Bool := s.f trgPg 0x44 4 4 == 1

/-- The sequencer's first TRIGGER after its ARM (R375, R376), and the trace units that wait for it (R400). -/
def recordTrigger (s : State) (cycle : Nat) : State :=
  let s := ((s.setF trgPg 0x44 4 4 1).setReg64 trgPg 0x48 cycle)
  let s := raise s trgPg 8 (cycle % 2 ^ 24)
  (List.range 8).foldl (fun s c =>
    if s.f (trcPg c) 0x40 5 4 = 1 then
      traceTrigger s c (s.core c).pc (s.core c).machine
    else s) s

/-- What the sequencer sees of a record: the comparators' previous groups and the timers' flags move on, and the deadline of
auto mode is fixed (R372, R373, R379). -/
def seqSee (s : State) (r : CycleRec) : State :=
  let due := bits4 s.tmrDue
  let dl := s.trg.autoAt.getD (BitVec.ofNat 64 (s.recEnd (s.f trgPg 0x50 7 4) + s.reg64 trgPg 0x58))
  let prev := (List.range 32).foldl (fun t c => Tab.set (zeroAt 64) t c (s.cmpGroup r c)) s.trg.prev
  (s.withTrg { s.trg with prev := prev, autoAt := some dl }).setF trgPg 0x60 23 20 due

/-- Auto mode is due (R379): not triggered, and its Gauge has reached the deadline. -/
def State.autoDue (s : State) : Bool :=
  s.f trgPg 0x50 0 0 == 1 && !s.triggered && reached64 (s.recEnd (s.f trgPg 0x50 7 4)) (s.trg.autoAt.getD 0).toNat

/-- The stop of TRIG_STOP (R376). -/
def seqStop (s : State) : State := raise (s.withCyc { s.cyc with trigStop := true }) trgPg 10 0

/-- The actions of a record, in their order: counters and timers, TRIGGER, auto mode, STOP, and the next state (R375). -/
def seqAct (s : State) (cycle ctl : Nat) (auto trig stop taken : Bool) : State :=
  let s := (List.range 4).foldl (fun s i => countAndTime s ctl i) s
  let s := if trig then recordTrigger s cycle else s
  let s := if auto then raise (s.setF trgPg 0x44 5 5 1) trgPg 9 0 else s
  let s := if stop then seqStop s else s
  if taken then s.setF trgPg 0x44 3 0 (ctl / 16 % 16) else s

/-- One record through the comparators and the sequencer (R375). -/
def sequence (s : State) (r : CycleRec) (act : List Bool) : SeqActs × State :=
  if s.on trgPg && s.f trgPg 0x40 0 0 == 1 then
    let br := s.branchCtl (s.f trgPg 0x44 3 0) (s.inputVector r act)
    let t := seqSee s r
    let ctl := (br.getD 0).toNat
    let auto := t.autoDue
    let trig := (ctl.testBit 8 || auto) && !s.triggered
    let stop := ctl.testBit 9 || auto && s.f trgPg 0x50 8 8 == 1
    (⟨trig, trig && auto, ctl.testBit 10, ctl.testBit 11, ctl.testBit 12⟩, seqAct t r.cycle ctl auto trig stop br.isSome)
  else (⟨false, false, false, false, false⟩, s)

/-- ARM of the sequencer goes from 0 to 1 (R377). -/
def trgArm (s : State) : State :=
  let s := (s.setReg trgPg 0x44 0).setF trgPg 0x60 23 16 0
  let s := (List.range 4).foldl (fun s i => s.setReg trgPg (0xa0 + 4 * i) 0) s
  s.withTrg { s.trg with prev := [], deadline := [], autoAt := none }

/-! ### Measurement units (R386, R387) -/

/-- A measurement unit at rest. -/
def Meas.empty : Meas := ⟨none, none, 0⟩

/-- A measurement unit. -/
def State.measUnit (s : State) (k : Nat) : Meas := Tab.get (fun _ => Meas.empty) s.meas k

/-- Replace a measurement unit. -/
def State.setMeas (s : State) (k : Nat) (m : Meas) : State :=
  s.withMeas (Tab.set (fun _ => Meas.empty) s.meas k m)

/-- A result (R387): LAST, TIME, N, AT; MIN and MAX where they change; VALID and the sticky bit. -/
def measResult (s : State) (k last time n at_ : Nat) (mn mx : Option Nat) : State :=
  let p := measPg k
  let s := (((s.setReg64 p 0x48 (min last (2 ^ 64 - 1))).setReg64 p 0x68 time).setReg64 p 0x60 n).setReg64 p 0x70 at_
  let s := match mn with
    | some v => s.setReg64 p 0x50 v
    | none => s
  let s := match mx with
    | some v => s.setReg64 p 0x58 v
    | none => s
  raise (s.setF p 0x44 0 0 1) p 8 (at_ % 2 ^ 24)

/-- One record through a measurement unit (R386, R387). -/
def measure (s : State) (r : CycleRec) (k : Nat) : State :=
  let p := measPg k
  if s.on p && s.f p 0x40 0 0 == 1 then
    let g := probeGroup (if s.f p 0x40 4 4 = 1 then r.trig else r.probe) (s.f p 0x40 13 8)
    let lsb := s.f p 0x40 21 16
    let field := g / 2 ^ lsb % 2 ^ (s.f p 0x40 29 24 + 1)
    let b := g.testBit lsb
    let m := s.measUnit k
    let rise := m.prev == some false && b
    let fall := m.prev == some true && !b
    let t := s.recTime 0
    let since := satAdd 64 m.since 1
    let s := s.setMeas k { m with prev := some b, since := since, rise := if rise then some (r.cycle, t) else m.rise }
    let n := satAdd 64 (s.reg64 p 0x60) 1
    let low := s.reg64 p 0x50
    let high := s.reg64 p 0x58
    let span := fun (c0 t0 : Nat) =>
      let l := (r.cycle + 2 ^ 64 - c0) % 2 ^ 64
      measResult s k l ((t + 2 ^ 64 - t0) % 2 ^ 64) n r.cycle (some (min low l)) (some (max high l))
    match s.f p 0x40 3 1 with
    | 0 => match rise, m.rise with
      | true, some (c0, t0) => span c0 t0
      | _, _ => s
    | 1 => match fall, m.rise with
      | true, some (c0, t0) =>
        let s' := span c0 t0
        s'.setMeas k { s'.measUnit k with rise := none }
      | _, _ => s
    | 2 => if rise then measResult s k since 0 n r.cycle none none else s
    | 3 =>
      let at_ := if field < low ∨ n = 1 then r.cycle else s.reg64 p 0x70
      measResult s k field 0 n at_ (some (min low field)) none
    | _ =>
      let at_ := if high < field ∨ n = 1 then r.cycle else s.reg64 p 0x70
      measResult s k field 0 n at_ none (some (max high field))
  else s

/-- ARM of a measurement unit goes from 0 to 1 (R386, R387). -/
def measArm (s : State) (k : Nat) : State :=
  let p := measPg k
  if 64 < s.f p 0x40 21 16 + s.f p 0x40 29 24 + 1 ∨ 4 < s.f p 0x40 3 1 then
    raise (s.setF p 0x40 0 0 0) p 9 2
  else
    ((((s.setMeas k Meas.empty).setReg64 p 0x60 0).setF p 0x44 0 0 0).setReg64 p 0x50 (2 ^ 64 - 1)).setReg64 p 0x58 0

/-! ### Capture (R380-R385) -/

/-- States of the capture unit (R405). -/
def capPre : Nat := 1
def capPost : Nat := 2
def capDone : Nat := 3
def capError : Nat := 4

/-- CAP_BASE, CAP_GROUPS, and the record length L (R381). -/
def State.capBase (s : State) : Nat := s.reg64 capPg 0x48 % 2 ^ 36
def State.capGroups (s : State) : List Nat := (List.range 64).filter (fun j => (s.reg64 capPg 0x58).testBit j)
def State.capLen (s : State) : Nat := 64 + 64 * ((s.capGroups.length + 7) / 8)

/-- A region that capture may write: its key is ACTIVE and, if Sealed, it is READY (R380). -/
def State.writable (s : State) (r : Region) : Bool := s.keySt r.key == 1 && (r.mode != 2 || r.state == 2)

/-- ARM of the capture unit goes from 0 to 1 (R380). -/
def capArm (s : State) : State :=
  let lg := s.f capPg 0x50 5 0
  let c := 2 ^ lg / s.capLen
  if decide (16 ≤ lg) && decide (lg ≤ 34) && s.capBase % 2 ^ lg == 0 &&
      s.withinRegion s.capBase (2 ^ lg) .capture s.writable && !s.capGroups.isEmpty &&
      decide ((s.reg capPg 0x60).toNat < c) then
    let s := ((s.setReg capPg 0x64 0).setReg capPg 0x68 0).setReg capPg 0x70 (BitVec.ofNat 32 c)
    let s := (s.setF capPg 0x44 2 0 capPre).setF capPg 0x44 4 3 (2 * (1 - s.f capPg 0x40 1 1))
    s.withCap { s.cap with k := 0, postLeft := 0, gap := false, slot0 := false }
  else raise (s.setF capPg 0x40 0 0 0) capPg 11 2

/-- The bytes of a capture record (R381). -/
def State.captureBytes (s : State) (r : CycleRec) (flags : Nat) : List Nat :=
  let body := bytesLE 8 r.cycle ++ bytesLE 8 (s.recTime 0) ++ bytesLE 2 flags ++ bytesLE 2 (s.capLen / 64) ++
    List.replicate 4 0 ++ bytesLE 8 (s.reg64 capPg 0x58) ++ List.replicate 32 0 ++
    s.capGroups.flatMap (fun j => bytesLE 8 (probeGroup r.probe j))
  body ++ List.replicate (s.capLen - body.length) 0

/-- POST ends (R382). -/
def captureDone (s : State) (cycle : Nat) : State := raise (s.setF capPg 0x44 2 0 capDone) capPg 8 (cycle % 2 ^ 24)

/-- A record takes its slot: it waits to be written, or is dropped and leaves its slot unwritten (R382, R384). -/
def captureSlot (s : State) (r : CycleRec) (a : SeqActs) : State :=
  let c := (s.reg capPg 0x70).toNat
  let slot := s.cap.k % c
  let flags := bit a.trigger + 2 * bit a.mark + 4 * bit a.auto + 8 * bit r.replayed + 16 * bit s.cap.gap +
    2 ^ 8 * s.f trgPg 0x44 3 0
  let s := s.setReg capPg 0x64 (BitVec.ofNat 32 ((s.cap.k + 1) % c))
  if s.cap.waiting.length < 64 then
    let s := if slot = 0 ∧ s.cap.slot0 then s.setF capPg 0x44 3 3 1 else s
    s.withCap { s.cap with
      k := s.cap.k + 1, gap := false, slot0 := s.cap.slot0 || slot == 0
      waiting := s.cap.waiting ++ [(s.capBase + s.capLen * slot, s.captureBytes r flags)] }
  else
    let s : State := s.withCap { s.cap with k := s.cap.k + 1, gap := true }
    raise (s.bump capPg 0x6c 31 0) capPg 9 0

/-- CAP_START and CAP_STOP move the gate of an armed unit in gated mode, in every state (R383). -/
def captureGate (s : State) (a : SeqActs) : State :=
  if s.f capPg 0x40 1 1 = 0 then s
  else if a.start then s.setF capPg 0x44 4 4 1
  else if a.stop then s.setF capPg 0x44 4 4 0
  else s

/-- One record through the capture unit (R382, R383).
DEDUCED (log 31; unsafe). -/
def captureRec (s : State) (r : CycleRec) (a : SeqActs) : State :=
  if s.on capPg && s.f capPg 0x40 0 0 == 1 then
    let st := s.f capPg 0x44 2 0
    let s := captureGate s a
    let slot := s.cap.k % (s.reg capPg 0x70).toNat
    let s := if s.f capPg 0x44 4 4 = 1 ∧ (st = capPre ∨ st = capPost) then captureSlot s r a else s
    if st = capPre then
      if a.trigger then
        let s := (s.setReg capPg 0x68 (BitVec.ofNat 32 slot)).setF capPg 0x44 2 0 capPost
        let n := (s.reg capPg 0x60).toNat
        if n = 0 then captureDone s r.cycle else s.withCap { s.cap with postLeft := n }
      else s
    else if st = capPost then
      let s : State := s.withCap { s.cap with postLeft := s.cap.postLeft - 1 }
      if s.cap.postLeft = 0 then captureDone s r.cycle else s
    else s
  else s

/-- CAPTURE_WRITE (R384, R385): the oldest waiting record is written once a response buffer is free (R434); a bus error puts
the unit in ERROR. -/
def captureWrite (s : State) : State :=
  match s.cap.waiting, s.bufferFree 15 with
  | [], _ => s
  | _, false => s
  | (a, bs) :: rest, true =>
    let (cls, s) := vnrWriteRun (s.withCap { s.cap with waiting := rest }) .capture a bs
    if cls = 0 then s
    else
      let s : State := s.withCap { s.cap with waiting := [] }
      raise (s.setF capPg 0x44 2 0 capError) capPg 10 (clsInfo cls)

/-- A record passes the units in their order; each die's crossing is an event of its own (R43, R368, R389). -/
def passRecord (s : State) (cycle : Nat) (replayed : Bool) : State :=
  let r := assemble s cycle replayed
  let s : State := s.withTrg { s.trg with record := none }
  let (act, s) := average s r
  let (a, s) := sequence s r act
  let s := raiseAll s trgPg ((act.filter id).map (fun _ => (11, 0)))
  let s := (List.range 8).foldl (fun s k => measure s r k) s
  captureRec s r a

/-- CYCLE_RECORD (R368): the record of the execution that has committed is processed by step Q+3, where its effects come.
DEDUCED (log 31; unsafe). -/
def cycleRecord (s : State) : State :=
  match s.trg.record with
  | none => s
  | some (cycle, replayed) =>
    if s.cyc.phase = .settled ∧ s.step ≤ s.qStep + 3 then passRecord (moveStep s (s.qStep + 3)) cycle replayed else s

/-! ### Snapshot and restore (R390-R394) -/

/-- A snapshot or restore runs. -/
def State.snapBusy (s : State) : Bool := s.f capPg 0x44 9 8 != 0

/-- The extents named by CAP_SNAP_EXT (R390): address and length. -/
def State.snapExts (s : State) : List (Nat × Nat) :=
  ((List.range 8).map (fun i =>
    (s.reg64 capPg (0xc0 + 16 * i) % 2 ^ 36, s.f capPg (0xc8 + 16 * i) 19 0 * 65536))).filter (fun e => e.2 != 0)

/-- Every 64 KiB unit of an extent lies in an enabled region whose ACCESS names the capture unit (R390). -/
def State.extentOk (s : State) (e : Nat × Nat) : Bool :=
  e.2 % 65536 == 0 && decide (e.1 + e.2 ≤ hbmEnd) &&
    (List.range (e.2 / 65536)).all (fun j => s.withinRegion (e.1 + 65536 * j) 65536 .capture (fun _ => true))

/-- ΣP, and the length of a snapshot (R391). -/
def State.panelSum (s : State) : Nat := s.ldr.counts.foldl (· + ·) 0
def up64k (n : Nat) : Nat := (n + 65535) / 65536 * 65536
def snapLen (sum : Nat) (exts : List (Nat × Nat)) : Nat :=
  exts.foldl (fun n e => up64k n + e.2) (0x10000 + 40960 * sum)

/-- A Sealed, READY region with an ACTIVE key holds this area (R390). -/
def State.snapArea (s : State) (a n : Nat) : Bool :=
  s.withinRegion a n .capture (fun r => r.mode == 2 && r.state == 2 && s.keySt r.key == 1)

/-- LDR_STS.IMAGE, and the loader in COMMIT. -/
def State.hasImage (s : State) : Bool := s.imageCommitted

/-- SNAP (R390). -/
def snapStart (s : State) : State :=
  let base := s.reg64 capPg 0x80 % 2 ^ 36
  let exts := s.snapExts
  if s.hasImage && (!s.cycOn && s.st cycPg == stOff || !s.executing && s.f clpPg 0x48 0 0 == 1) && !s.snapBusy &&
      s.ldSt != ldCommit && s.snapArea base (snapLen s.panelSum exts) && exts.all s.extentOk then
    (s.setF capPg 0x44 8 8 1).withCap { s.cap with base := base, exts := exts }
  else raise s capPg 11 3

/-- The bits of a Panel's Value Store in the layout of a VSTORE frame: 512 bytes a Dowel, slot j at bit j (R215). -/
def panelValues (t : Tab Bool) : List Nat :=
  let v := fun k => bit (Tab.get (fun _ => false) t k)
  (List.range 32768).map (fun i => (List.range 8).foldl (fun n b => n + v (8 * i + b) * 2 ^ b) 0)

/-- The bound Panels in the order of q (R391): q, die and physical Panel. -/
def State.panelOrder (s : State) : List (Nat × Nat × Nat) :=
  (List.range 4).flatMap (fun g => (List.range (s.ldr.counts.getD g 0)).filterMap (fun p =>
    (s.phys g p).map (fun ph => ((s.ldr.counts.take g).foldl (· + ·) p, g, ph))))

/-- The header of a snapshot (R391). -/
def State.snapHeader (s : State) : List Nat :=
  let b := bytesLE 4 0x50414E53 ++ bytesLE 2 1 ++ bytesLE 2 s.cap.exts.length ++ bytesLE 8 s.cycCount ++
    bytesLE 8 (s.gval 0) ++ bytesLE 2 s.nLen ++ bytesLE 2 s.sLen ++ (List.range 4).map (fun g => s.ldr.counts.getD g 0) ++
    [s.f ldrPg 0x44 5 5] ++ List.replicate 31 0 ++ s.cap.exts.flatMap (fun e => bytesLE 8 e.1 ++ bytesLE 8 e.2)
  b ++ List.replicate (65536 - b.length) 0

/-- Run a list of copies, stopping at the first failing class. -/
def copyAll (s : State) (ops : List (State → Nat × State)) : Nat × State :=
  ops.foldl (fun (acc : Nat × State) f => if acc.1 = 0 then f acc.2 else acc) (0, s)

/-- Copy one line from one HBM address to another through Veneer as the capture unit. -/
def copyLine (s : State) (src dst : Nat) : Nat × State :=
  let (c, bs, s) := netRead s .capture src 64 clearTrip
  if c = 0 then netWrite s .capture dst bs (2 ^ 64 - 1) clearTrip else (c, s)

/-- Copy a run of lines. -/
def copyRun (s : State) (src dst n : Nat) : Nat × State :=
  copyAll s ((List.range (n / 64)).map (fun j => fun s => copyLine s (src + 64 * j) (dst + 64 * j)))

/-- The offset of each extent within a snapshot (R391). -/
def extOffsets (sum : Nat) (exts : List (Nat × Nat)) : List Nat :=
  (List.range exts.length).map (fun i => up64k (snapLen sum (exts.take i)))

/-- The bytes of a Panel RAM array in a snapshot (R391). -/
def ramBytes (x : Panel) : List Nat := (List.range 1024).flatMap (fun w => bytesLE 8 (Tab.get (zeroAt 64) x.ram w).toNat)

/-- The writes of a snapshot, in order (R391). -/
def State.snapOps (s : State) : List (State → Nat × State) :=
  let b := s.cap.base
  let sum := s.panelSum
  [fun (t : State) => vnrWriteRun t .capture b s.snapHeader] ++
    s.panelOrder.map (fun e => fun (t : State) =>
      vnrWriteRun t .capture (b + 0x10000 + 32768 * e.1) (panelValues (s.panel e.2.1 e.2.2).vs)) ++
    s.panelOrder.map (fun e => fun (t : State) =>
      vnrWriteRun t .capture (b + 0x10000 + 32768 * sum + 8192 * e.1) (ramBytes (s.panel e.2.1 e.2.2))) ++
    (s.cap.exts.zip (extOffsets sum s.cap.exts)).map (fun e => fun (t : State) => copyRun t e.1.1 (b + e.2) e.1.2)

/-- A snapshot ends, with its failure class (0 for none). -/
def snapDone (s : State) (cls : Nat) : State :=
  if cls = 0 then
    raise ((s.setF capPg 0x44 8 8 0).setReg capPg 0x88 (BitVec.ofNat 32 (up64k (snapLen s.panelSum s.cap.exts) / 65536)))
      capPg 12 0
  else raise (s.setF capPg 0x44 8 8 0) capPg 13 (clsInfo cls)

/-- SNAP_END (R391, R394): the snapshot is written, or has met a bus error; not before a response buffer is free (R434).
DESIGN CHOICE (log 32; unsafe). -/
def snapEnd (s : State) : State :=
  if s.f capPg 0x44 8 8 = 0 ∨ s.bufferFree 15 = false then s else snapDone (copyAll s s.snapOps).2 (copyAll s s.snapOps).1

/-- RESTORE (R393). -/
def restoreStart (s : State) : State :=
  let base := s.reg64 capPg 0x80 % 2 ^ 36
  if s.st cycPg == stOff && s.hasImage && !s.snapBusy && s.ldSt != ldCommit && s.snapArea base 64 then
    (s.setF capPg 0x44 9 9 1).withCap { s.cap with base := base, exts := [], second := false }
  else raise s capPg 11 4

/-- A restore fails (R394). -/
def restoreFails (s : State) (cls : Nat) : State := raise (s.setF capPg 0x44 9 9 0) capPg 15 (clsInfo cls)

/-- The extents that a snapshot's header names. -/
def headerExts (h : List Nat) : List (Nat × Nat) :=
  (List.range (numLE ((h.drop 6).take 2))).map (fun i =>
    (numLE ((h.drop (64 + 16 * i)).take 8), numLE ((h.drop (72 + 16 * i)).take 8)))

/-- The header fits the committed image, and its extents are allowed (R393). -/
def State.headerOk (s : State) (h : List Nat) : Bool :=
  let w := fun o n => numLE ((h.drop o).take n)
  w 0 4 == 0x50414E53 && w 4 2 == 1 && w 24 2 == s.nLen && w 26 2 == s.sLen &&
    (List.range 4).all (fun g => w (28 + g) 1 == s.ldr.counts.getD g 0) && w 32 1 % 2 == s.f ldrPg 0x44 5 5 &&
    decide (w 6 2 ≤ 8) && (headerExts h).all s.extentOk

/-- The reads of a snapshot of n bytes, line by line (R393). -/
def State.passOps (s : State) (n : Nat) : List (State → Nat × State) :=
  (List.range ((n + 63) / 64)).map (fun j => fun (t : State) =>
    ((netRead t .capture (s.cap.base + 64 * j) 64 clearTrip).1, (netRead t .capture (s.cap.base + 64 * j) 64 clearTrip).2.2))

/-- RESTORE_PASS_END (R393): the first pass reads the whole snapshot; not before a response buffer is free (R434).
DESIGN CHOICE (log 32; unsafe). -/
def restorePassEnd (s : State) : State :=
  if s.f capPg 0x44 9 9 = 0 ∨ s.cap.second = true ∨ s.bufferFree 15 = false then s
  else
    let (c, h, s) := vnrReadRun s .capture s.cap.base 256
    if c ≠ 0 then restoreFails s c
    else if !s.headerOk h then restoreFails s 0
    else
      let exts := headerExts h
      let (c, s) := copyAll s (s.passOps (snapLen s.panelSum exts))
      if c ≠ 0 then restoreFails s c else s.withCap { s.cap with exts := exts, second := true }

/-- Write a Panel's Value Store and shadow bank from a VSTORE layout; every row's parity is fresh (R60, R393). -/
def restoreValues (p : Panel) (bs : List Nat) : Panel :=
  let t := bs.zipIdx.foldl (fun t e =>
    (List.range 8).foldl (fun t b => if e.1.testBit b then Tab.set (fun _ => false) t (8 * e.2 + b) true else t) t)
    ([] : Tab Bool)
  { p with vs := t, vsBad := [], sh := t, shBad := [] }

/-- Write a Panel RAM array with fresh check bits (R393). -/
def restoreRam (p : Panel) (bs : List Nat) : Panel :=
  { p with
    ram := (List.range 1024).foldl (fun t w =>
      Tab.set (zeroAt 64) t w (BitVec.ofNat 64 (numLE ((bs.drop (8 * w)).take 8)))) []
    ramErr := [] }

/-- Read a Panel's Value Store back (R393). -/
def restoreVs (s : State) (die ph a : Nat) : Nat × State :=
  let (c, bs, s) := vnrReadRun s .capture a 32768
  (c, if c = 0 then s.setPanel die ph (restoreValues (s.panel die ph) bs) else s)

/-- Read a Panel RAM array back (R393). -/
def restorePr (s : State) (die ph a : Nat) : Nat × State :=
  let (c, bs, s) := vnrReadRun s .capture a 8192
  (c, if c = 0 then s.setPanel die ph (restoreRam (s.panel die ph) bs) else s)

/-- The second pass of a restore, in order (R393). -/
def State.restoreOps (s : State) : List (State → Nat × State) :=
  let b := s.cap.base
  let sum := s.panelSum
  s.panelOrder.map (fun e => fun (t : State) => restoreVs t e.2.1 e.2.2 (b + 0x10000 + 32768 * e.1)) ++
    s.panelOrder.map (fun e => fun (t : State) => restorePr t e.2.1 e.2.2 (b + 0x10000 + 32768 * sum + 8192 * e.1)) ++
    (s.cap.exts.zip (extOffsets sum s.cap.exts)).map (fun e => fun (t : State) => copyRun t (b + e.2) e.1.1 e.1.2)

/-- A restore ends, with its failure class (0 for none) (R394). -/
def restoreDone (s : State) (cls : Nat) : State :=
  let s := s.withCap { s.cap with second := false }
  if cls = 0 then raise ((s.setF capPg 0x44 9 9 0).setF capPg 0x44 10 10 0) capPg 14 0
  else restoreFails (s.setF capPg 0x44 10 10 1) cls

/-- RESTORE_END (R393, R394): the second pass writes the state back.
DESIGN CHOICE (log 32; unsafe). -/
def restoreEnd (s : State) : State :=
  if s.f capPg 0x44 9 9 = 0 ∨ s.cap.second = false ∨ s.bufferFree 15 = false then s
  else restoreDone (copyAll s s.restoreOps).2 (copyAll s s.restoreOps).1

/-! ### The commands -/

def execCycleRecord (s : State) := done (cycleRecord s)
def execCaptureWrite (s : State) := done (captureWrite s)

end Sys2Proof.Machine
end

