-- ==== Sys2Proof/Machine/Addr.lean ====
section
/-! DEFINITION. Addresses of register pages in BAR0 space (R49-R51) and the interrupt sources of a control core
(R415-R417). -/
namespace Sys2Proof.Machine

/-- First hub page index of a hub page type (R51). -/
def hubIndex (ty : PageType) : Nat :=
  match ty with
  | .hst => 0
  | .pwr => 1
  | .thm => 2
  | .drw => 3
  | .rpr => 4
  | .cyc => 8
  | .clp => 9
  | .ldr => 0xa
  | .vnr => 0x10
  | .bnd => 0x20
  | .ln => 0x40
  | .gau => 0x80
  | .trg => 0x90
  | .cap => 0x91
  | .meas => 0x98
  | .trc => 0xa0
  | .cc => 0xb0
  | .wd => 0xb8
  | .ring => 0xc0
  | .pin => 0x100
  | .edl => 0x110
  | .pnl | .die | .dvt | .mq => 0

/-- First die page index of a die page type (R50). -/
def dieIndex (ty : PageType) : Nat :=
  match ty with
  | .die => 256
  | .dvt => 257
  | .mq => 272
  | _ => 0

/-- Is the page on a compute die? -/
def isDiePage (ty : PageType) : Bool := decide (pageCode ty < 0x10)

/-- BAR0 address of a page (R49). -/
def pageAddr (p : PageId) : Nat :=
  if isDiePage p.ty then 2 ^ 24 + p.inst / 1024 * 2 ^ 22 + (dieIndex p.ty + p.inst % 1024) * 4096
  else (hubIndex p.ty + p.inst) * 4096

/-- The page types of the hub, and of a die. -/
def hubTypes : List PageType := allTypes.filter (fun t => !isDiePage t)
def dieTypes : List PageType := [.pnl, .die, .dvt, .mq]

/-- The page at a hub page index; none for a reserved index. -/
def hubPageAt (i : Nat) : Option PageId :=
  (hubTypes.find? (fun t => decide (hubIndex t ≤ i) && pageExists ⟨t, i - hubIndex t⟩)).map (fun t => ⟨t, i - hubIndex t⟩)

/-- The page at a die page index of a die. -/
def diePageAt (die i : Nat) : Option PageId :=
  (dieTypes.find? (fun t => decide (dieIndex t ≤ i) && pageExists ⟨t, die * 1024 + (i - dieIndex t)⟩)).map
    (fun t => ⟨t, die * 1024 + (i - dieIndex t)⟩)

/-- What an address of BAR0 names (R49): a page with an offset, the broadcast window, or nothing. -/
inductive Bar0Place where
  | page (p : PageId) (off : Nat)
  | bcast (code off : Nat)
  | nowhere (off : Nat)
  deriving DecidableEq, Repr

/-- Decode an address of BAR0. -/
def bar0At (a : Nat) : Bar0Place :=
  let off := a % 4096
  match a / 2 ^ 24 % 4 with
  | 0 => match hubPageAt (a / 4096 % 4096) with
    | some p => .page p off
    | none => .nowhere off
  | 1 => match diePageAt (a / 2 ^ 22 % 4) (a / 4096 % 1024) with
    | some p => .page p off
    | none => .nowhere off
  | 2 => .bcast (a / 4096 % 4096) off
  | _ => .nowhere off

/-- The ring node that answers an address of BAR0 (R431). -/
def nodeOfBar0 (a : Nat) : Nat :=
  match bar0At a with
  | .page p _ => nodeOfPage p
  | _ => 14

/-! ### Interrupts of the control cores -/

/-- The CC_ page of a core. -/
def ccPg (c : Nat) : PageId := ⟨.cc, c⟩

/-- CC_STS bits: SLEEP, HOLDING, RESULT_WAIT, POST_BUSY, RESULT_BUSY (R438). -/
def State.ccSts (s : State) (c b : Nat) : Bool := s.f (ccPg c) 0x4c b b == 1
def State.setCcSts (s : State) (c b : Nat) (v : Bool) : State := s.setF (ccPg c) 0x4c b b (bit v)

/-- CC_IRQ_PEND of a core (R415, R416). -/
def State.ccPend (s : State) (c : Nat) : BitVec 64 :=
  let pages := s.pageSources.foldl (fun acc n => acc ||| BitVec.ofNat 64 (2 ^ n)) 0
  pages ||| BitVec.ofNat 64 (bit (Tab.get (fun _ => false) s.alarms c) * 2 ^ 32 + bit (s.ccSts c 1) * 2 ^ 33 +
    bit (s.wd.preempt.getLsbD c) * 2 ^ 34)

/-- The least of a list of addresses. -/
def least (l : List Nat) : Option Nat :=
  l.foldl (fun m a => match m with
    | none => some a
    | some b => some (min a b)) none

/-- A read of CC_IRQ_LOC (R417): FOUND and PAGE for the source selected. -/
def State.irqLoc (s : State) (c : Nat) : Word :=
  let src := s.f (ccPg c) 0x70 5 0
  match least ((s.irqPages.filter (fun p => sourceOfPage p == src)).map pageAddr) with
  | some a => if src < 32 then BitVec.ofNat 32 (2 ^ 31 + a / 4096 % 2 ^ 14 * 4096 + src) else BitVec.ofNat 32 src
  | none => BitVec.ofNat 32 src

/-- Bits MSIP, MTIP and MEIP of mip (R409, R416). -/
def State.mip (s : State) (c : Nat) : Nat :=
  s.f (ccPg c) 0x50 0 0 * 2 ^ 3 + bit (decide (s.reg64 (ccPg c) 0x58 ≤ s.ticks)) * 2 ^ 7 +
    bit (s.ccPend c &&& BitVec.ofNat 64 (s.reg64 (ccPg c) 0x60) != 0) * 2 ^ 11

end Sys2Proof.Machine
end

