-- ==== Sys2Proof/Machine/Riscv.lean ====
section
/-! DEFINITION. The control cores (R408-R414): RV32IMAC with Zicsr and Zifencei, machine and user modes, PMP, the address
map of R410, core sleep and interrupts. Encodings and the effects of instructions are those of the RISC-V manuals, which
R408 names. -/
namespace Sys2Proof.Machine

/-- Sign extension of an n-bit number to 32 bits. -/
def sx (n v : Nat) : Word := (BitVec.ofNat n v).signExtend 32

/-! ### Compressed instructions -/

def encI (imm rs1 f3 rd op : Nat) : Nat := imm % 4096 * 2 ^ 20 + rs1 * 2 ^ 15 + f3 * 2 ^ 12 + rd * 2 ^ 7 + op
def encR (f7 rs2 rs1 f3 rd op : Nat) : Nat := f7 * 2 ^ 25 + rs2 * 2 ^ 20 + rs1 * 2 ^ 15 + f3 * 2 ^ 12 + rd * 2 ^ 7 + op
def encS (imm rs2 rs1 f3 op : Nat) : Nat :=
  fld imm 11 5 * 2 ^ 25 + rs2 * 2 ^ 20 + rs1 * 2 ^ 15 + f3 * 2 ^ 12 + fld imm 4 0 * 2 ^ 7 + op
def encB (imm rs2 rs1 f3 : Nat) : Nat :=
  fld imm 12 12 * 2 ^ 31 + fld imm 10 5 * 2 ^ 25 + rs2 * 2 ^ 20 + rs1 * 2 ^ 15 + f3 * 2 ^ 12 + fld imm 4 1 * 2 ^ 8 +
    fld imm 11 11 * 2 ^ 7 + 0x63
def encJ (imm rd : Nat) : Nat :=
  fld imm 20 20 * 2 ^ 31 + fld imm 10 1 * 2 ^ 21 + fld imm 11 11 * 2 ^ 20 + fld imm 19 12 * 2 ^ 12 + rd * 2 ^ 7 + 0x6f

/-- A 6-bit immediate (bits 12 and 6:2) sign-extended to 12 bits. -/
def cImm6 (h : Nat) : Nat := fld h 6 2 + fld h 12 12 * 0xfe0

/-- The 32-bit word that a compressed instruction stands for; none for a reserved one.
PRESUMED (log 34; unsafe). -/
def expandC (h : Nat) : Option Nat :=
  let rdp := 8 + fld h 4 2
  let rs1p := 8 + fld h 9 7
  let rd := fld h 11 7
  let rs2 := fld h 6 2
  let imm6 := cImm6 h
  let jimm := fld h 12 12 * 0x1ff800 + fld h 11 11 * 16 + fld h 10 9 * 256 + fld h 8 8 * 1024 + fld h 7 7 * 64 +
    fld h 6 6 * 128 + fld h 5 3 * 2 + fld h 2 2 * 32
  let bimm := fld h 12 12 * 0x1f00 + fld h 11 10 * 8 + fld h 6 5 * 64 + fld h 4 3 * 2 + fld h 2 2 * 32
  let lwimm := fld h 12 10 * 8 + fld h 6 6 * 4 + fld h 5 5 * 64
  match fld h 1 0, fld h 15 13 with
  | 0, 0 =>
    let imm := fld h 12 11 * 16 + fld h 10 7 * 64 + fld h 6 6 * 4 + fld h 5 5 * 8
    if imm = 0 then none else some (encI imm 2 0 rdp 0x13)
  | 0, 2 => some (encI lwimm rs1p 2 rdp 0x03)
  | 0, 6 => some (encS lwimm rdp rs1p 2 0x23)
  | 1, 0 => some (encI imm6 rd 0 rd 0x13)
  | 1, 1 => some (encJ jimm 1)
  | 1, 2 => some (encI imm6 0 0 rd 0x13)
  | 1, 3 =>
    if rd = 2 then
      let imm := fld h 12 12 * 0xe00 + fld h 6 6 * 16 + fld h 5 5 * 64 + fld h 4 3 * 128 + fld h 2 2 * 32
      if imm = 0 then none else some (encI imm 2 0 2 0x13)
    else
      let imm := rs2 + fld h 12 12 * 0xfffe0
      if imm = 0 then none else some (imm * 2 ^ 12 + rd * 2 ^ 7 + 0x37)
  | 1, 4 =>
    match fld h 11 10 with
    | 0 => if fld h 12 12 = 1 then none else some (encR 0 rs2 rs1p 5 rs1p 0x13)
    | 1 => if fld h 12 12 = 1 then none else some (encR 0x20 rs2 rs1p 5 rs1p 0x13)
    | 2 => some (encI imm6 rs1p 7 rs1p 0x13)
    | _ =>
      if fld h 12 12 = 1 then none
      else match fld h 6 5 with
        | 0 => some (encR 0x20 rdp rs1p 0 rs1p 0x33)
        | 1 => some (encR 0 rdp rs1p 4 rs1p 0x33)
        | 2 => some (encR 0 rdp rs1p 6 rs1p 0x33)
        | _ => some (encR 0 rdp rs1p 7 rs1p 0x33)
  | 1, 5 => some (encJ jimm 0)
  | 1, 6 => some (encB bimm 0 rs1p 0)
  | 1, 7 => some (encB bimm 0 rs1p 1)
  | 2, 0 => if fld h 12 12 = 1 then none else some (encR 0 rs2 rd 1 rd 0x13)
  | 2, 2 =>
    if rd = 0 then none
    else some (encI (fld h 12 12 * 32 + fld h 6 4 * 4 + fld h 3 2 * 64) 2 2 rd 0x03)
  | 2, 4 =>
    if fld h 12 12 = 0 then
      if rs2 = 0 then (if rd = 0 then none else some (encI 0 rd 0 0 0x67))
      else some (encR 0 rs2 0 0 rd 0x33)
    else if rs2 = 0 then (if rd = 0 then some 0x00100073 else some (encI 0 rd 0 1 0x67))
    else some (encR 0 rs2 rd 0 rd 0x33)
  | 2, 6 => some (encS (fld h 12 9 * 4 + fld h 8 7 * 64) rs2 2 2 0x23)
  | _, _ => none

/-! ### Registers, retirement and traps -/

/-- An integer register; x0 reads 0. -/
def Core.get (k : Core) (r : Nat) : Word := if r = 0 then 0 else Tab.get (zeroAt 32) k.x r

/-- Write an integer register; x0 discards. -/
def Core.put (k : Core) (r : Nat) (v : Word) : Core := if r = 0 then k else { k with x := Tab.set (zeroAt 32) k.x r v }

/-- An instruction retires: the pc moves and minstret counts. -/
def Core.retire (k : Core) (pc : Word) : Core :=
  { k with pc := pc, minstret := if k.mcountinhibit.getLsbD 2 then k.minstret else k.minstret + 1 }

/-- Update a core. -/
def State.onCore (s : State) (c : Nat) (f : Core → Core) : State := s.setCore c (f (s.core c))

/-- Take a trap into machine mode: the pc saved in mepc, the cause and mtval, MIE and the mode stacked, and the pc at the
handler that mtvec names. -/
def takeTrap (s : State) (c cause : Nat) (irq : Bool) (tval : Word) : State :=
  let k := s.core c
  let handler : Word :=
    (k.mtvec &&& ~~~3) + (if irq && k.mtvec.getLsbD 0 then BitVec.ofNat 32 (4 * cause) else 0)
  let s := traceTrap s c k.pc k.machine (cause % 64 + 128 * bit irq) handler
  s.onCore c (fun k => { k with
    mepc := k.pc &&& ~~~1, mcause := BitVec.ofNat 32 (cause + bit irq * 2 ^ 31), mtval := tval,
    mpie := k.mie_, mie_ := false, mpp := k.machine, machine := true, pc := handler, wait := none, fetched := [] })

/-- An exception.
PRESUMED (log 34; unsafe). -/
def exception (s : State) (c cause : Nat) (tval : Word) : State := takeTrap s c cause false tval

/-- An illegal instruction. -/
def illegal (s : State) (c w : Nat) : State := exception s c 2 (BitVec.ofNat 32 w)

/-! ### Physical memory protection -/

/-- An address lies in PMP entry i (TOR, NA4, NAPOT; byte addresses from 34-bit ones). -/
def Core.pmpHit (k : Core) (i a : Nat) : Bool :=
  let cfg := (Tab.get (zeroAt 8) k.pmpcfg i).toNat
  let ad := fun j => (Tab.get (zeroAt 32) k.pmpaddr j).toNat
  match fld cfg 4 3 with
  | 0 => false
  | 1 => decide ((if i = 0 then 0 else ad (i - 1)) ≤ a / 4) && decide (a / 4 < ad i)
  | 2 => a / 4 == ad i
  | _ =>
    let ones := ((List.range 32).find? (fun b => !(ad i).testBit b)).getD 32
    a / 4 / 2 ^ (ones + 1) == ad i / 2 ^ (ones + 1)

/-- May an access of a kind (0 read, 1 write, 2 execute) in a mode touch an address? The lowest-numbered entry that
matches decides; machine mode passes an unlocked entry, and an address that no entry matches. -/
def Core.pmpOk (k : Core) (machine : Bool) (kind a : Nat) : Bool :=
  match (List.range 16).find? (fun i => k.pmpHit i a) with
  | none => machine
  | some i =>
    let cfg := (Tab.get (zeroAt 8) k.pmpcfg i).toNat
    machine && !cfg.testBit 7 || cfg.testBit kind

/-- The mode of a data access: MPRV. -/
def Core.dataMachine (k : Core) : Bool := if k.machine && k.mprv then k.mpp else k.machine

/-! ### The address map -/

/-- What an address names for a core (R410). -/
inductive Place where
  | own (off : Nat)
  | other (core off : Nat)
  | shared (off : Nat)
  | rom (off : Nat)
  | regs (off : Nat)
  | hbm (a : Nat)
  deriving DecidableEq, Repr

/-- The address map of R410. -/
def State.place (s : State) (c a : Nat) : Option Place :=
  if a < 0x10000 then some (.own a)
  else if 0x1000000 ≤ a ∧ a < 0x1080000 then some (.other ((a - 0x1000000) / 65536) (a % 65536))
  else if 0x10000000 ≤ a ∧ a < 0x10400000 then some (.shared (a - 0x10000000))
  else if 0x20000000 ≤ a ∧ a < 0x20010000 then some (.rom (a - 0x20000000))
  else if 0x40000000 ≤ a ∧ a < 0x44000000 then some (.regs (a - 0x40000000))
  else if 0x80000000 ≤ a ∧ a < 0x100000000 then
    some (.hbm (s.f (ccPg c) 0x48 4 0 * 2 ^ 31 + (a - 0x80000000)))
  else none

/-- A word of a core's local SRAM with its error class.
DESIGN CHOICE (log 4; unsafe). -/
def State.sramWord (s : State) (c off : Nat) : Word × EccClass :=
  (Tab.get (zeroAt 32) (s.core c).sram (off / 4), Tab.get (fun _ => EccClass.clean) (s.core c).sramErr (off / 4))

/-- A word of shared SRAM with its error class.
DESIGN CHOICE (log 4; unsafe). -/
def State.sharedWord (s : State) (off : Nat) : Word × EccClass :=
  (Tab.get (zeroAt 32) s.shared (off / 4), Tab.get (fun _ => EccClass.clean) s.sharedErr (off / 4))

/-- n bytes of a word from a byte address. -/
def wordBytes (w : Word) (a n : Nat) : Nat := w.toNat / 2 ^ (8 * (a % 4)) % 2 ^ (8 * n)

/-- A word with n bytes from a byte address replaced. -/
def putBytes (w : Word) (a n v : Nat) : Word := setFld w (8 * (a % 4 + n) - 1) (8 * (a % 4)) v

/-- Every reservation on a word of local SRAM c (as its core names it), or of shared SRAM, ends. -/
def clearResv (s : State) (ok : Nat → Nat → Bool) : State :=
  (List.range 8).foldl (fun s c =>
    match (s.core c).resv with
    | some a => if ok c a then s.onCore c (fun k => { k with resv := none }) else s
    | none => s) s

/-- Write bytes of a core's local SRAM: a whole word is written with fresh check bits; an uncorrectable word stays as it
is (R412). -/
def writeSram (s : State) (c off n v : Nat) : State :=
  let (w, e) := s.sramWord c off
  let s := clearResv s (fun d a => d == c && a / 4 == off / 4)
  if e = .uncorrectable ∧ n < 4 then s
  else s.onCore c (fun k => { k with
    sram := Tab.set (zeroAt 32) k.sram (off / 4) (putBytes w off n v)
    sramErr := Tab.set (fun _ => EccClass.clean) k.sramErr (off / 4) EccClass.clean })

/-- Write bytes of shared SRAM. -/
def writeShared (s : State) (off n v : Nat) : State :=
  let (w, e) := s.sharedWord off
  let s := clearResv s (fun _ a => a / 4 == (0x10000000 + off) / 4)
  if e = .uncorrectable ∧ n < 4 then s
  else
    (s.withShared (Tab.set (zeroAt 32) s.shared (off / 4) (putBytes w off n v))).withSharedErr
      (Tab.set (fun _ => EccClass.clean) s.sharedErr (off / 4) EccClass.clean)

/-- The sticky bits of a CC_ page with STATUS and class in INFO (R438). -/
def busEvent (s : State) (c b status cls : Nat) : State := raise s (ccPg c) b (status * 2 ^ 20 + cls * 2 ^ 16)

/-- The SECDED events of a word that a core reads (R412). -/
def sramEvent (s : State) (c : Nat) (e : EccClass) : State :=
  match e with
  | .clean => s
  | .corrected => busEvent s c 10 0 0
  | .uncorrectable => busEvent s c 11 0 0

/-- An access of a core fails with a STATUS of R433 (R412): BUS_ERR or RING_TMO, and the access fault.
DEDUCED (log 35; unsafe). -/
def accessFails (s : State) (c cause status cls a : Nat) : State :=
  exception (busEvent s c (if status = 4 then 9 else 8) status cls) c cause (BitVec.ofNat 32 a)

/-- A load's value extended to 32 bits. -/
def loadValue (n : Nat) (signed : Bool) (v : Nat) : Word := if signed then sx (8 * n) v else BitVec.ofNat 32 v

/-- A load completes with its value: the register, the trace, the next instruction. -/
def loadDone (s : State) (c rd n : Nat) (signed : Bool) (a len v : Nat) : State :=
  let k := s.core c
  let s := traceData s c k.pc k.machine false a n v
  s.onCore c (fun k => { (k.put rd (loadValue n signed v)).retire (k.pc + BitVec.ofNat 32 len) with wait := none })

/-- The core waits for an answer (R411). -/
def coreWaits (c : Nat) (w : CoreWait) (s : State) : State := s.onCore c (fun k => { k with wait := some w })

/-- Send a request of a core. The outcome of a route that does not exist is the access fault. -/
def coreSend (s : State) (c op dst addr bytes : Nat) (data : List Nat) (amo cause a : Nat) (k : State → State) : State :=
  match sendReq s c op dst addr bytes data amo (.core c) (s.core c).machine a with
  | .waits => s
  | .noRoute s => accessFails s c cause 3 0 a
  | .sent s => k s

/-- The destination node and packet address of a place that the ring reaches (R433). The table of nodes names none for the
boot ROM: node 8 answers for it, at the core's own address of it.
DESIGN CHOICE (log 35; unsafe). -/
def ringTarget (p : Place) : Nat × Nat :=
  match p with
  | .own off => (0, off)
  | .other d off => (d, off)
  | .shared off => (8, off)
  | .rom off => (8, 0x20000000 + off)
  | .regs off => (nodeOfBar0 off, off)
  | .hbm a => (if stackOf a = 0 then 12 else 13, a)

/-- A register access to the broadcast window goes as a broadcast (R49, R433). -/
def isBcast (p : Place) : Bool :=
  match p with
  | .regs off => off / 2 ^ 24 == 2
  | _ => false

/-- Load n bytes (R410, R411). -/
def coreLoad (s : State) (c rd n : Nat) (signed : Bool) (a len : Nat) : State :=
  let k := s.core c
  if a % n ≠ 0 then exception s c 4 (BitVec.ofNat 32 a)
  else if !k.pmpOk k.dataMachine 0 a then exception s c 5 (BitVec.ofNat 32 a)
  else
    match s.place c a with
    | none => exception s c 5 (BitVec.ofNat 32 a)
    | some (.own off) =>
      let (w, e) := s.sramWord c off
      let s := sramEvent s c e
      if e = .uncorrectable then exception s c 5 (BitVec.ofNat 32 a) else loadDone s c rd n signed a len (wordBytes w off n)
    | some p =>
      let (dst, ad) := ringTarget p
      coreSend s c (if isBcast p then 4 else 1) dst ad n [] 0 5 a (coreWaits c (.load rd n signed a len))

/-- A store is done at the core, whose pc and mode it began with: it is traced, and the pc moves.
DEDUCED (log 35; unsafe). -/
def storeDone (k : Core) (c n a len v : Nat) (s : State) : State :=
  (traceData s c k.pc k.machine true a n (v % 2 ^ (8 * n))).onCore c (fun k => k.retire (k.pc + BitVec.ofNat 32 len))

/-- Store n bytes (R410, R411): a store to the ring completes at the core when it is sent. -/
def coreStore (s : State) (c n : Nat) (a len v : Nat) : State :=
  let k := s.core c
  if a % n ≠ 0 then exception s c 6 (BitVec.ofNat 32 a)
  else if !k.pmpOk k.dataMachine 1 a then exception s c 7 (BitVec.ofNat 32 a)
  else
    match s.place c a with
    | none => exception s c 7 (BitVec.ofNat 32 a)
    | some (.rom _) => exception s c 7 (BitVec.ofNat 32 a)
    | some (.own off) =>
      let (_, e) := s.sramWord c off
      if e = .uncorrectable ∧ n < 4 then exception (sramEvent s c e) c 7 (BitVec.ofNat 32 a)
      else storeDone k c n a len v (writeSram (if n < 4 then sramEvent s c e else s) c off n (v % 2 ^ (8 * n)))
    | some p =>
      let (dst, ad) := ringTarget p
      coreSend s c (if isBcast p then 3 else 2) dst ad n (bytesLE n v) 0 7 a (storeDone k c n a len v)

/-- The new value of an AMO (funct5), from the word in memory and the register. -/
def amoResult (op : Nat) (old v : Word) : Word :=
  match op with
  | 0 => old + v
  | 1 => v
  | 4 => old ^^^ v
  | 8 => old ||| v
  | 0xc => old &&& v
  | 0x10 => if old.slt v then old else v
  | 0x14 => if old.slt v then v else old
  | 0x18 => if old.ult v then old else v
  | _ => if old.ult v then v else old

/-- An AMO, LR or SC completes with what goes into rd (R396): its trace packets, the register, the next instruction. -/
def amoDone (s : State) (c rd op a len : Nat) (v res : Word) : State :=
  let k := s.core c
  let s :=
    if op = 3 then (if res = 0 then traceData s c k.pc k.machine true a 4 v.toNat else s)
    else
      let s := traceData s c k.pc k.machine false a 4 res.toNat
      if op = 2 then s else traceData s c k.pc k.machine true a 4 (amoResult op res v).toNat
  s.onCore c (fun k => { (k.put rd res).retire (k.pc + BitVec.ofNat 32 len) with wait := none })

/-- The reservation that an LR takes and an SC ends, whatever its result. -/
def setResv (s : State) (c op a : Nat) : State :=
  if op = 2 then s.onCore c (fun k => { k with resv := some a })
  else if op = 3 then s.onCore c (fun k => { k with resv := none })
  else s

/-- LR, SC and AMOs on 4 bytes (R410, R411). -/
def coreAmo (s : State) (c rd op a len : Nat) (v : Word) : State :=
  let k := s.core c
  let cause := if op = 2 then 5 else 7
  if a % 4 ≠ 0 then exception s c (if op = 2 then 4 else 6) (BitVec.ofNat 32 a)
  else if !(k.pmpOk k.dataMachine 0 a || op == 3) || !(k.pmpOk k.dataMachine 1 a || op == 2) then
    exception s c cause (BitVec.ofNat 32 a)
  else
    match s.place c a with
    | some (.own off) =>
      if op = 3 then
        if k.resv = some a then amoDone (setResv (writeSram s c off 4 v.toNat) c op a) c rd op a len v 0
        else amoDone (setResv s c op a) c rd op a len v 1
      else
        let (w, e) := s.sramWord c off
        let s := sramEvent s c e
        if e = .uncorrectable then exception s c cause (BitVec.ofNat 32 a)
        else if op = 2 then amoDone (setResv s c op a) c rd op a len v w
        else amoDone (writeSram s c off 4 (amoResult op w v).toNat) c rd op a len v w
    | some (.shared off) =>
      coreSend s c 5 8 off 4 (bytesLE 4 v.toNat) op cause a (coreWaits c (.amo rd op a len v))
    | _ => exception s c cause (BitVec.ofNat 32 a)

/-! ### CSRs -/

/-- A CSR's value; none where it does not exist.
PRESUMED (log 34; unsafe). -/
def State.csrRead (s : State) (c n : Nat) : Option Word :=
  let k := s.core c
  let hi := fun (v : BitVec 64) => BitVec.ofNat 32 (v.toNat / 2 ^ 32)
  let lo := fun (v : BitVec 64) => v.truncate 32
  match n with
  | 0x300 => some (BitVec.ofNat 32 (bit k.mie_ * 2 ^ 3 + bit k.mpie * 2 ^ 7 + bit k.mpp * 3 * 2 ^ 11 + bit k.mprv * 2 ^ 17 +
      bit k.tw * 2 ^ 21))
  | 0x301 => some 0x40101105
  | 0x304 => some k.mie
  | 0x305 => some k.mtvec
  | 0x306 => some k.mcounteren
  | 0x30a => some (BitVec.ofNat 32 (bit k.fiom))
  | 0x310 => some 0
  | 0x31a => some 0
  | 0x320 => some k.mcountinhibit
  | 0x340 => some k.mscratch
  | 0x341 => some k.mepc
  | 0x342 => some k.mcause
  | 0x343 => some k.mtval
  | 0x344 => some (BitVec.ofNat 32 (s.mip c))
  | 0xb00 | 0xc00 => some (lo k.mcycle)
  | 0xb80 | 0xc80 => some (hi k.mcycle)
  | 0xb02 | 0xc02 => some (lo k.minstret)
  | 0xb82 | 0xc82 => some (hi k.minstret)
  | 0xc01 => some (BitVec.ofNat 32 s.ticks)
  | 0xc81 => some (BitVec.ofNat 32 (s.ticks / 2 ^ 32))
  | 0xf14 => some (BitVec.ofNat 32 c)
  | _ =>
    if 0x323 ≤ n ∧ n ≤ 0x33f ∨ 0xb03 ≤ n ∧ n ≤ 0xb1f ∨ 0xb83 ≤ n ∧ n ≤ 0xb9f ∨ 0xc03 ≤ n ∧ n ≤ 0xc1f ∨
        0xc83 ≤ n ∧ n ≤ 0xc9f then some 0
    else if 0x3a0 ≤ n ∧ n < 0x3a4 then
      some (BitVec.ofNat 32 (numLE ((List.range 4).map (fun j =>
        (Tab.get (zeroAt 8) k.pmpcfg (4 * (n - 0x3a0) + j)).toNat))))
    else if 0x3b0 ≤ n ∧ n < 0x3c0 then some (Tab.get (zeroAt 32) k.pmpaddr (n - 0x3b0))
    else if n = 0xf11 ∨ n = 0xf12 ∨ n = 0xf13 ∨ n = 0xf15 then some (Config.coreId n)
    else none

/-- PMP entry i is locked; the address of an entry below a locked TOR entry is locked with it. -/
def Core.pmpLocked (k : Core) (i : Nat) : Bool := (Tab.get (zeroAt 8) k.pmpcfg i).getLsbD 7
def Core.pmpAddrLocked (k : Core) (i : Nat) : Bool :=
  k.pmpLocked i || (k.pmpLocked (i + 1) && fld (Tab.get (zeroAt 8) k.pmpcfg (i + 1)).toNat 4 3 == 1)

/-- A PMP configuration byte as it is kept: bits 6:5 read 0; W without R is reserved and keeps the old byte. -/
def pmpByte (old new : Nat) : Nat := if fld new 1 0 = 2 then old else new - fld new 6 5 * 32

/-- Write a CSR that exists.
PRESUMED (log 34; unsafe). -/
def Core.csrWrite (k : Core) (n : Nat) (v : Word) : Core :=
  match n with
  | 0x300 => { k with
      mie_ := v.getLsbD 3, mpie := v.getLsbD 7, mprv := v.getLsbD 17, tw := v.getLsbD 21
      mpp := if fld v.toNat 12 11 = 3 then true else if fld v.toNat 12 11 = 0 then false else k.mpp }
  | 0x304 => { k with mie := v &&& 0x888 }
  | 0x305 => { k with mtvec := v &&& ~~~2 }
  | 0x306 => { k with mcounteren := v &&& 7 }
  | 0x30a => { k with fiom := v.getLsbD 0 }
  | 0x320 => { k with mcountinhibit := v &&& 5 }
  | 0x340 => { k with mscratch := v }
  | 0x341 => { k with mepc := v &&& ~~~1 }
  | 0x342 => { k with mcause := v }
  | 0x343 => { k with mtval := v }
  | 0xb00 => { k with mcycle := BitVec.ofNat 64 (k.mcycle.toNat / 2 ^ 32 * 2 ^ 32 + v.toNat) }
  | 0xb80 => { k with mcycle := BitVec.ofNat 64 (v.toNat * 2 ^ 32 + k.mcycle.toNat % 2 ^ 32) }
  | 0xb02 => { k with minstret := BitVec.ofNat 64 (k.minstret.toNat / 2 ^ 32 * 2 ^ 32 + v.toNat) }
  | 0xb82 => { k with minstret := BitVec.ofNat 64 (v.toNat * 2 ^ 32 + k.minstret.toNat % 2 ^ 32) }
  | _ =>
    if 0x3a0 ≤ n ∧ n < 0x3a4 then
      (List.range 4).foldl (fun k j =>
        let i := 4 * (n - 0x3a0) + j
        if k.pmpLocked i then k
        else
          let b := pmpByte (Tab.get (zeroAt 8) k.pmpcfg i).toNat (fld v.toNat (8 * j + 7) (8 * j))
          { k with pmpcfg := Tab.set (zeroAt 8) k.pmpcfg i (BitVec.ofNat 8 b) }) k
    else if 0x3b0 ≤ n ∧ n < 0x3c0 then
      if k.pmpAddrLocked (n - 0x3b0) then k else { k with pmpaddr := Tab.set (zeroAt 32) k.pmpaddr (n - 0x3b0) v }
    else k

/-- May the core touch a CSR, for writing or not? -/
def Core.csrOk (k : Core) (n : Nat) (wr : Bool) : Bool :=
  (k.machine || fld n 9 8 == 0) && !(wr && fld n 11 10 == 3) &&
    (k.machine || !(decide (0xc00 ≤ n) && decide (n < 0xd00)) || k.mcounteren.getLsbD (n % 32))

/-- A Zicsr instruction: f3 gives write, set or clear, from a register or an immediate. A write of minstret stands in
place of the instruction's own count.
PRESUMED (log 34; unsafe). -/
def execCsr (s : State) (c w len rd f3 rs1 n : Nat) : State :=
  let k := s.core c
  let src : Word := if 4 ≤ f3 then BitVec.ofNat 32 rs1 else k.get rs1
  let wr := f3 % 4 == 1 || rs1 != 0
  match s.csrRead c n, k.csrOk n wr with
  | some old, true =>
    let new := if f3 % 4 = 1 then src else if f3 % 4 = 2 then old ||| src else old &&& ~~~src
    s.onCore c (fun k =>
      let k := (k.put rd old).retire (k.pc + BitVec.ofNat 32 len)
      if wr then k.csrWrite n new else k)
  | _, _ => illegal s c w

/-! ### Instructions -/

/-- Division and remainder of the M extension. -/
def divS (a b : Word) : Word := if b = 0 then -1 else BitVec.ofInt 32 (a.toInt.tdiv b.toInt)
def remS (a b : Word) : Word := if b = 0 then a else BitVec.ofInt 32 (a.toInt.tmod b.toInt)
def divU (a b : Word) : Word := if b = 0 then -1 else BitVec.ofNat 32 (a.toNat / b.toNat)
def remU (a b : Word) : Word := if b = 0 then a else BitVec.ofNat 32 (a.toNat % b.toNat)

/-- The M extension by f3. -/
def mulOp (f3 : Nat) (a b : Word) : Word :=
  match f3 with
  | 0 => a * b
  | 1 => BitVec.ofInt 32 ((a.toInt * b.toInt) / 2 ^ 32)
  | 2 => BitVec.ofInt 32 ((a.toInt * (b.toNat : Int)) / 2 ^ 32)
  | 3 => BitVec.ofNat 32 (a.toNat * b.toNat / 2 ^ 32)
  | 4 => divS a b
  | 5 => divU a b
  | 6 => remS a b
  | _ => remU a b

/-- The integer operations by f3; `alt` selects subtraction and the arithmetic shift. -/
def aluOp (f3 : Nat) (alt : Bool) (a b : Word) : Word :=
  let sh := b.toNat % 32
  match f3 with
  | 0 => if alt then a - b else a + b
  | 1 => a <<< sh
  | 2 => if a.slt b then 1 else 0
  | 3 => if a.ult b then 1 else 0
  | 4 => a ^^^ b
  | 5 => if alt then a.sshiftRight sh else a >>> sh
  | 6 => a ||| b
  | _ => a &&& b

/-- The condition of a branch by f3; none for a reserved one. -/
def branchCond (f3 : Nat) (a b : Word) : Option Bool :=
  match f3 with
  | 0 => some (a == b)
  | 1 => some (a != b)
  | 4 => some (a.slt b)
  | 5 => some (!a.slt b)
  | 6 => some (a.ult b)
  | 7 => some (!a.ult b)
  | _ => none

/-- Every earlier access of the core has been performed (R411). -/
def State.coreQuiet (s : State) (c : Nat) : Bool := (s.outstanding c).isEmpty

/-- WFI (R414): core sleep, unless an interrupt enabled in mie is pending. -/
def coreWfi (s : State) (c w len : Nat) : State :=
  let k := s.core c
  if !k.machine && k.tw then illegal s c w
  else
    let s := s.onCore c (fun k => k.retire (k.pc + BitVec.ofNat 32 len))
    if s.mip c &&& k.mie.toNat ≠ 0 then s
    else traceSleep (s.setCcSts c 0 true) c (s.core c).pc k.machine

/-- MRET: the trace unit sees its target, and the return to a mode that is traced (R398). -/
def coreMret (s : State) (c : Nat) : State :=
  let k := s.core c
  let s := traceIndirect s c k.pc k.machine k.mepc
  let s := s.onCore c (fun k => { k.retire k.mepc with
    mie_ := k.mpie, mpie := true, machine := k.mpp, mpp := false, mprv := k.mprv && k.mpp })
  traceEnter s c k.mepc k.mpp

/-- SYSTEM instructions with f3 = 0; `raw` and `len` are the instruction as fetched (C.EBREAK is EBREAK).
PRESUMED (log 34; unsafe). -/
def execSystem (s : State) (c w raw len : Nat) : State :=
  let k := s.core c
  match w with
  | 0x00000073 => exception s c (if k.machine then 11 else 8) 0
  | 0x00100073 => exception s c 3 k.pc
  | 0x10500073 => coreWfi s c raw len
  | 0x30200073 =>
    if !k.machine then illegal s c raw else coreMret s c
  | _ => illegal s c raw

/-- An instruction puts its result and retires. -/
def coreResult (s : State) (c rd : Nat) (pc v : Word) : State := s.onCore c (fun k => (k.put rd v).retire pc)

/-- LB, LH, LW, LBU and LHU by funct3. -/
def loadOp (s : State) (c f3 rd a len raw : Nat) : State :=
  match f3 with
  | 0 => coreLoad s c rd 1 true a len
  | 1 => coreLoad s c rd 2 true a len
  | 2 => coreLoad s c rd 4 false a len
  | 4 => coreLoad s c rd 1 false a len
  | 5 => coreLoad s c rd 2 false a len
  | _ => illegal s c raw

/-- Execute one decoded 32-bit word; `raw` and `len` are the instruction as fetched.
PRESUMED (log 34; unsafe). -/
def execWord (s : State) (c w raw len : Nat) : State :=
  let k := s.core c
  let rd := fld w 11 7
  let f3 := fld w 14 12
  let rs1 := fld w 19 15
  let a := k.get rs1
  let b := k.get (fld w 24 20)
  let f7 := fld w 31 25
  let immI := sx 12 (fld w 31 20)
  let pcNext := k.pc + BitVec.ofNat 32 len
  let wr := coreResult s c rd pcNext
  match fld w 6 0 with
  | 0x37 => wr (BitVec.ofNat 32 (w / 4096 * 4096))
  | 0x17 => wr (k.pc + BitVec.ofNat 32 (w / 4096 * 4096))
  | 0x6f =>
    let imm := sx 21 (fld w 31 31 * 2 ^ 20 + fld w 30 21 * 2 + fld w 20 20 * 2 ^ 11 + fld w 19 12 * 2 ^ 12)
    s.onCore c (fun k => (k.put rd pcNext).retire (k.pc + imm))
  | 0x67 =>
    if f3 ≠ 0 then illegal s c raw
    else
      let t := (a + immI) &&& ~~~1
      (traceIndirect s c k.pc k.machine t).onCore c (fun k => (k.put rd pcNext).retire t)
  | 0x63 =>
    let imm := sx 13 (fld w 31 31 * 2 ^ 12 + fld w 30 25 * 2 ^ 5 + fld w 11 8 * 2 + fld w 7 7 * 2 ^ 11)
    match branchCond f3 a b with
    | none => illegal s c raw
    | some t =>
      (traceBranch s c k.pc k.machine t).onCore c (fun k => k.retire (if t then k.pc + imm else pcNext))
  | 0x03 => loadOp s c f3 rd (a + immI).toNat len raw
  | 0x23 =>
    let imm := sx 12 (f7 * 32 + rd)
    if f3 < 3 then coreStore s c (2 ^ f3) (a + imm).toNat len b.toNat else illegal s c raw
  | 0x13 =>
    if f3 = 1 ∧ f7 ≠ 0 ∨ f3 = 5 ∧ f7 ≠ 0 ∧ f7 ≠ 0x20 then illegal s c raw
    else wr (aluOp f3 (f3 == 5 && f7 == 0x20) a (if f3 % 4 = 1 then BitVec.ofNat 32 (fld w 24 20) else immI))
  | 0x33 =>
    if f7 = 1 then wr (mulOp f3 a b)
    else if f7 = 0 ∨ f7 = 0x20 ∧ (f3 = 0 ∨ f3 = 5) then wr (aluOp f3 (f7 == 0x20) a b)
    else illegal s c raw
  | 0x0f =>
    if f3 = 0 ∨ f3 = 1 then
      if s.coreQuiet c then s.onCore c (fun k => k.retire pcNext) else s
    else illegal s c raw
  | 0x2f =>
    let op := fld w 31 27
    if f3 ≠ 2 ∨ !([0, 1, 2, 3, 4, 8, 0xc, 0x10, 0x14, 0x18, 0x1c].contains op) ∨ op = 2 ∧ fld w 24 20 ≠ 0 then
      illegal s c raw
    else coreAmo s c rd op a.toNat len b
  | 0x73 =>
    if f3 = 0 then execSystem s c w raw len
    else if f3 = 4 then illegal s c raw
    else execCsr s c raw len rd f3 rs1 (fld w 31 20)
  | _ => illegal s c raw

/-- Fetch a word of the instruction stream over the ring (R411): what has come is there; a READ is sent, and the core waits
for its answer. -/
def fetchOver (s : State) (c a : Nat) (p : Place) : Sum Nat State :=
  match (s.core c).fetched.find? (fun e => e.1 == a / 4) with
  | some (_, w) => .inl (wordBytes w a 2)
  | none =>
    let (dst, ad) := ringTarget p
    .inr (coreSend s c 1 dst (ad / 4 * 4) 4 [] 0 1 a (coreWaits c (.fetch a)))

/-- One halfword of the instruction stream (R410, R411): the value; or the state after the fault that its fetch raises, or
after the request that it waits for. -/
def fetchHalf (s : State) (c a : Nat) : Sum Nat State :=
  let k := s.core c
  let fault := exception s c 1 (BitVec.ofNat 32 a)
  if !k.pmpOk k.machine 2 a then .inr fault
  else
    match s.place c a with
    | some (.own off) =>
      let (w, e) := s.sramWord c off
      if e = .uncorrectable then .inr (exception (sramEvent s c e) c 1 (BitVec.ofNat 32 a)) else .inl (wordBytes w off 2)
    | some (.shared off) => fetchOver s c a (.shared off)
    | some (.rom off) => fetchOver s c a (.rom off)
    | _ => .inr fault

/-- The corrected errors of the words of its own local SRAM that a fetch read (R412). -/
def fetchEvents (s : State) (c a len : Nat) : State :=
  (if a % 4 = 2 ∧ len = 4 then [a, a + 2] else [a]).foldl (fun s a =>
    match s.place c a with
    | some (.own off) => sramEvent s c (s.sramWord c off).2
    | _ => s) s

/-- The words that came over the ring serve one instruction (R411). -/
def fetchedUsed (s : State) (c : Nat) : State := s.onCore c (fun k => { k with fetched := [] })

/-- Fetch the instruction at the pc: the 32-bit word it stands for (none for a reserved compressed one), the raw bits
and the length; or the state after a fault, with the corrected error of a first halfword that had been read (R412), or after
the request that the fetch waits for. -/
def fetch (s : State) (c : Nat) : Sum (Option Nat × Nat × Nat) State :=
  let pc := (s.core c).pc.toNat
  match fetchHalf s c pc with
  | .inr s => .inr s
  | .inl h =>
    if h % 4 ≠ 3 then .inl (expandC h, h, 2)
    else match fetchHalf (fetchEvents s c pc 2) c ((pc + 2) % 2 ^ 32) with
      | .inr s => .inr s
      | .inl h2 => .inl (some (h + 2 ^ 16 * h2), h + 2 ^ 16 * h2, 4)

/-- The interrupt that a core takes now: external, software, then timer. -/
def State.takes (s : State) (c : Nat) : Option Nat :=
  let k := s.core c
  let p := s.mip c &&& k.mie.toNat
  if k.machine && !k.mie_ then none
  else if p.testBit 11 then some 11
  else if p.testBit 3 then some 3
  else if p.testBit 7 then some 7
  else none

/-- A core has been released and not halted: its page is ON, or in its stop sequence (R413). -/
def State.coreLive (s : State) (c : Nat) : Bool := s.on (ccPg c) || s.st (ccPg c) == stStopping

/-- A core can go on: it is live, the reference clock runs, it is not asleep and waits for no answer. -/
def State.coreRuns (s : State) (c : Nat) : Bool :=
  decide (c < 8) && s.coreLive c && !s.pwr.off && !s.pwr.starting && decide (s.f (pg .pwr) 0x44 2 0 < 3) &&
    !s.ccSts c 0 && (s.core c).wait.isNone

/-- An instruction that has been fetched: a reserved encoding is illegal. -/
def runFetched (s : State) (c : Nat) (w : Option Nat) (raw len : Nat) : State :=
  match w with
  | none => illegal s c raw
  | some w => execWord s c w raw len

/-- Fetch and execute the instruction at the pc (R410, R411); the trace unit sees an instruction that has been fetched. -/
def fetchAndRun (s : State) (c : Nat) : State :=
  match fetch s c with
  | .inr t => t
  | .inl (w, raw, len) => 
    let pc := (s.core c).pc
    let s := traceFetch (fetchedUsed s c) c pc (s.core c).machine
    runFetched (fetchEvents s c pc.toNat len) c w raw len

/-- CORE_INSTRUCTION (R408): one instruction, or the interrupt that comes before it. -/
def coreInstruction (s : State) (c : Nat) : State :=
  if s.coreRuns c then
    match (s.core c).fault, s.takes c with
    | some a, _ => exception (s.onCore c (fun k => { k with fault := none })) c 7 a
    | none, some n => takeTrap s c n true 0
    | none, none =>
      fetchAndRun s c
  else s

/-- WFI (R414), where it is the instruction at the pc and no interrupt comes before it. -/
def wfi (s : State) (c : Nat) : State :=
  if s.coreRuns c && (s.takes c).isNone then
    match fetch s c with
    | .inl (some 0x10500073, _, _) => coreInstruction s c
    | _ => s
  else s

/-- CORE_WAKE (R414): a sleeping core wakes on an interrupt that is pending and enabled in mie. -/
def coreWake (s : State) (c : Nat) : State :=
  if s.ccSts c 0 && s.coreLive c && decide (s.f (pg .pwr) 0x44 2 0 < 3) && s.mip c &&& (s.core c).mie.toNat != 0 then
    traceWake (s.setCcSts c 0 false) c (s.core c).pc (s.core c).machine
  else s

/-- An interrupt becomes pending (R409, R416): the core wakes, and takes it if nothing of higher priority comes first. -/
def coreInterrupt (s : State) (c n : Nat) : State :=
  let s := coreWake s c
  if s.coreRuns c && s.takes c == some n then takeTrap s c n true 0 else s

/-- The core halts or starts again: the answers of its requests concern it no more. -/
def orphan (s : State) (c : Nat) : State :=
  s.withNet (s.net.map (fun r => if r.src = c then { r with live := false } else r))

/-- The start sequence releases the core at CC_BOOT, in machine mode with mie and MIE 0 (R413); PMP entries and the other
CSRs are as after reset, the local SRAM keeps its contents. -/
def coreStart (s : State) (c : Nat) : State :=
  let k := s.core c
  let s := orphan s c
  let s := s.setCore c { Core.empty with pc := s.reg (ccPg c) 0x40 &&& ~~~3, sram := k.sram, sramErr := k.sramErr }
  (s.setTr c { s.tr c with asleep := false }).setCcSts c 0 false

/-! ### The commands -/

def execCoreInstruction (c : Nat) (s : State) := done (coreInstruction s c)
def execWfi (c : Nat) (s : State) := done (wfi s c)
def execCoreWake (c : Nat) (s : State) := done (coreWake s c)
def execMachineTimerInterrupt (c : Nat) (s : State) := done (coreInterrupt s c 7)
def execMachineExternalInterrupt (c : Nat) (s : State) := done (coreInterrupt s c 11)

/-- The pc and mode of a core for the packets that its trace unit writes between instructions. -/
def traceAt (s : State) (c : Nat) (f : State → Nat → Word → Bool → State) : State :=
  if c < 8 then f s c (s.core c).pc (s.core c).machine else s

def execTraceSync (c : Nat) (s : State) := done (traceAt s c traceSyncDue)
def execTraceTimestamp (c : Nat) (s : State) := done (traceAt s c traceStampDue)
def execTraceStop (c : Nat) (s : State) := done (if c < 8 then traceStopDue s c else s)
/-- TRACE_OVERFLOW (R401). -/
def execTraceOverflow (c : Nat) (s : State) := done (if s.tracing c then traceAt s c traceResume else s)

end Sys2Proof.Machine
end

