-- ==== Sys2Proof/Machine/Work.lean ====
section
/-! DEFINITION. The work dispatcher (R419-R430): posts, ready lists, flows, delay lists, dispatch, preemption and the
decision trace. -/
namespace Sys2Proof.Machine

def wdPg : PageId := ⟨.wd, 0⟩

/-! ### Work items (R419) -/

def WorkItem.list (i : WorkItem) : Nat := fld i.w2.toNat 5 0
def WorkItem.thread (i : WorkItem) : Bool := i.w2.getLsbD 6
def WorkItem.flow (i : WorkItem) : Nat := fld i.w2.toNat 12 8
def WorkItem.delay (i : WorkItem) : Nat := fld i.w2.toNat 31 16
def WorkItem.dlist (i : WorkItem) : Nat := fld i.w3.toNat 1 0
def WorkItem.seq (i : WorkItem) : Nat := fld i.w3.toNat 31 16

/-- The item with its sequence number. -/
def WorkItem.withSeq (i : WorkItem) (n : Nat) : WorkItem := { i with w3 := setFld i.w3 31 16 n }

/-- The item that four registers hold. -/
def State.itemAt (s : State) (p : PageId) (o : Nat) : WorkItem := ⟨s.reg p o, s.reg p (o + 4), s.reg p (o + 8), s.reg p (o + 12)⟩

/-! ### Lists and flows -/

/-- A ready list, and a delay list. -/
def State.wdList (s : State) (l : Nat) : List (WorkItem × Nat) := Tab.get (fun _ => []) s.wd.lists l
def State.wdDelay (s : State) (k : Nat) : List (Nat × WorkItem) := Tab.get (fun _ => []) s.wd.delays k

/-- WD_POOL_FREE (R422). -/
def State.poolFree (s : State) : Nat := s.f wdPg 0x54 12 0

/-- Replace a ready list; its count and the pool show it. -/
def State.setWdList (s : State) (l : Nat) (x : List (WorkItem × Nat)) : State :=
  let s := s.setReg wdPg 0x54 (BitVec.ofNat 32 (s.poolFree + (s.wdList l).length - x.length))
  let s := s.setReg wdPg (0x300 + 4 * l) (BitVec.ofNat 32 x.length)
  s.withWd { s.wd with lists := Tab.set (fun _ => []) s.wd.lists l x }

/-- EN of a delay list. -/
def State.dlyEn (s : State) (k : Nat) : Bool := s.f wdPg (0x400 + 0x20 * k) 8 8 == 1

/-- DRAINING of a delay list (R428): EN has been written 0, and the list has not been empty since. -/
def State.draining (s : State) (k : Nat) : Bool := s.f wdPg (0x400 + 0x20 * k) 9 9 == 1

/-- Replace a delay list; a draining one that is empty drains no more. -/
def State.setWdDelay (s : State) (k : Nat) (x : List (Nat × WorkItem)) : State :=
  let s := s.setReg wdPg 0x54 (BitVec.ofNat 32 (s.poolFree + (s.wdDelay k).length - x.length))
  let s := s.setReg wdPg (0x414 + 0x20 * k) (BitVec.ofNat 32 x.length)
  let s : State := s.withWd { s.wd with delays := Tab.set (fun _ => []) s.wd.delays k x }
  if x = [] then s.setF wdPg (0x400 + 0x20 * k) 9 9 0 else s

/-- Items outstanding in a flow, and the SEQ it releases next (R427). -/
def State.flowOut (s : State) (f : Nat) : Nat := s.f wdPg (0x500 + 4 * f) 6 0
def State.flowNext (s : State) (f : Nat) : Nat := s.f wdPg (0x500 + 4 * f) 23 8

/-- A ready list's count has reached its cap (R422). The pool is tested beside it. -/
def State.listFull (s : State) (l : Nat) : Bool := decide (s.f wdPg (0x200 + 4 * l) 12 0 ≤ (s.wdList l).length)

/-- The urgency of a list's head (R424); 0 for an empty list. -/
def State.urgency (s : State) (l : Nat) : Nat :=
  match s.wdList l with
  | [] => 0
  | (_, t) :: _ =>
    let o := 0x100 + 4 * l
    let prio := s.f wdPg o 5 0
    if s.f wdPg o 7 7 = 0 then prio else min 63 (prio + (s.ticks - t) / 2 ^ s.f wdPg o 12 8)

/-! ### The decision trace (R430) -/

/-- Codes of SOURCE: a core is its number. -/
def srcHost : Nat := 8
def srcDispatcher : Nat := 9

/-- Capture INFO of the WD_ page (R439). -/
def wdInfo (list flow src : Nat) : Nat := list % 64 + flow % 32 * 2 ^ 8 + src * 2 ^ 16

/-- Write a trace record that waits, over the ring to shared SRAM (R430, R431). -/
def putRecord (s : State) (bytes : List Nat) : State :=
  let off := (s.reg wdPg 0x4c).toNat
  let base := (s.reg wdPg 0x44).toNat
  let s := (tripWrite s 11 8 ((base + off) % 2 ^ 22) bytes clearTrip (fun s => (List.range 4).foldl
    (fun s i => writeShared s ((base + off + 4 * i) % 2 ^ 22) 4 (numLE ((bytes.drop (4 * i)).take 4))) s)).2
  s.setReg wdPg 0x4c (BitVec.ofNat 32 ((off + 16) % 2 ^ s.f wdPg 0x48 4 0))

/-- Trace records that wait at the dispatcher are written in order while a response buffer is free, `fuel` at most (R434). -/
def putRecords : Nat → State → State
  | 0, s => s
  | fuel + 1, s =>
    match s.wd.held, s.bufferFree 11 with
    | bs :: rest, true => putRecords fuel (putRecord (s.withWd { s.wd with held := rest }) bs)
    | _, _ => s

/-- Compose one trace record (R430), or drop it. -/
def traceWd (s : State) (event list src flow seq urg : Nat) : State :=
  if s.f wdPg 0x40 0 0 = 0 then s
  else if 4 ≤ s.wd.records then raise (s.bump wdPg 0x50 31 0) wdPg 11 (wdInfo list flow src)
  else
    let bytes := bytesLE 8 (s.gval 0) ++ [event, list, src, flow] ++ bytesLE 2 seq ++ [urg, 0]
    let s : State := s.withWd { s.wd with records := s.wd.records + 1, held := s.wd.held ++ [bytes] }
    putRecords s.wd.held.length s

/-- FLOW of a record: 0xFF for none. -/
def flowByte (f : Nat) : Nat := if f < 16 then f else 0xff

/-- A post, release or expiry first finds no room (R430); later findings of the same wait record nothing. True where it
is the first. -/
def waitOnce (s : State) (key src list flow seq : Nat) : Bool × State :=
  if s.wd.waits.contains key then (false, s)
  else (true, traceWd (s.withWd { s.wd with waits := key :: s.wd.waits }) 7 list src (flowByte flow) seq 0)

/-- The wait is over. -/
def waitOver (s : State) (key : Nat) : State :=
  s.withWd { s.wd with waits := s.wd.waits.filter (fun x => x != key) }

/-! ### Posts (R420-R423) -/

/-- A post that R421 refuses; R428 refuses one to a draining list. -/
def State.postBad (s : State) (i : WorkItem) : Bool :=
  fld i.w2.toNat 7 7 != 0 || fld i.w2.toNat 15 13 != 0 || fld i.w3.toNat 15 2 != 0 ||
    (decide (16 ≤ i.flow) && i.flow != 31) || (i.thread && i.flow != 31) ||
    s.f wdPg (0x200 + 4 * i.list) 12 0 == 0 || (i.delay != 0 && (!s.dlyEn i.dlist || s.draining i.dlist))

/-- There is room for an item that is not refused (R422). -/
def State.postRoom (s : State) (i : WorkItem) : Bool :=
  s.poolFree != 0 &&
    (i.delay != 0 || !s.listFull i.list && (i.flow == 31 || decide (s.flowOut i.flow < 64)))

/-- Put an item into its ready list, and into its flow with the flow's next SEQ (R423). The item as placed, too. -/
def enterList (s : State) (i : WorkItem) : WorkItem × State :=
  let (i, s) :=
    if i.flow < 16 then
      let n := (s.flowNext i.flow + s.flowOut i.flow) % 65536
      (i.withSeq n, s.setF wdPg (0x500 + 4 * i.flow) 6 0 (s.flowOut i.flow + 1))
    else (i.withSeq 0, s)
  (i, s.setWdList i.list (s.wdList i.list ++ [(i, s.ticks)]))

/-- Insert into a delay list by due tick, after equal ones (R428); due ticks are compared as signed differences. -/
def insertDue (l : List (Nat × WorkItem)) (due : Nat) (i : WorkItem) : List (Nat × WorkItem) :=
  match l with
  | [] => [(due, i)]
  | (d, j) :: r => if reached32 due d then (d, j) :: insertDue r due i else (due, i) :: (d, j) :: r

/-- Place an item that has room, with the SEQ it took (R422, R423, R428). -/
def placeItem (s : State) (i : WorkItem) : WorkItem × State :=
  if i.delay = 0 then enterList s i
  else
    let due := ((s.reg wdPg (0x410 + 0x20 * i.dlist)).toNat + i.delay) % 2 ^ 32
    let i := i.withSeq 0
    (i, s.setWdDelay i.dlist (insertDue (s.wdDelay i.dlist) due i))

/-- The head urgency that a record of a placed item gives. -/
def State.placedUrgency (s : State) (i : WorkItem) : Nat := if i.delay = 0 then s.urgency i.list else 0

/-- A refusal (R421). -/
def postRefused (s : State) (src : Nat) (i : WorkItem) : State :=
  let s := raise s wdPg 8 (wdInfo i.list i.flow src)
  traceWd s 8 i.list src (flowByte i.flow) 0 0

/-- What trying a post comes to: refused or placed (done), or still waiting. -/
def tryPost (s : State) (src key : Nat) (i : WorkItem) : Bool × State :=
  if s.postBad i then (true, waitOver (postRefused s src i) key)
  else if s.postRoom i then
    let (i, s) := placeItem s i
    (true, waitOver (traceWd s 1 i.list src (flowByte i.flow) i.seq (s.placedUrgency i)) key)
  else (false, (waitOnce s key src i.list i.flow 0).2)

/-! ### Idle cores, dispatch and preemption (R425, R429) -/

/-- Core c is idle (R425). -/
def State.coreIdle (s : State) (c : Nat) : Bool :=
  s.on (ccPg c) && s.f (ccPg c) 0x80 0 0 == 1 && s.f (ccPg c) 0x80 1 1 == 0 && !s.ccSts c 1 && !s.ccSts c 2

/-- A ready list names a core (WD_LIST_CFG.CORES). -/
def State.listNames (s : State) (l c : Nat) : Bool := (s.f wdPg (0x100 + 4 * l) 23 16).testBit c

/-- The element of least measure, the first among equals. -/
def leastBy (f : Nat → Nat) (l : List Nat) : Option Nat :=
  l.foldl (fun m x => match m with
    | none => some x
    | some y => if f x < f y then some x else some y) none

/-- The core that a list's head asks to preempt (R429). -/
def State.preemptBy (s : State) (l : Nat) : Option Nat :=
  if (s.wdList l).isEmpty || (List.range 8).any (fun c => s.listNames l c && s.coreIdle c) then none
  else
    match leastBy (fun c => s.f (ccPg c) 0x80 13 8)
        ((List.range 8).filter (fun c => s.listNames l c && s.f (ccPg c) 0x80 1 1 == 1)) with
    | some c => if s.f (ccPg c) 0x80 13 8 < s.urgency l then some c else none
    | none => none

/-- Source 34 of each core follows its conditions (R429); a rise is recorded. -/
def settlePreempt (s : State) : State :=
  if s.wd.preempt = 0 ∧ s.wd.lists = [] then s
  else
    let asks := (List.range 64).filterMap (fun l => (s.preemptBy l).map (fun c => (c, l)))
    let old := s.wd.preempt
    let new := asks.foldl (fun acc e => acc ||| BitVec.ofNat 8 (2 ^ e.1)) 0
    let s : State := s.withWd { s.wd with preempt := new }
    (List.range 8).foldl (fun s c =>
      if new.getLsbD c && !old.getLsbD c then
        match asks.find? (fun e => e.1 == c) with
        | some (_, l) => traceWd s 6 l c 0xff 0 (s.urgency l)
        | none => s
      else s) s

/-- The actions of one period come in the order of R423, each at most once: place 2k the tick of delay list k and 2k + 1 its
drain, from 8 the flows, 24 the host's window, from 25 the windows of the cores, from 33 their result slots, 41 the dispatch
decision. An action is
taken on a dispatcher that is ON, and only where its place has not been passed in the period in hand.
DEDUCED (log 44; safe). -/
def State.mayAct (s : State) (place : Nat) : Bool := s.on wdPg && decide (s.wd.turn ≤ place)

/-- Take the action of a place, and go on behind it. -/
def inTurn (s : State) (place : Nat) (act : State → State) : State :=
  if s.mayAct place then act (s.withWd { s.wd with turn := place + 1 }) else s

/-- The place of a placement in that order. -/
def placeOf : PlaceFrom → Nat
  | .window .host => 24
  | .window (.core c) => 25 + c
  | .slot c => 33 + c

/-- DISPATCH (R425): one decision. A head placed in this period waits for the next (R423). -/
def dispatchOne (s : State) : State :=
    let ready := (List.range 64).filter (fun l =>
      (match s.wdList l with
        | [] => false
        | (_, t) :: _ => decide (t < s.ticks)) &&
      (List.range 8).any (fun c => s.listNames l c && s.coreIdle c))
    match leastBy (fun l => 63 - s.urgency l) ready with
    | none => s
    | some l =>
      match s.wdList l, (List.range 8).find? (fun c => s.listNames l c && s.coreIdle c) with
      | (i, _) :: rest, some c =>
        let u := s.urgency l
        let s := s.setWdList l rest
        let p := ccPg c
        let s := ((s.setReg p 0x90 i.w0).setReg p 0x94 i.w1).setReg p 0x98 i.w2
        let s := (s.setReg p 0x9c i.w3).setCcSts c 1 true
        settlePreempt (traceWd s 2 l c (flowByte i.flow) i.seq u)
      | _, _ => s
def dispatch (s : State) : State := inTurn s 41 dispatchOne

/-! ### Post windows -/

/-- BUSY of a post window (R420): none where there is no such window. -/
def windowBusy (s : State) (w : PostWindow) : Bool :=
  match w with
  | .host => s.f wdPg 0x70 0 0 == 1
  | .core c => s.ccSts c 3

def setBusy (s : State) (w : PostWindow) (b : Bool) : State :=
  match w with
  | .host => s.setF wdPg 0x70 0 0 (bit b)
  | .core c => s.setCcSts c 3 b

/-- A window's item, its source code, and the page that holds it. -/
def windowItem (s : State) (w : PostWindow) : WorkItem :=
  match w with
  | .host => s.itemAt wdPg 0x60
  | .core c => s.itemAt (ccPg c) 0xa0
def windowSrc : PostWindow → Nat
  | .host => srcHost
  | .core c => c
def windowPage : PostWindow → PageId
  | .host => wdPg
  | .core c => ccPg c

/-- A write to word 3 has committed the window (R420): refused at once under R421, or it waits with BUSY 1. -/
def commitPost (s : State) (w : PostWindow) : State :=
  let i := windowItem s w
  if s.on wdPg && s.postBad i then postRefused s (windowSrc w) i else setBusy s w true

/-- A core's result slot (R426). -/
def State.resultSlot (s : State) (c : Nat) : Option WorkItem := Tab.get (fun _ => none) s.wd.slots c

/-- Set a core's result slot; RESULT_WAIT and RESULT_BUSY show it. -/
def setSlot (s : State) (c : Nat) (i : Option WorkItem) : State :=
  let s := (s.setCcSts c 2 i.isSome).setCcSts c 4 i.isSome
  s.withWd { s.wd with slots := Tab.set (fun _ => none) s.wd.slots c i }

/-- Try to post what a core's result slot holds (R426). -/
def trySlot (s : State) (c : Nat) : State :=
  match s.resultSlot c with
  | some i =>
    let (ok, s) := tryPost s c (48 + c) i
    if ok then setSlot s c none else s
  | none => s

/-- Try to place the waiting post of a window (R422). -/
def tryWindow (s : State) (w : PostWindow) : State :=
  if windowBusy s w then
    let (ok, s) := tryPost s (windowSrc w) (windowSrc w) (windowItem s w)
    if ok then setBusy s w false else s
  else s

/-- POST_PLACE (R422, R426): what waits in a window, or in the result slot of a core. -/
def postPlace (s : State) (p : PlaceFrom) : State :=
  inTurn s (placeOf p) (fun s => settlePreempt (match p with
    | .window w => tryWindow s w
    | .slot c => trySlot s c))

/-! ### Completion, flows and delay lists (R426-R428) -/

/-- An outcome goes to a flow's reorder buffer. -/
def putOutcome (s : State) (f n c : Nat) (r : Option WorkItem) : State :=
  s.withWd { s.wd with reorder := Tab.set (fun _ => none) s.wd.reorder (f * 65536 + n) (some (c, r)) }

/-- The core holds its item no more. -/
def dropHeld (s : State) (c : Nat) : State :=
  (List.range 4).foldl (fun s i => s.setReg (ccPg c) (0x90 + 4 * i) 0) (s.setCcSts c 1 false)

/-- A write to CC_WD_DONE (R426). A result that R421 refuses is refused at once, as a post is. -/
def wdDone (s : State) (c v : Nat) : State :=
  if !s.ccSts c 1 then raise s (ccPg c) bSeqFail 0
  else if v % 2 = 0 then s
  else
    let i := s.itemAt (ccPg c) 0x90
    let result := if v / 2 % 2 = 1 then some (s.itemAt (ccPg c) 0xb0) else none
    let s := if v / 4 % 2 = 1 then s.setF (ccPg c) 0x80 1 1 1 else s
    let s := dropHeld s c
    let s := traceWd s 3 i.list c (flowByte i.flow) i.seq 0
    let s :=
      if i.flow < 16 then putOutcome s i.flow i.seq c result
      else match result with
        | some r => if s.on wdPg && s.postBad r then postRefused s c r else setSlot s c (some r)
        | none => s
    settlePreempt s

/-- An item held when the core halts is discarded (R413, R427). -/
def itemLost (s : State) (c : Nat) : State :=
  if s.ccSts c 1 then
    let i := s.itemAt (ccPg c) 0x90
    let s := dropHeld s c
    let s := raise s wdPg 9 (wdInfo i.list i.flow c)
    let s := traceWd s 9 i.list c (flowByte i.flow) i.seq 0
    if i.flow < 16 then putOutcome s i.flow i.seq c none else s
  else s

/-- FLOW_RELEASE (R427): the outcome of the flow's next SEQ. -/
def releaseNext (f : Nat) (s : State) : State :=
  let n := s.flowNext f
  match Tab.get (fun _ => none) s.wd.reorder (f * 65536 + n) with
  | some (c, r) =>
    let release := fun (s : State) (list urg : Nat) =>
      let s : State := s.withWd { s.wd with reorder := Tab.set (fun _ => none) s.wd.reorder (f * 65536 + n) none }
      let s := (s.setF wdPg (0x500 + 4 * f) 23 8 (n + 1)).setF wdPg (0x500 + 4 * f) 6 0 (s.flowOut f - 1)
      settlePreempt (traceWd (waitOver s (16 + f)) 4 list c f n urg)
    match r with
    | none => release s 0xff 0
    | some i =>
      if s.postBad i then release (postRefused s c i) 0xff 0
      else if s.postRoom i then
        let (i, s) := placeItem s i
        release s i.list (s.placedUrgency i)
      else
        let (first, s) := waitOnce s (16 + f) c i.list f n
        if first then raise s wdPg 12 (wdInfo i.list f c) else s
  | none => s
def flowRelease (s : State) (f : Nat) : State := if f < 16 then inTurn s (8 + f) (releaseNext f) else s

/-- The head of a delay list moves to its ready list and flow, if there is room (R428). -/
def expireHead (s : State) (k : Nat) : State :=
  match s.wdDelay k with
  | [] => s
  | (_, i) :: rest =>
    if s.poolFree == 0 || s.listFull i.list || (decide (i.flow < 16) && decide (64 ≤ s.flowOut i.flow)) then
      let (first, s) := waitOnce s (32 + k) srcDispatcher i.list i.flow 0
      if first then raise s wdPg 10 (wdInfo i.list i.flow srcDispatcher) else s
    else
      let s := waitOver (s.setWdDelay k rest) (32 + k)
      let (i, s) := enterList s i
      settlePreempt (traceWd s 5 i.list srcDispatcher (flowByte i.flow) i.seq (s.urgency i.list))

/-- The next tick time X of a delay list. -/
def State.nextX (s : State) (k : Nat) : Nat := (Tab.get (zeroAt 64) s.wd.nextX k).toNat

def setNextX (s : State) (k v : Nat) : State :=
  s.withWd { s.wd with nextX := Tab.set (zeroAt 64) s.wd.nextX k (BitVec.ofNat 64 v) }

/-- DELAY_TICK (R428): a tick where X is due, and the head where it is due; a list that drains moves its one item of the
period in its drain. -/
def delayStep (k : Nat) (s : State) : State :=
  if !s.dlyEn k then s
  else
    let g := s.f wdPg (0x400 + 0x20 * k) 3 0
    let o := 0x410 + 0x20 * k
    let s :=
      if s.gauOn g && reached64 (s.gval g) (s.nextX k) then
        setNextX (s.setReg wdPg o (s.reg wdPg o + 1)) k (s.nextX k + s.reg64 wdPg (0x408 + 0x20 * k))
      else s
    match s.wdDelay k with
    | (due, _) :: _ => if !s.draining k && reached32 (s.reg wdPg o).toNat due then expireHead s k else s
    | [] => s

def delayTick (s : State) (k : Nat) : State := if k < 4 then inTurn s (2 * k) (delayStep k) else s

/-- DELAY_LIST_DRAIN (R428): a list that drains moves one item in a period. -/
def delayDrain (s : State) (k : Nat) : State :=
  if decide (k < 4) && s.draining k then inTurn s (2 * k + 1) (fun s => expireHead s k) else s

/-- An effect of a write of WD_DLY_CFG that reaches EN (R428): EN = 0 drains the list, EN = 1 starts its ticks. A list
that drains goes on to do so. -/
def delayWritten (s : State) (k : Nat) : State :=
  if !s.dlyEn k then
    if s.wdDelay k = [] then s else s.setF wdPg (0x400 + 0x20 * k) 9 9 1
  else
    setNextX (s.setReg wdPg (0x410 + 0x20 * k) 0) k
      (s.gval (s.f wdPg (0x400 + 0x20 * k) 3 0) + s.reg64 wdPg (0x408 + 0x20 * k))

/-! ### The commands -/

def execDispatch (s : State) := done (dispatch s)
def execPostPlace (p : PlaceFrom) (s : State) := done (postPlace s p)
def execFlowRelease (f : Nat) (s : State) := done (flowRelease s f)
def execDelayTick (k : Nat) (s : State) := done (delayTick s k)
def execDelayListDrain (k : Nat) (s : State) := done (delayDrain s k)
/-- LIST_HEAD_AGING (R429). -/
def execListHeadAging (_l : Nat) (s : State) := done (if s.on wdPg then settlePreempt s else s)

end Sys2Proof.Machine
end

