-- ==== Sys2Proof/Machine/Pages.lean ====
section
/-! DEFINITION. The page state machine (R38-R41, R547): start and stop sequences of every page type, with what each does
in its block. -/
namespace Sys2Proof.Machine

/-- The die of a die page. -/
def pageDie (p : PageId) : Nat := p.inst / 1024

/-- A start sequence begins: STARTING. A DIE_ page trains its links (R129); the CYC_ page leaves OFF (R312), in
vain where a full image is being committed (R242). -/
def beginStart (s : State) (p : PageId) : State :=
  let s := s.setSt p stStarting
  match p.ty with
  | .die => beginTraining s (pageDie p)
  | .cyc => cycChanged (s.withCyc { s.cyc with noImage := s.ldSt == ldCommit && !s.imageCommitted })
  | _ => s

/-- What a page's block does as its stop sequence begins: the page is ON no more. -/
def blockStops (s : State) (p : PageId) : State :=
  match p.ty with
  | .die => untrain s (pageDie p)
  | .ldr => ldrStops s
  | .bnd => bndStops s p.inst
  | .ln => laneStops s p.inst
  | .pin => portStops s p.inst
  | .cc => settlePreempt (s.setF p 0x80 0 0 0)
  | .mq => queueStops s (pageDie p) (p.inst % 1024)
  | _ => s

/-- A stop sequence begins: STOPPING. -/
def beginStop (s : State) (p : PageId) : State := blockStops (s.setSt p stStopping) p

/-- The page enters ON, and stops again at once where EN is 0 by now (R40). -/
def restOn (s : State) (p : PageId) : State := if s.en p then s else beginStop s p

/-- The page enters OFF, and starts again at once where EN is 1 (R40). -/
def restOff (s : State) (p : PageId) : State := if s.en p then beginStart s p else s

/-- A start sequence has failed (R41): OFF and SEQ_FAIL with a reason; EN stays, and the page rests. -/
def startFails (s : State) (p : PageId) (info : Nat) : State :=
  let s := raise (s.setSt p stOff) p bSeqFail info
  match p.ty with
  | .cyc => cycChanged s
  | .die => untrain s (pageDie p)
  | _ => s

/-- What a page's block does as the page enters ON. -/
def blockStarts (s : State) (p : PageId) : State :=
  match p.ty with
  | .bnd => bndStarts s p.inst
  | .ln => laneStarts s p.inst
  | .pin => portStarts s p.inst
  | .cc => settlePreempt (coreStart s p.inst)
  | _ => s

/-- The start sequence of a page can end in ON: a DIE_ page's links have trained, a DVT_ page's DIE_ page is ON (R143),
a bank has a supply (R442). -/
def State.startWaits (s : State) (p : PageId) : Bool :=
  match p.ty with
  | .die => (List.range 4).any (fun m => s.modTrains (pageDie p) m)
  | .dvt => !s.on (diePg (pageDie p))
  | _ => false
def State.startBad (s : State) (p : PageId) : Bool :=
  match p.ty with
  | .pin => s.f p 0x40 1 0 == 0
  | _ => false

/-- CYC_START_CHECKS (R177, R392). -/
def cycStartChecks (s : State) (timeout : Bool) : State :=
  if s.st cycPg ≠ stStarting ∨ s.stepRuns = false ∨ s.snapBusy = true ∨ (s.pagesReady = false ∧ timeout = false) then s
  else
    let r := s.startReason
    if r ≠ 0 then startFails s cycPg r else restOn (cycStarted s) cycPg

/-- START_SEQUENCE_END (R38): a start sequence ends, in ON or in failure. The CYC_ page ends its own by its checks.
DESIGN CHOICE (log 41; safe). -/
def startSequenceEnd (s : State) (p : PageId) (ok : Bool) : State :=
  if !pageExists p || s.st p != stStarting then s
  else if p.ty = .cyc then cycStartChecks s false
  else if !ok || s.startBad p then startFails s p 0
  else if s.startWaits p then s
  else restOn (blockStarts (s.setSt p stOn) p) p

/-- A release vote that holds no cause so far, for a release point still to come (R158, R160).
DEDUCED (log 21; unsafe). -/
def State.releaseDue (s : State) : Bool := s.cyc.rounds.any (fun r => r.heard == 0 && decide (s.cyc.csc ≤ r.rel))

/-- What the stop of a page waits for (R547): a load's commit or drain, writes that a queue holds, the boundary at which
the Cabinet holds, a release vote that may yet end the hold resolved (R158, R179), the end of the item that a core holds
(R413).
DEDUCED (log 21; unsafe). -/
def State.stopWaits (s : State) (p : PageId) : Bool :=
  match p.ty with
  | .ldr => s.ldSt != ldIdle
  | .mq => !(s.queue (pageDie p) (p.inst % 1024)).held.isEmpty
  | .cyc => s.executing || s.releaseDue
  | .cc => s.ccSts p.inst 1
  | _ => false

/-- What a page's block does as the page enters OFF: an unbound Panel loses its stores (R500): one
that a commit has bound meanwhile keeps what the loader wrote (R121); a core halts (R413).
DESIGN CHOICE (log 18; unsafe). -/
def blockOff (s : State) (p : PageId) : State :=
  match p.ty with
  | .pnl => if s.f p 0x40 31 31 = 1 then s else s.setPanel (pageDie p) (p.inst % 1024) Panel.empty
  | .mq => queueStops s (pageDie p) (p.inst % 1024)
  | .cc => settlePreempt ((itemLost (orphan s p.inst) p.inst).setCcSts p.inst 0 false)
  | .cyc => cycChanged (cycStopped s)
  | _ => s

/-- A stop sequence ends in OFF (R38), or fails (R41): OFF too, with SEQ_FAIL. -/
def stopped (s : State) (p : PageId) (ok : Bool) : State :=
  let t := blockOff (s.setSt p stOff) p
  if ok then t else raise t p bSeqFail 0

/-- STOP_SEQUENCE_END (R38, R41): the wait of a CC_ page runs out with its 100 µs (R413). -/
def stopSequenceEnd (s : State) (p : PageId) (ok timeUp : Bool) : State :=
  if !pageExists p || s.st p != stStopping || (s.stopWaits p && !(p.ty == .cc && timeUp)) then s
  else restOff (stopped s p ok) p

/-- EN of a page has been written (R40): a change starts an OFF page or stops an ON one. -/
def enWritten (s : State) (p : PageId) (old : Bool) : State :=
  if s.en p = old then s
  else if s.st p = stOff ∧ s.en p = true then beginStart s p
  else if s.st p = stOn ∧ s.en p = false then beginStop s p
  else s

/-! ### The commands -/

/-- DESIGN CHOICE (log 11; safe). -/
def execStartSequenceEnd (p : PageId) (ok : Bool) (s : State) := done (startSequenceEnd s p ok)
/-- DESIGN CHOICE (log 11; safe). -/
def execStopSequenceEnd (e : StopEnd) (s : State) := done (stopSequenceEnd s e.page e.ok e.timeUp)
/-- DVT_START_COMPLETE (R143). -/
def execDvtStartComplete (die : Nat) (s : State) := done (startSequenceEnd s (dvtPg die) true)
def execCycStartChecks (timeout : Bool) (s : State) := done (cycStartChecks s timeout)
/-- CYC_STOP (R179). -/
def execCycStop (s : State) := done (stopSequenceEnd s cycPg true false)

end Sys2Proof.Machine
end

