-- ==== Sys2Proof/Machine/Reset.lean ====
section
/-! DEFINITION. Resets, start-up, the Drawer and Panel repair (R512-R530). -/
namespace Sys2Proof.Machine

def drwPg : PageId := ⟨.drw, 0⟩
def rprPg : PageId := ⟨.rpr, 0⟩
def pwrPg : PageId := ⟨.pwr, 0⟩
def thmPg : PageId := ⟨.thm, 0⟩
def hstPg : PageId := ⟨.hst, 0⟩

/-! ### Snapshots (R519-R522) -/

/-- The pages in the order of the snapshot's slots. -/
def pageSlots : List PageId :=
  hubTypes.flatMap (fun t => (instancesOf t).map (fun i => ⟨t, i⟩)) ++
    (List.range 4).flatMap (fun d =>
      dieTypes.flatMap (fun t => ((instancesOf t).filter (fun i => i / 1024 == d)).map (fun i => ⟨t, i⟩)))

/-- The register offset of a slot's word. -/
def slotOffset (w : Nat) : Nat := if w = 0 then 0x08 else if w = 1 then 0x14 else if w = 2 then 0x24 else 0x40 + 4 * (w - 3)

/-- The word of a slot that records an offset. -/
def slotWord (off : Nat) : Option Nat :=
  if off = 0x08 then some 0 else if off = 0x14 then some 1 else if off = 0x24 then some 2
  else if 0x40 ≤ off ∧ off < 0xc0 then some (3 + (off - 0x40) / 4) else none

/-- The factory value of a snapshot word, slot * 35 + word. -/
def snapDefault (k : Nat) : Word :=
  match pageSlots[k / 35]? with
  | some p => regReset p.ty p.inst (slotOffset (k % 35)) &&& retainedBits p.ty p.inst (slotOffset (k % 35))
  | none => 0

/-- The number of a page's slot. -/
def slotOf (p : PageId) : Nat := pageSlots.findIdx (fun q => q == p)

/-- Every retained register of every page (R520). -/
def captureWords (s : State) : Tab Word :=
  s.regs.foldl (fun t e =>
    match keyReg e.1 with
    | some (p, off) =>
      match slotWord off with
      | some w =>
        let bits := retainedBits p.ty p.inst off
        if bits = 0 then t else Tab.set snapDefault t (slotOf p * 35 + w) (e.2 &&& bits)
      | none => t
    | none => t) []

/-- Retained registers take their recorded values (R37). -/
def restoreWords (s : State) (t : Tab Word) : State :=
  t.foldl (fun s e =>
    match pageSlots[e.1 / 35]? with
    | some p =>
      let off := slotOffset (e.1 % 35)
      let bits := retainedBits p.ty p.inst off
      s.setReg p off ((regReset p.ty p.inst off &&& ~~~bits) ||| (e.2 &&& bits))
    | none => s) s

/-- The snapshot that start-up chooses (R522): its words, and 0 for the working one, 1 for the factory one, 2 where both
fail. -/
def Drawer.choose (d : Drawer) : Tab Word × Nat :=
  if d.working.good then (d.working.words, 0) else if d.factory.good then (d.factory.words, 1) else ([], 2)

/-- The value that a page's register takes from the chosen snapshot and the register tables (R37). At a page reset (R46)
the snapshot is the one that a start-up would choose now, so a later commit counts.
DESIGN CHOICE (log 43; unsafe). -/
def State.restored (s : State) (p : PageId) (off : Nat) : Word :=
  match slotWord off with
  | some w =>
    let bits := retainedBits p.ty p.inst off
    (regReset p.ty p.inst off &&& ~~~bits) |||
      (Tab.get snapDefault s.drw.choose.1 (slotOf p * 35 + w) &&& bits)
  | none => regReset p.ty p.inst off

/-- DRAWER_COMMIT (R520, R521): the buffer takes the registers as they stand, and again at the end of the period. -/
def drawerCommit (s : State) : State :=
  if s.f drwPg 0x44 0 0 = 1 then raise s drwPg 11 1
  else if s.f drwPg 0x40 8 8 = 1 then raise s drwPg 11 2
  else (s.setF drwPg 0x44 0 0 1).withDrw { s.drw with buffer := some (captureWords s), fresh := true }

/-- The reference-clock period of a COMMIT ends: the buffer holds the writes that completed in it, too (R520). -/
def drawerSettles (s : State) : State :=
  if s.drw.fresh then s.withDrw { s.drw with buffer := s.drw.buffer.map (fun _ => captureWords s), fresh := false } else s

/-- DRAWER_COMMIT_END (R520). -/
def drawerCommitEnd (s : State) (ok : Bool) : State :=
  let s := drawerSettles s
  match s.drw.buffer with
  | none => s
  | some t =>
    let s := s.setF drwPg 0x44 0 0 0
    let s : State := s.withDrw { s.drw with buffer := none, working := ⟨ok, s.drw.working.commits + 1, t⟩ }
    if ok then raise (s.setF drwPg 0x44 3 3 1) drwPg 10 0 else raise (s.setF drwPg 0x44 3 3 0) drwPg 11 3

/-- A reset or a loss of power during a commit leaves the working snapshot failing its CRC (R521). -/
def Drawer.cut (d : Drawer) : Drawer :=
  if d.buffer.isSome then { d with buffer := none, fresh := false, working := { d.working with good := false } } else d

/-! ### The Drawer window (R517, R518) -/

/-- The slot bytes of a snapshot. -/
def slotBytes (t : Tab Word) : List Nat := (List.range (732 * 35)).flatMap (fun k => bytesLE 4 (Tab.get snapDefault t k).toNat)

/-- A byte of a snapshot area, by its offset in the area; `base` is the area's place in the Drawer. -/
def snapByte (x : Snapshot) (base i : Nat) : Nat :=
  if !x.good then (Config.tornByte (base + i)).toNat
  else if i < 16 then
    (bytesLE 4 0x44525753 ++ bytesLE 2 1 ++ bytesLE 2 732 ++ bytesLE 4 (crcBits (8 * 102480) (numLE (slotBytes x.words))) ++
      bytesLE 4 x.commits.toNat).getD i 0
  else if i < 16 + 102480 then (bytesLE 4 (Tab.get snapDefault x.words ((i - 16) / 4)).toNat).getD (i % 4) 0
  else 0

/-- The reason bytes of the repair map, in order. -/
def Drawer.reasonBytes (d : Drawer) : List Nat := (List.range 528).map (fun k => (Tab.get (zeroAt 8) d.reasons k).toNat)

/-- A byte of the repair map (R528). -/
def mapByte (d : Drawer) (i : Nat) : Nat :=
  if !d.mapGood then (Config.tornByte (0x50000 + i)).toNat
  else if i < 16 then
    (bytesLE 4 0x52504D50 ++ bytesLE 2 1 ++ [0, 0] ++ bytesLE 4 (crcBits (8 * 528) (numLE d.reasonBytes)) ++
      bytesLE 4 d.mapWrites.toNat).getD i 0
  else if i < 544 then (Tab.get (zeroAt 8) d.reasons (i - 16)).toNat
  else 0

/-- A byte of the Drawer (R517). -/
def State.drawerShows (s : State) (a : Nat) : Nat :=
  if a < 0x10000 then (bytesLE 8 s.drw.serial.toNat ++ bytesLE 4 0x7264).getD a 0
  else if a < 0x30000 then snapByte s.drw.factory 0x10000 (a - 0x10000)
  else if a < 0x50000 then snapByte s.drw.working 0x30000 (a - 0x30000)
  else if a < 0x51000 then mapByte s.drw (a - 0x50000)
  else s.drawerByte a

/-- The Drawer offset that an offset of the window names. -/
def State.windowAddr (s : State) (off : Nat) : Nat := s.f drwPg 0x60 11 0 * 2048 + (off - 0x800)

/-- The lane equalization table, and the user area (R517). -/
def drawerWritable (a : Nat) : Bool :=
  decide (0x51000 ≤ a) && decide (a < 0x51370) || decide (0x60000 ≤ a) && decide (a < 0x800000)

/-- DRAWER_WINDOW_WRITE (R518): the enabled bytes of a word of the window. -/
def drawerWindow (s : State) (rq : Requester) (off : Nat) (be : BitVec 4) (v : Word) : State :=
  if be = 0 then s
  else
    let a := s.windowAddr off
    if drawerWritable a then
      s.withDrw { s.drw with
        bytes := (List.range 4).foldl (fun t i =>
          if be.getLsbD i then Tab.set (zeroAt 8) t (a + i) (BitVec.ofNat 8 (fld v.toNat (8 * i + 7) (8 * i))) else t)
          s.drw.bytes }
    else raise s drwPg 12 (rqCode rq * 2 ^ 20 + a / 8 % 2 ^ 20)

/-! ### Repair (R523-R528) -/

/-- MARK (R525, R530): a write of 1 to RPR_CMD.MARK. -/
def firmwareMark (s : State) (die panel : Nat) : State :=
  if 131 < panel then raise s rprPg 12 (5 * 2 ^ 20 + die * 2 ^ 8 + panel) else markPanel s die panel 5

/-- The Panels in a state of the repair map, as die and number. -/
def State.panelsWith (_s : State) (p : Nat → Nat → Bool) : List (Nat × Nat) :=
  (List.range 528).filterMap (fun k => if p (k / 132) (k % 132) then some (k / 132, k % 132) else none)

/-- A retired Panel's page takes LOCK = 1 and EN = 0 (R48). -/
def lockRetired (s : State) (die panel : Nat) : State :=
  (s.setF (pnlPg die panel) 0x08 2 2 1).setF (pnlPg die panel) 0x08 0 0 0

/-- Every marked Panel becomes retired, and the map is written once (R527). -/
def retireMarks (s : State) : State :=
  let m := s.panelsWith s.marked
  if m = [] then s
  else
    let s := m.foldl (fun s dp => s.setReason dp.1 dp.2 ((s.reason dp.1 dp.2 &&& 0x0f) ||| 0x80)) s
    s.withDrw { s.drw with mapWrites := s.drw.mapWrites + 1 }

/-- The retirement events of a list of Panels, in the order of R43. -/
def retiredEvents (s : State) (m : List (Nat × Nat)) : State :=
  raiseAll s rprPg (m.map (fun dp => (9, fld (s.reason dp.1 dp.2).toNat 3 0 * 2 ^ 20 + dp.1 * 2 ^ 8 + dp.2)))

/-- BIST (R524): Panels that it tests and that fail are retired with reason BIST; with RETEST, Panels retired for another
reason are tested, too, and one that passes is good again. The map is written where it changes, or where it is rebuilt (R528). -/
def bist (s : State) (fails : List (Nat × Nat)) (retest rebuilt : Bool) : State :=
  let t := (s.panelsWith (fun d p => fails.contains (d, p) && (retest || !s.retired d p))).foldl
    (fun s dp => s.setReason dp.1 dp.2 0x81) s
  let t := (s.panelsWith (fun d p => retest && s.retired d p && !fails.contains (d, p) &&
      fld (s.reason d p).toNat 3 0 != 1)).foldl (fun s dp => s.setReason dp.1 dp.2 0) t
  if t.drw.reasons = s.drw.reasons ∧ rebuilt = false then t
  else t.withDrw { t.drw with mapWrites := t.drw.mapWrites + 1 }

/-! ### Start-up (R515, R516) -/

/-- What a reset finds: 1 power-on from Off, 2 wake from Dormant, 3 warm by DRW_RST, 4 warm by WARM_RST (R529). -/
def isWarm (cause : Nat) : Bool := cause == 3 || cause == 4

/-- The answers to host requests that still wait for a response buffer when the device is reset: a read is an Unsupported
Request (R514). -/
def waitingAnswered (s : State) : List OutMsg :=
  s.hst.waits.filterMap (fun r => match r with
    | .bar0 op _ _ _ => if op.wr then none else some (s.tlp (.completion 1 []))
    | .read _ _ _ _ _ => some (s.tlp (.completion 1 []))
    | .write _ _ _ _ => none)

/-- What every power-on and warm reset leaves before registers are restored (R513).
DESIGN CHOICE (log 18; unsafe). -/
def bareReset (s : State) (cause : Nat) : State :=
  let warm := isWarm cause
  let r := State.reset
  { r with
    pending := s.pending
    out := if cause = 1 then s.out else waitingAnswered s ++ s.out
    free := s.free
    drw := s.drw.cut
    hbm := if warm then s.hbm else []
    hbmUe := if warm then s.hbmUe else []
    ldr := { r.ldr with fuses := s.ldr.fuses, retired := s.ldr.retired, batt := s.ldr.batt, tamper := s.ldr.tamper }
    cores := if warm then Tab.mapAll (fun _ => Core.empty)
      (fun _ k => { Core.empty with sram := k.sram, sramErr := k.sramErr }) s.cores else []
    shared := if warm then s.shared else []
    sharedErr := if warm then s.sharedErr else []
    pins := { r.pins with tgt := s.pins.tgt }
    hst := if cause = 1 then r.hst else { s.hst with conds := 0, rearms := 0, flr := false, waits := [] }
    tap := if cause = 1 then r.tap else s.tap }

/-- Registers that a reset does not take from the tables or the Drawer: always-on records, the link's state, the reset's
cause, the snapshot's facts (R513, R529). -/
def statusAfterReset (s old : State) (cause req source : Nat) : State :=
  let s := if cause = 1 then s
    else
      let s := (s.setReg pwrPg 0x58 (old.reg pwrPg 0x58)).setReg thmPg 0x6c (old.reg thmPg 0x6c)
      s.setReg hstPg 0x44 (old.reg hstPg 0x44 &&& ~~~(0x10000 : Word))
  let s := s.setReg drwPg 0x50 (BitVec.ofNat 32 (cause + 16 * req))
  let s := s.setReg drwPg 0x44 (BitVec.ofNat 32 (bit (source != 0) * 2 + bit (source == 2) * 4))
  s.setReg drwPg 0x48 (if source = 0 then s.drw.working.commits else s.drw.factory.commits)

/-- A repair map that does not check is taken as blank (R528).
DEDUCED (log 40; unsafe). -/
def mapCured (s : State) : State := if s.drw.mapGood then s else s.withDrw { s.drw with mapGood := true, reasons := [] }

/-- Phases 2 to 8 of start-up (R515): BIST where it is due, the Drawer's words, the status, the step clock's frequency, which a
FOLLOW device does not take from its own setting (R313), and the retirements.
DEDUCED (log 40; unsafe). DEDUCED (log 45; unsafe). -/
def startPhases (s old : State) (cause req source : Nat) (words : Tab Word) (retest always rebuilt : Bool)
    (fails : List (Nat × Nat)) : State :=
  let s := if always then bist s fails retest rebuilt else s
  let marks := s.panelsWith s.marked
  let s := statusAfterReset (restoreWords (retireMarks s) words) old cause req source
  let s := if s.follows then s else s.withCyc { s.cyc with mhz := s.f pwrPg 0x48 10 0 }
  let s := (s.panelsWith s.retired).foldl (fun s dp => lockRetired s dp.1 dp.2) s
  retiredEvents s marks

/-- At a wake from Dormant the always-on domain goes on serving the host as in Dormant until the end of start-up (R492, R496,
R497): PWR_STS shows a transition from Dormant and the source of the wake; the wake enables and timer stand. -/
def asDormant (s old : State) : State :=
  let s := s.setReg pwrPg 0x44 (BitVec.ofNat 32 (4 + 8 + old.pwr.wake.getD 0 % 16 * 2 ^ 12))
  (s.setReg pwrPg 0x50 (old.reg pwrPg 0x50)).setReg pwrPg 0x54 (old.reg pwrPg 0x54)

/-- Power control in a start-up (R492, R499, R515). A warm reset within it leaves what its end is to report of the power-on. -/
def Power.starts (old : Power) (cause : Nat) (mapBad : Bool) : Power :=
  { State.reset.pwr with
    target := if cause = 2 then some 1 else none
    cause := if cause = 1 then 0 else old.cause
    fromOff := if cause = 1 then true else old.fromOff
    powered := !isWarm cause || old.powered
    mapBad := mapBad || old.mapBad }

/-- Phases 1 to 8 of start-up (R515): the state in which the end of start-up is still to come. -/
def startUp (old : State) (cause req : Nat) (f : StartupFindings) : State :=
  let s := bareReset old cause
  let words := s.drw.choose.1
  let source := s.drw.choose.2
  let rpr := Tab.get snapDefault words (slotOf rprPg * 35 + 6)
  let mapBad := !s.drw.mapGood
  let s := startPhases (mapCured s) old cause req source words (rpr.getLsbD 1)
    (!isWarm cause || mapBad || rpr.getLsbD 0) mapBad f.bistFails
  let s := s.withPwr (old.pwr.starts cause mapBad)
  if cause = 2 then asDormant s old else s

/-- What the end of start-up reports of the repair map, the Drawer and the battery slot (R220, R522, R528).
DEDUCED (log 26; unsafe). -/
def startReports (s : State) : State :=
  let s := if s.pwr.mapBad then raise s rprPg 11 0 else s
  let s := if s.f drwPg 0x44 1 1 = 1 then raise s drwPg 8 0 else s
  let s := if s.f drwPg 0x44 2 2 = 1 then raise s drwPg 9 0 else s
  if s.pwr.powered && s.ldr.tamper then raise (s.withLdr { s.ldr with tamper := false }) ldrPg 12 0 else s

/-- What it reports of the Dormant entry that start-up follows (R499, R508). -/
def wakeReports (s : State) : State :=
  let s := if 1 < s.pwr.cause then raise s pwrPg 11 s.pwr.cause else s
  if s.pwr.cause = 2 then raise s thmPg 10 ((s.reg thmPg 0x6c).toNat % 2 ^ 24) else s

/-- A warm reset (R512, R514): partners see the bundles leave UP. In Retain and Dormant nothing carries it. -/
def warmReset (s : State) (cause req : Nat) (f : StartupFindings) : State :=
  startUp s cause req f

/-- What BIST finds where the command that starts the reset does not tell it: a free value. -/
def drawnFindings (s : State) : StartupFindings :=
  ⟨((List.range 528).filter (fun k => (Config.bistFails s.free).getLsbD k)).map (fun k => (k / 132, k % 132))⟩

/-- DRW_RST (R512): the key starts a warm reset; another value sets SEQ_FAIL. -/
def drwRst (s : State) (rq : Requester) (v : Word) (f : Option StartupFindings) : State :=
  if v = 0x57525354 then
    match f with
    | some f => warmReset s 3 (rqCode rq) f
    | none => warmReset (s.withFree (s.free + 1)) 3 (rqCode rq) (drawnFindings s)
  else raise s drwPg bSeqFail 0

/-- A warm reset by the test port can begin: the device is not Off, and not in Retain or Dormant; in start-up it is in neither
(R512, R545). -/
def State.warmMay (s : State) : Bool := !s.pwr.off && (s.pwr.starting || decide (s.f pwrPg 0x44 2 0 < 3))

/-- WARM_RST of the test port (R512, R545). -/
def warmRst (s : State) (b : Bool) (f : StartupFindings) : State :=
  if b && s.warmMay then warmReset s 4 0xa f else s

/-! ### Page reset (R46) -/

/-- No seal runs on a stack. -/
def noSeal (s : State) (stack : Nat) : State :=
  s.withVnr { s.vnr with sealing := Tab.set (fun _ => none) s.vnr.sealing stack none }

/-- A stack's poison table is empty, as its VNR_POISON and POISONED bits show once they are reset (R268, R285). -/
def noPoison (s : State) (stack : Nat) : State :=
  s.withVnr { s.vnr with
    poison := s.vnr.poison.filter (fun e => e.1 != stack)
    whole := s.vnr.whole.filter (fun x => x / 16 != stack) }

/-- A port's pins have their after-reset functions in force; a switch pending at a locked pin still takes effect (R463, R464). -/
def keptSwitches (s : State) (p : Nat) : State :=
  s.withPins { s.pins with pendFn := s.pins.pendFn.filter (fun e => e.1 / 32 != p || s.pinLocked e.1) }

/-- What a page reset, or a reset of a page's registers, clears of its block beyond its registers. Pin configuration
frozen by a pin lock stays (R464). A memory queue's request bits and latched window belong to the execution and stay
(R82, R283). -/
def resetBlock (s : State) (p : PageId) : State :=
  match p.ty with
  | .pnl => s
  | .vnr => noSeal (noPoison (emptyAllKeys s) p.inst) p.inst
  | .gau => s.setGauge p.inst Gauge.empty
  | .trg => s.withTrg { State.reset.trg with g0 := s.trg.g0, gq := s.trg.gq, record := s.trg.record }
  | .cap => s.withCap State.reset.cap
  | .meas => s.setMeas p.inst Meas.empty
  | .trc => s.setTr p.inst TraceUnit.empty
  | .cc => settlePreempt (setSlot s p.inst none)
  | .wd => s.withWd State.reset.wd
  | .pin => keptSwitches (s.setPort p.inst { Port.empty with cap := (s.port p.inst).cap }) p.inst
  | .edl => edgeSources (s.withPins { s.pins with edl1 := 0, edl2 := 0, edl3 := 0, edl4 := 0, edlBad := 0 })
  | .bnd =>
    let b := s.bundle p.inst
    let s := if p.inst = 0 ∧ !s.follows then s.setF bnd0 0x80 9 8 1 else s
    s.setBundle p.inst
      { Bundle.empty with partnerOff := b.partnerOff, told := b.told, changedAt := b.changedAt, partnerMhz := b.partnerMhz, eqs := b.eqs
                          inj := b.inj }
  | .ldr => clearKeyData s
  | .die => untrain s p.inst
  | .ring => s.withNet (s.net.map (fun r => if r.ring = p.inst ∧ r.isAhead = false then { r with stage := .lost } else r))
  | .ln =>
    let x := s.bundle (p.inst / 9)
    lnTestWritten (s.setBundle (p.inst / 9) { x with inj := Tab.set (fun _ => 0) x.inj (p.inst % 9) 0 })
      (p.inst / 9) (p.inst % 9)
  | .hst | .pwr | .thm | .drw | .rpr | .cyc | .clp | .dvt | .mq => s

/-- The offsets of a page's registers that a store can list. -/
def listedOffsets (s : State) (p : PageId) : List Nat :=
  s.regs.filterMap (fun e =>
    match keyReg e.1 with
    | some (q, off) => if q = p then some off else none
    | none => none)

/-- The bits of a register that stay through a page reset, since another rule says what they show, or what alone changes them:
the binding, map, descriptors, N and S of the committed image, and that there is one (R204, R513); LOCKED of the device's clock
(R313); the power state and a transition in progress, with what throttles (R490, R492, R503); the records (R513); and a commit
of the Drawer that runs.
DEDUCED (log 18; unsafe). -/
def keptBits (p : PageId) (off : Nat) : Word :=
  let all : Word := 0xffffffff
  match p.ty, off with
  | .pnl, 0x40 => all
  | .dvt, _ => all
  | .mq, 0x40 | .mq, 0x44 | .mq, 0x48 => all
  | .ldr, 0x44 => 0x30
  | .cyc, 0x40 => all
  | .bnd, 0x80 => 0x100
  | .pwr, 0x44 => 0x30f
  | .pwr, 0x58 => all
  | .thm, 0x6c => all
  | .drw, 0x44 => 1
  | .drw, 0x48 | .drw, 0x50 => all
  | _, _ => 0

/-- The bits of a page's block register that its SRST leaves as they stand: those of `keptBits`, the PIN_CFG halves of
locked pins, the EDL_WAKE entries that name one, and PIN_LOCK (R46, R464). -/
def State.keptAtSrst (s : State) (p : PageId) (off : Nat) : Word :=
  match p.ty with
  | .pin =>
    if 0x44 ≤ off ∧ off < 0x84 then
      let i := 2 * ((off - 0x44) / 4)
      (if s.f p 0xfc i i = 1 then 0xffff else 0) ||| (if s.f p 0xfc (i + 1) (i + 1) = 1 then 0xffff0000 else 0)
    else if off = 0xfc then 0xffffffff else 0
  | .edl => if 0x50 ≤ off ∧ off < 0x70 ∧ s.pinLocked (s.f p off 8 0) = true then 0xffffffff else 0
  | _ => keptBits p off

/-- One register of a page that is reset (R46): PG_CTL and PG_STS stay. -/
def resetReg (old : State) (p : PageId) (s : State) (off : Nat) : State :=
  if off = 0x08 ∨ off = 0x0c then s
  else
    let m := if 0x40 ≤ off then old.keptAtSrst p off else 0
    s.setReg p off ((old.reg p off &&& m) ||| (s.restored p off &&& ~~~m))

/-- The half of a quantity of a page that a lower register holds is dropped (R335, R336, R455). -/
def dropLows (s : State) (p : PageId) : State :=
  s.withLows (s.lows.filter (fun e => match keyReg e.1 with
    | some (q, _) => q != p
    | none => true))

/-- The offsets of a page's registers that differ from what a reset gives: those listed, and those the Drawer restores. -/
def State.resetOffsets (s : State) (p : PageId) : List Nat :=
  listedOffsets s p ++ (s.drw.choose.1.filterMap (fun e =>
    if pageSlots[e.1 / 35]? = some p then some (slotOffset (e.1 % 35)) else none))

/-- A write of 1 to SRST on an OFF, unlocked page (R46): every register but PG_CTL takes its after-reset value, pins
that are locked keep their configuration (R464), and held halves and the block's state go. -/
def pageReset (s : State) (p : PageId) : State :=
  resetBlock (dropLows ((s.resetOffsets p).foldl (resetReg s p) s) p) p

/-! ### The commands -/

def execDrawerCommitEnd (ok : Bool) (s : State) := done (drawerCommitEnd s ok)

end Sys2Proof.Machine
end

