-- ==== Sys2Proof/Machine/Power.lean ====
section
/-! DEFINITION. Power states, supervision, telemetry, the power cap and the thermal limits (R488-R511). -/
namespace Sys2Proof.Machine

/-- PWR_STS.STATE as stored: 1 Hold or Active, 2 Idle, 3 Retain, 4 Dormant. -/
def State.pst (s : State) : Nat := s.f pwrPg 0x44 2 0

/-- A transition begins (R492): MOVING. -/
def beginMove (s : State) (t : Nat) : State :=
  (s.setF pwrPg 0x44 3 3 1).withPwr { s.pwr with target := some t }

/-! ### Dormant and Off (R489, R493, R499) -/

/-- The registers that the always-on domain keeps through Dormant (R493, R496): wake enables and timer, the records of
Dormant entries and trips, the wake inputs, and the host link's state. -/
def keptDormant : List (PageId × Nat) :=
  [(pwrPg, 0x50), (pwrPg, 0x54), (pwrPg, 0x58), (thmPg, 0x6c), (hstPg, 0x44)] ++
    (List.range 8).map (fun k => (pg .edl, 0x50 + 4 * k))

/-- HST_LINK_STS.L1 of a link that is up (R496): of one that must be in L1, or may rest there under ASPM (R469); in a warm reset
the link stays in L0 (R514). -/
def showL1 (s : State) (b : Bool) : State :=
  if s.hst.link % 16 = 0 then s else s.setF hstPg 0x44 16 16 (bit (b || s.aspmL1 && !s.pwr.starting))

/-- The always-on domain holds the link in L1 (R496): in Retain, and in Dormant until the start-up of a wake begins. -/
def State.heldInL1 (s : State) : Bool := decide (3 ≤ s.pst) && !s.pwr.starting

/-- The device is in Dormant with a cause. A bundle's wake acts in Idle alone (R497).
DESIGN CHOICE (log 18; unsafe). -/
def enterDormant (old : State) (cause : Nat) : State :=
  let s := bareReset old 2
  let s := keptDormant.foldl (fun s e => s.setReg e.1 e.2 (old.reg e.1 e.2)) s
  let s := showL1 ((s.setReg pwrPg 0x58 (BitVec.ofNat 32 (2 ^ 31 + cause))).setReg pwrPg 0x44 4) true
  let wake := if old.pwr.wake = some 4 then none else old.pwr.wake
  let w : Power := { old.pwr with wake := wake, off := false, starting := false, target := none, cause := cause, sampled := false }
  s.withPwr { w with nj := 0, rails := [], tripped := if 1 < cause then old.pwr.tripped else [], justForced := decide (1 < cause) }

/-- A forced entry (R489, R508): at once from any state but Off. Where a forced entry was made in the same period, the
cause recorded is the highest of R499, which is the least code.
DEDUCED (log 38; unsafe). -/
def forceDormant (s : State) (cause : Nat) : State :=
  if s.pwr.off then s
  else if s.pst = 4 ∧ s.pwr.starting = false then
    if s.pwr.justForced ∧ cause < s.pwr.cause then
      (s.setF pwrPg 0x58 3 0 cause).withPwr { s.pwr with cause := cause }
    else s
  else enterDormant (s.withPwr { s.pwr with wake := none }) cause

/-- In Off the always-on domain's monitor is without power: that it finds VIN out of range tells that VSTBY is back while VIN is
not good, and the device is Dormant (R490).
DEDUCED (log 45; unsafe). -/
def vinFault (s : State) (cause : Nat) : State :=
  if s.pwr.off then enterDormant (s.withPwr { s.pwr with wake := none }) cause else forceDormant s cause

/-- VIN_UV (R489): VIN is absent from now on. -/
def vinUv (s : State) : State :=
  let s := vinFault s 3
  s.withPwr { s.pwr with vinOut := true }

/-- VIN_LOW (R489). -/
def vinLow (s : State) : State :=
  if s.pwr.off || s.pwr.starting || s.pst == 4 then s else raise s pwrPg 10 0

/-- VSTBY_LOSS (R490): Off. -/
def vstbyLoss (old : State) : State :=
  let s := bareReset old 1
  s.withPwr { State.reset.pwr with off := true, starting := false }

/-! ### Wakes (R492, R497, R498) -/

/-- A wake begins the return to Hold from Idle or Retain. -/
def beginWake (s : State) (code : Nat) : State :=
  let s := s.setF pwrPg 0x44 15 12 code
  if s.pst = 2 then beginMove (s.withPwr { s.pwr with wake := none }) 1
  else beginMove (s.withPwr { s.pwr with wake := some code }) 2

/-- A wake source that is enabled acts, or waits for the entry in progress to end; in Dormant it waits for the start-up
(POWER_ON) that follows. The first source that acts counts. -/
def wakeEvent (s : State) (code : Nat) : State :=
  let hold : State := if s.pwr.wake.isSome then s else s.withPwr { s.pwr with wake := some code }
  if s.pwr.off || s.pwr.starting then s
  else
    match s.pwr.target with
    | none => if s.pst = 1 then s else if s.pst = 4 then hold else beginWake s code
    | some t => if t = 1 ∨ s.pst = 3 ∧ t = 2 then s else hold

/-- WAKE_PIN (R465): in Active and Hold the sticky bit; a wake of a lower state where PIN is enabled. -/
def wakePin (s : State) (k : Nat) : State :=
  let e := s.reg (pg .edl) (0x50 + 4 * k)
  if 8 ≤ k ∨ e.getLsbD 15 = false ∨ s.pwr.off = true ∨ s.pwr.starting = true then s
  else
    let s := if s.pst = 1 then raise s (pg .edl) 9 (fld e.toNat 8 0) else s
    if s.f pwrPg 0x50 0 0 = 1 then wakeEvent s 1 else s

/-- WAKE_TIMER: nothing where PWR_WAKE_TMR is 0. -/
def wakeTimer (s : State) : State :=
  if s.f pwrPg 0x50 1 1 = 1 ∧ s.reg pwrPg 0x54 ≠ 0 then wakeEvent s 3 else s

/-- BUNDLE_WAKE: acts in Idle, for a bundle whose TRAIN_EN is 1; during an entry to Idle it waits for the entry's end (R492). -/
def bundleWake (s : State) (b : Nat) : State :=
  if b < 6 ∧ s.f pwrPg 0x50 2 2 = 1 ∧ s.f (bndPg b) 0x40 8 8 = 1 ∧
      (s.pst = 2 ∧ s.pwr.target = none ∨ s.pst = 1 ∧ s.pwr.target = some 2) then wakeEvent s 4 else s

/-- VIN_RESTORED: VIN is back. -/
def vinRestored (s : State) : State :=
  let s : State := s.withPwr { s.pwr with vinOut := false }
  if s.pst = 4 ∧ s.pwr.cause = 3 ∧ s.f pwrPg 0x50 3 3 = 1 then wakeEvent s 5 else s

/-- Is a sensor one of a compute die or H? -/
def dieSensor (i : Nat) : Bool := decide (i < 5)

/-- Every sensor is cool enough to leave a Dormant entered for THERMAL (R498). -/
def State.cool (s : State) : Bool :=
  (List.range 7).all (fun i =>
    match s.pwr.temps.getD i none with
    | some t => decide (t.toInt < 16 * (if dieSensor i then 105 else 85))
    | none => false)

/-- POWER_ON (R488, R498): start-up from Off, or at a wake that waits in Dormant while VIN is good. -/
def powerOn (s : State) (f : StartupFindings) : State :=
  if s.pwr.off then startUp s 1 0 f
  else if s.pst = 4 ∧ s.pwr.starting = false ∧ s.pwr.wake.isSome = true ∧ s.pwr.vinOut = false ∧
      (s.pwr.cause = 2 → s.cool = true) then startUp s 2 0 f
  else s

/-! ### Requests (R491, R492) -/

/-- A refused request. -/
def refuseMove (s : State) (reason : Nat) : State := raise s pwrPg 8 reason

/-- The reason that refuses IDLE in Hold; 0 where it is granted. -/
def State.idleRefusal (s : State) : Nat :=
  if !s.cycOff then 1
  else if s.ldSt ≠ ldIdle then 2
  else if s.snapBusy then 3
  else if (List.range 2).any (fun k => (Tab.get (fun _ => none) s.vnr.sealing k).isSome) ||
      (List.range 16).any (fun id => s.keySt id == 2 || s.keySt id == 3) then 4
  else 0

/-- A request is examined against the state reached. `code` is the wake source that a HOLD request is (R497). -/
def examine (s : State) (t code : Nat) : State :=
  match t with
  | 1 => if s.pst = 1 then s else wakeEvent s code
  | 2 => if s.pst = 1 then (if s.idleRefusal = 0 then beginMove s 2 else refuseMove s s.idleRefusal) else s
  | 3 => if s.pst = 2 then beginMove s 3 else refuseMove s 5
  | 4 => if s.pst = 4 then s else beginMove s 4
  | _ => refuseMove s 6

/-- A write of PWR_CMD.TARGET. A request during a transition waits, and replaces one that waits. -/
def powerRequest (s : State) (rq : Requester) (t : Nat) : State :=
  let code := match rq with
    | .core _ => 6
    | _ => 2
  if t = 0 then refuseMove s 6
  else
    match s.pwr.target with
    | none => examine s t code
    | some _ => (s.setF pwrPg 0x44 6 4 t).withPwr { s.pwr with asker := code }

/-! ### Transitions (R493-R495) -/

/-- Every bundle enters DOWN, one that leaves UP while the CYC_ page is ON degraded (R327), and the receivers only watch for
signal; a FOLLOW device's clock is no longer locked. -/
def enterIdle (s : State) : State :=
  let s := (List.range 6).foldl bndStops (s.setF pwrPg 0x44 2 0 2)
  let s := (List.range 54).foldl (fun s l => clockStops s (l / 9) (l % 9)) s
  if s.follows then s.setF bnd0 0x80 8 8 0 else s

/-- The step clock restarts: bundles whose TRAIN_EN is 1 start at DETECT, and the links of every DIE_ page that is ON train again,
as its start sequence trains them (R129). Its STATE stays ON: R38 knows no other way out of ON than by EN.
DEDUCED (log 43; unsafe). -/
def leaveIdle (s : State) : State :=
  let s := (List.range 6).foldl restBundle (s.setF pwrPg 0x44 2 0 1)
  (List.range 4).foldl (fun s d =>
    if s.on (diePg d) then beginTraining (untrain s d) d else s) s

/-- The cores halt and the trace units write POWERDOWN (R402). A bundle's wake acts in Idle alone (R497). -/
def enterRetain (s : State) : State :=
  let s := if s.pwr.wake = some 4 then s.withPwr { s.pwr with wake := none } else s
  let s := (List.range 8).foldl (fun s c => traceDrain (traceSleep s c (s.core c).pc (s.core c).machine) c) s
  showL1 (s.setF pwrPg 0x44 2 0 3) true

/-- A core whose page is ON loses the item that it holds, and is released at CC_BOOT again, as its start sequence does it (R413,
R494). STATE stays ON: R38 knows no other way out of ON than by EN. A page that rests OFF with EN 1 after a failed start does not
start again (R41): R494's "again" is of a start that has been.
DEDUCED (log 43; unsafe). DEDUCED (log 45; unsafe). -/
def restartCore (s : State) (c : Nat) : State :=
  if s.on (ccPg c) then settlePreempt (coreStart (itemLost (orphan s c) c) c) else s

/-- The return to Idle: Gauges, trace parts, cores, and RETAIN_EXIT. -/
def leaveRetain (s : State) : State :=
  let s := gaugesStopped (showL1 (s.setF pwrPg 0x44 2 0 2) false)
  let s := (List.range 8).foldl traceLost s
  let s := (List.range 8).foldl restartCore s
  raise s pwrPg 13 0

/-- The transition has ended: the pending request is examined, then a wake that waits acts. -/
def afterMove (s : State) : State :=
  let t := s.f pwrPg 0x44 6 4
  let s := s.setF pwrPg 0x44 6 4 0
  let s := if t = 0 then s else examine s t s.pwr.asker
  match s.pwr.target, s.pwr.wake with
  | none, some c =>
    if s.pst = 4 then s
    else
      let s : State := s.withPwr { s.pwr with wake := none }
      if s.pst = 1 then s else wakeEvent s c
  | _, _ => s

/-- TRANSITION_END (R492). A return from Retain goes on to Hold from Idle (R497). -/
def transitionEnd (s : State) : State :=
  match s.pwr.target with
  | none => s
  | some t =>
    let s : State := (s.setF pwrPg 0x44 3 3 0).withPwr { s.pwr with target := none }
    match t with
    | 1 => afterMove (leaveIdle s)
    | 2 => if s.pst = 3 then beginWake (leaveRetain s) (s.pwr.wake.getD 2) else afterMove (enterIdle s)
    | 3 => afterMove (enterRetain s)
    | _ => afterMove ((enterDormant s 1).setF pwrPg 0x44 6 4 (s.f pwrPg 0x44 6 4))

/-- The device is in Hold at the end of start-up (R516); at a wake from Dormant the always-on domain's registers take their
after-reset contents (R496). -/
def holdReached (s : State) : State :=
  let s := if s.f drwPg 0x50 3 0 = 2 then
      (s.setReg pwrPg 0x50 (s.restored pwrPg 0x50)).setReg pwrPg 0x54 (s.restored pwrPg 0x54)
    else s
  (s.setF pwrPg 0x44 2 0 1).setF pwrPg 0x44 3 3 0

/-- STARTUP_END (R313, R516): a SOURCE device is LOCKED, and the Cabinet step count stands at 0; what start-up found is
reported; after a power-on every TRC_ page reports its part lost (R402); pages whose EN is 1 begin their start sequences, hub
pages in ascending index first; and a request that came in start-up is examined (R492). -/
def startupEnd (s : State) : State :=
  if s.pwr.starting then
    let p := s.pwr
    let s : State := ((holdReached s).withPwr { p with starting := false, target := none, wake := none }).withTicks 0
    let s := s.withCyc { s.cyc with csc := 0 }
    let s := if s.follows then s else s.setF bnd0 0x80 8 8 1
    let s := if s.pwr.powered then (List.range 8).foldl traceLost s else s
    let s := wakeReports (startReports s)
    let s : State := s.withPwr { s.pwr with fromOff := false, powered := false, mapBad := false, cause := 0 }
    afterMove (pageSlots.foldl (fun s p => if s.en p && s.st p == stOff then beginStart s p else s) s)
  else s

/-! ### Telemetry and the cap (R501-R504) -/

/-- THROTTLE parts (PWR_STS). -/
def State.capLive (s : State) : Bool := s.f pwrPg 0x44 8 8 == 1
def State.thermLive (s : State) : Bool := s.f pwrPg 0x44 9 9 == 1

/-- The cap part after a sample (R503, R504). -/
def capSample (s : State) : State :=
  let c := (s.reg pwrPg 0x4c).toNat
  let avg := (s.reg pwrPg 0x6c).toNat
  if fld c 31 31 = 0 then s.setF pwrPg 0x44 8 8 0
  else if s.capLive then
    if avg < 1000 * (fld c 9 0 - fld c 23 16) then s.setF pwrPg 0x44 8 8 0 else s
  else if 1000 * fld c 9 0 ≤ avg then raise ((s.setF pwrPg 0x44 8 8 1).bump pwrPg 0x98 31 0) pwrPg 9 0
  else s

/-- The averaged input power after a sample, in mW (R502). -/
def average502 (avg p tau : Nat) : Nat := ((avg : Int) + Int.fdiv ((p : Int) - avg) (2 ^ tau)).toNat

/-- POWER_SAMPLE (R501-R503). -/
def powerSample (s : State) (m : PowerReading) : State :=
  if s.refRuns then
    let p := m.mw.toNat
    let avg := if s.pwr.sampled then average502 (s.reg pwrPg 0x6c).toNat p (s.f pwrPg 0x4c 27 24) else p
    let nj := s.pwr.nj + p
    let rails := (m.rails :: s.pwr.rails).take 1000
    let s := (s.setReg pwrPg 0x60 (m.mv.setWidth 32)).setReg pwrPg 0x64 (m.ma.setWidth 32)
    let s := (s.setReg pwrPg 0x68 (m.mw.setWidth 32)).setReg pwrPg 0x6c (BitVec.ofNat 32 avg)
    let s := s.setReg64 pwrPg 0x90 (s.reg64 pwrPg 0x90 + nj / 1000)
    let s := (List.range 8).foldl (fun s r =>
      s.setReg pwrPg (0x70 + 4 * r)
        (BitVec.ofNat 32 (rails.foldl (fun a l => a + (l.getD r 0).toNat) 0 / rails.length))) s
    capSample (s.withPwr { s.pwr with sampled := true, nj := nj % 1000, rails := rails })
  else s

/-! ### Thermal limits (R506-R508) -/

/-- The reading that a sensor counts as, in 1/16 °C: its throttle threshold where it gives no valid one. -/
def State.heat (s : State) (t : List (Option (BitVec 16))) (i : Nat) : Int :=
  match t.getD i none with
  | some v => v.toInt
  | none => 16 * (if dieSensor i then s.f thmPg 0x64 7 0 else s.f thmPg 0x64 15 8 : Nat)

/-- A sensor's THM_LIMIT threshold less n °C, and its THM_ALERT threshold, in 1/16 °C. -/
def State.thrLess (s : State) (i n : Nat) : Int :=
  16 * (((if dieSensor i then s.f thmPg 0x64 7 0 else s.f thmPg 0x64 15 8) : Nat) - (n : Int))
def State.alertAt (s : State) (i : Nat) : Int :=
  16 * ((if dieSensor i then s.f thmPg 0x68 7 0 else s.f thmPg 0x68 15 8 : Nat) : Int)

/-- INFO of a sensor's event. -/
def heatInfo (i : Nat) (h : Int) : Nat := i * 2 ^ 16 + (h % 2 ^ 16).toNat

/-- A sensor's register takes its reading; without a valid one TEMP stays. -/
def showTemp (s : State) (t : List (Option (BitVec 16))) (i : Nat) : State :=
  match t.getD i none with
  | some v => s.setReg thmPg (0x40 + 4 * i) (BitVec.ofNat 32 (2 ^ 31 + v.toNat))
  | none => s.setF thmPg (0x40 + 4 * i) 31 31 0

/-- The hottest die sensor with a valid reading, the lowest of equals. -/
def hottest (t : List (Option (BitVec 16))) : Option (Nat × BitVec 16) :=
  (List.range 5).foldl (fun m i =>
    match t.getD i none, m with
    | some v, none => some (i, v)
    | some v, some (j, w) => if w.toInt < v.toInt then some (i, v) else some (j, w)
    | none, m => m) none

/-- The thermal part of THROTTLE after a sample (R507), and the sensor of its rise. -/
def thermSample (s : State) (t : List (Option (BitVec 16))) : State × Option Nat :=
  if s.thermLive then
    (if (List.range 7).all (fun i => decide (s.heat t i < s.thrLess i (s.f thmPg 0x64 19 16))) then
      s.setF pwrPg 0x44 9 9 0 else s, none)
  else
    match (List.range 7).find? (fun i => decide (s.thrLess i 0 ≤ s.heat t i)) with
    | some i => (s.setF pwrPg 0x44 9 9 1, some i)
    | none => (s, none)

/-- The registers and events of a sample (R506, R507), in ascending bit order. -/
def thermalShow (s : State) (t : List (Option (BitVec 16))) : State :=
  let old := s.pwr.temps
  let s := (List.range 7).foldl (fun s i => showTemp s t i) s
  let s := match hottest t with
    | some (i, v) => s.setReg thmPg 0x60 (BitVec.ofNat 32 (i * 2 ^ 16 + v.toNat))
    | none => s
  let (s, rise) := thermSample s t
  let s := match rise with
    | some i => raise s thmPg 8 (heatInfo i (s.heat t i))
    | none => s
  let s := (List.range 7).foldl (fun s i =>
    if s.alertAt i ≤ s.heat t i ∧ (old = [] ∨ s.heat old i < s.alertAt i) then raise s thmPg 9 (heatInfo i (s.heat t i))
    else s) s
  (List.range 7).foldl (fun s i =>
    if (t.getD i none).isNone then raise s thmPg 11 (i * 2 ^ 16 + s.f thmPg (0x40 + 4 * i) 15 0) else s) s

/-- Which sensors stand at their trip temperature (R508). -/
def tripping (t : List (Option (BitVec 16))) : List Bool :=
  (List.range 7).map (fun i =>
    match t.getD i none with
    | some v => decide (16 * (if dieSensor i then 125 else 105) ≤ v.toInt)
    | none => false)

/-- THERMAL_SAMPLE (R506-R508). The trip cannot be disabled: it acts in Retain and in start-up, too, where the page does not
show the readings. In Dormant the always-on monitor's readings alone change, and a trip counts that comes in the period of a
forced entry (R499). -/
def thermalSample (s : State) (t : List (Option (BitVec 16))) : State :=
  if s.pwr.off then s
  else if s.pst = 4 ∧ s.pwr.starting = false ∧ s.pwr.justForced = false then s.withPwr { s.pwr with temps := t }
  else
    let now := tripping t
    let trip := (List.range 7).find? (fun i => now.getD i false && s.pwr.tripped.getD i false)
    let s := if s.refRuns then thermalShow s t else s
    let s : State := s.withPwr { s.pwr with temps := if s.pwr.starting then s.pwr.temps else t, tripped := now }
    match trip with
    | some i =>
      forceDormant (s.setReg thmPg 0x6c (BitVec.ofNat 32 (2 ^ 31 + i * 2 ^ 16 + ((t.getD i none).getD 0).toNat))) 2
    | none => s

/-! ### Writes of the PWR_ and THM_ pages (R505, R509, R510) -/

/-- PWR_STEP_CLK holds a frequency that R505 allows. -/
def mhzOk (v : Nat) : Bool := decide (800 ≤ v) && decide (v ≤ 1600) && v % 25 == 0

/-- PWR_STEP_CLK has changed (R505): on a SOURCE device the step clock relocks, lanes choose their equalization entry, and every
die link and bundle trains again. -/
def stepClkChanged (s : State) : State :=
  if s.follows then s
  else
    let s := eqAgain (setMhz s (s.f pwrPg 0x48 10 0))
    let s := (List.range 4).foldl (fun s d => if s.on (diePg d) then beginTraining s d else s) s
    (List.range 6).foldl (fun s b => if s.bst b = bsDown ∨ s.bst b = bsTest then s else leaveTo s b bsDetect) s

/-- PWR_CAP's fields are in range. -/
def capOk (c : Nat) : Bool :=
  decide (fld c 27 24 ≤ 10) && decide (1 ≤ fld c 23 16) && decide (fld c 23 16 ≤ 50) && decide (100 ≤ fld c 9 0) &&
    decide (fld c 9 0 ≤ 600)

/-- THM_LIMIT's fields are in range (R509). -/
def thmOk (c : Nat) : Bool :=
  decide (60 ≤ fld c 7 0) && decide (fld c 7 0 ≤ 115) && decide (60 ≤ fld c 15 8) && decide (fld c 15 8 ≤ 95) &&
    decide (1 ≤ fld c 19 16) && decide (fld c 19 16 ≤ 15)

/-! ### The commands -/

def execPowerOn (p : StartupFindings) (s : State) := done (powerOn s p)
def execVstbyLoss (s : State) := done (vstbyLoss s)
def execVinLow (s : State) := done (vinLow s)
def execVinUv (s : State) := done (vinUv s)
def execVinOv (s : State) := done (vinFault s 4)
def execStartupEnd (s : State) := done (startupEnd s)
def execOverpower (s : State) := done (forceDormant s 5)
def execTransitionEnd (s : State) := done (transitionEnd s)
def execWakePin (k : Nat) (s : State) := done (wakePin s k)
def execWakeTimer (s : State) := done (wakeTimer s)
def execBundleWake (b : Nat) (s : State) := done (bundleWake s b)
def execVinRestored (s : State) := done (vinRestored s)
/-- DESIGN CHOICE (log 11; safe). -/
def execPowerSample (m : PowerReading) (s : State) := done (powerSample s m)
def execThermalSample (t : List (Option (BitVec 16))) (s : State) := done (thermalSample s t)

end Sys2Proof.Machine
end

