-- ==== Sys2Proof/Machine/Tick.lean ====
section
/-! DEFINITION. One period of the reference clock for the whole device (R333, R395, R408, R445). -/
namespace Sys2Proof.Machine

/-- A core's mcycle advances while its clock runs and the counter is not inhibited. -/
def countCycle (s : State) (c : Nat) : State :=
  let k := s.core c
  if s.coreLive c && !s.ccSts c 0 && !k.mcountinhibit.getLsbD 0 then s.setCore c { k with mcycle := k.mcycle + 1 } else s

/-- REFERENCE_TICK (R333, R334, R445, R460): Gauges, target pins and edge lines; the trace units write what they hold, the
dispatcher's round of actions and its record budget start again, and the cores' cycle counters advance.
DEDUCED (log 7; unsafe). -/
def tick (s : State) (t : TargetLevels) : State :=
  let s : State := s.withPwr { s.pwr with justForced := false }
  let s := s.withHst { s.hst with conds := s.vectorConds, rearms := 0 }
  let s := referenceTick (drawerSettles s) t
  if s.refRuns then
    let s : State := s.withWd { s.wd with records := 0, turn := 0 }
    (List.range 8).foldl (fun s c => countCycle (traceDrain s c) c) s
  else s

/-! ### The command -/

/-- DESIGN CHOICE (log 1; safe). DESIGN CHOICE (log 10; safe). -/
def execReferenceTick (t : TargetLevels) (s : State) := done (tick s t)

end Sys2Proof.Machine
end

