-- ==== Sys2Proof/Machine/RegRead.lean ====
section
/-! DEFINITION. Reading registers (R31-R35, R56): what each register shows, the holding registers of 64-bit reads, and
broadcast reads. -/
namespace Sys2Proof.Machine

/-! ### Page status (R35, R40) -/

/-- The block of a page holds accepted work that is not complete (PG_STS.BUSY).
DEDUCED (log 13; unsafe). -/
def State.blockBusy (s : State) (p : PageId) : Bool :=
  match p.ty with
  | .ldr => s.ldSt != ldIdle
  | .cap => s.snapBusy || !s.cap.waiting.isEmpty
  | .vnr => s.f p 0x4c 0 0 == 1 ||
      p.inst == 0 && (List.range 16).any (fun id => s.keySt id == 2 || s.keySt id == 3)
  | .mq => let q := s.queue (pageDie p) (p.inst % 1024)
    !q.held.isEmpty || q.resps.any (fun r => !r.arrived)
  | .drw => s.f p 0x44 0 0 == 1
  | .pwr => s.f p 0x44 3 3 == 1
  | .cyc => s.executing
  | .wd => s.f p 0x54 12 0 != 4096 || s.f p 0x70 0 0 == 1
  | .cc => s.ccSts p.inst 1 || s.ccSts p.inst 2 || s.ccSts p.inst 3
  | .pin => !(s.port p.inst).tx.isEmpty || (s.port p.inst).i2c.isSome
  | .ring => s.net.any (fun r => r.ring == p.inst && !r.quar && !r.isAhead)
  | _ => false

/-- PG_STS. -/
def State.pgSts (s : State) (p : PageId) : Word :=
  let st := s.st p
  let moving := st == stStarting || st == stStopping
  BitVec.ofNat 32 (st + 4 * bit (st == stStopping && s.en p) + 8 * bit (moving || s.blockBusy p) +
    16 * bit (st == stStarting && !s.en p) + 32 * bit (st != stOn))

/-! ### Block registers that show what the machine holds elsewhere -/

/-- Upper or lower half of a 64-bit value, by the bit of the offset (R6). -/
def half64 (v off : Nat) : Word := BitVec.ofNat 32 (v / 2 ^ (32 * (off / 4 % 2)))

/-- Byte fields of four dies. -/
def perDie (f : Nat → Nat) : Word := BitVec.ofNat 32 (f 0 + f 1 * 2 ^ 8 + f 2 * 2 ^ 16 + f 3 * 2 ^ 24)

/-- PWR_STS: STATE reads ACTIVE while cycles run and are not held (R490). -/
def State.pwrSts (s : State) : Word :=
  let w := s.reg pwrPg 0x44
  if s.pst = 1 ∧ s.f cycPg 0x44 1 0 = 1 then setFld w 2 0 0 else w

/-- LDR_KEY_STS (R217-R220). -/
def State.keySts (s : State) : Word :=
  let prog := (List.range 4).foldl (fun a i => a + bit (Tab.get (fun _ => none) s.ldr.fuses i).isSome * 2 ^ i) 0
  BitVec.ofNat 32 (prog + s.ldr.retired.toNat * 2 ^ 4 + bit s.ldr.batt.isSome * 2 ^ 8)

/-- BND_MESH_CTL and BND_MESH_RX (R329): the oldest MESH packet held. -/
def State.meshCtl (s : State) (p : PageId) : Word :=
  let m := (s.bundle p.inst).mesh
  let tag := match m with
    | (t, _) :: _ => t.toNat
    | [] => 0
  BitVec.ofNat 32 (s.f p 0xc0 3 0 + bit (s.meshBusy p.inst) * 2 ^ 16 + m.length % 16 * 2 ^ 20 + tag * 2 ^ 24)
def State.meshRx (s : State) (b i : Nat) : Word :=
  match (s.bundle b).mesh with
  | (_, d) :: _ => BitVec.ofNat 32 (d.toNat / 2 ^ (32 * i))
  | [] => 0

/-- The shown entry of the topology table at BND_TOPO_IDX (R321, R329). -/
def State.topoEntry (s : State) : Option (BitVec 64 × List (Option Nat)) := s.topoShown[s.f bnd0 0x18c 5 0]?

/-- BND_TOPO_SERIAL. -/
def State.topoSerial (s : State) (off : Nat) : Word :=
  match s.topoEntry with
  | some e => half64 e.1.toNat off
  | none => 0

/-- BND_TOPO_NBR: a byte per bundle, VALID in bit 7. -/
def State.topoNbr (s : State) (off : Nat) : Word :=
  match s.topoEntry with
  | some e =>
    half64 ((List.range 6).foldl (fun a b =>
      match (e.2[b]?).join with
      | some n => a + (2 ^ 7 + n % 64) * 2 ^ (8 * b)
      | none => a) 0) off
  | none => 0

/-- PIN_CFG with the LOCKED bits of its pins (R466). -/
def State.pinCfg (s : State) (p : PageId) (off : Nat) : Word :=
  let i := 2 * ((off - 0x44) / 4)
  setFld (setFld (s.reg p off) 15 15 (s.f p 0xfc i i)) 31 31 (s.f p 0xfc (i + 1) (i + 1))

/-- PIN_UART_RX: the oldest byte held, with its flags (R458). -/
def State.uartRx (s : State) (p : Nat) : Word :=
  match (s.port p).rx with
  | e :: _ => e.setWidth 32
  | [] => 0

/-- PIN_STS with SWITCH_PENDING (R461). -/
def State.pinSts (s : State) (p : PageId) : Word :=
  setFld (s.reg p 0xf4) 1 1 (bit (s.pins.pendFn.any (fun e => e.1 / 32 == p.inst)))

/-- A word of the MSI-X table or PBA of the HST_ page (R484). -/
def State.msixWord (s : State) (off : Nat) : Word :=
  if off < 0x710 then BitVec.ofNat 32 (s.hst.pba.toNat / 2 ^ (8 * (off - 0x700)))
  else if off < 0x800 then 0
  else
    let e := s.msixEntry ((off - 0x800) / 16)
    match off / 4 % 4 with
    | 0 => BitVec.ofNat 32 e.addr.toNat
    | 1 => BitVec.ofNat 32 (e.addr.toNat / 2 ^ 32)
    | 2 => e.data
    | _ => e.ctl

/-- The held lower half of a quantity whose lower register reads back what was written last (R7, R335). -/
def State.heldLow (s : State) (p : PageId) (off : Nat) : Word :=
  match Tab.get (fun _ => none) s.lows (regKey p off) with
  | some w => w
  | none => s.reg p off

/-- What a block register of the machine shows. -/
def State.blockView (s : State) (p : PageId) (off : Nat) : Word :=
  match p.ty with
  | .pwr => if off = 0x44 then s.pwrSts else s.reg p off
  | .rpr =>
    if off = 0x40 then perDie s.usable
    else if off = 0x44 then perDie s.good
    else if 0x100 ≤ off then
      let d := s.f p 0x54 1 0
      perDie (fun i => (s.reason d (off - 0x100 + i)).toNat)
    else s.reg p off
  | .drw => if off = 0x58 ∨ off = 0x5c then half64 s.drw.serial.toNat (off - 0x58) else s.reg p off
  | .clp =>
    if off = 0x50 then BitVec.ofNat 32 (s.localCauses.toNat * 2 ^ 8 + s.cyc.cabinet.toNat) else s.reg p off
  | .ldr => if off = 0x70 then s.keySts else s.reg p off
  | .bnd =>
    if off = 0x44 then setFld (s.reg p off) 6 6 (bit (s.loadMode p.inst))
    else if off = 0xc0 then s.meshCtl p
    else if 0xd0 ≤ off ∧ off < 0xe0 then s.meshRx p.inst ((off - 0xd0) / 4)
    else if off = 0x180 ∨ off = 0x184 then half64 s.cyc.csc off
    else if off = 0x190 ∨ off = 0x194 then s.topoSerial off
    else if off = 0x198 ∨ off = 0x19c then s.topoNbr (off - 0x198)
    else s.reg p off
  | .gau =>
    if off = 0x48 ∨ off = 0x4c then half64 (s.gval p.inst) (off - 0x48)
    else if off = 0x44 then setFld (s.reg p off) 0 0 (bit (s.gauSrc p.inst != 0 && !s.holdover p.inst))
    else if off = 0x50 ∨ off = 0x74 then s.heldLow p off
    else if off = 0xc4 then setFld (s.reg p off) 1 1 (bit (s.pulseOut p.inst))
    else s.reg p off
  | .cc =>
    if off = 0x68 ∨ off = 0x6c then half64 (s.ccPend p.inst).toNat (off - 0x68)
    else if off = 0x70 then s.irqLoc p.inst
    else s.reg p off
  | .pin =>
    if 0x44 ≤ off ∧ off < 0x84 then s.pinCfg p off
    else if off = 0xc4 then s.uartRx p.inst
    else if off = 0xcc then BitVec.ofNat 32 ((s.port p.inst).tx.length + (s.port p.inst).rx.length * 2 ^ 8)
    else if off = 0xe8 then (if s.on p then portBits s.pins.sync2 p.inst else 0)
    else if off = 0xf4 then s.pinSts p
    else s.reg p off
  | .edl => if off = 0x70 then s.pins.edl3 else s.reg p off
  | .hst => if off = 0x4c then s.reg p 0x48 else s.reg p off
  | .trg => if 0x820 ≤ off ∧ off < 0x830 ∧ s.ldr.counts.getD ((off - 0x820) / 4) 0 = 0 then 0 else s.reg p off
  | .pnl | .die | .dvt | .mq | .thm | .cyc | .vnr | .ln | .cap | .meas | .trc | .wd | .ring => s.reg p off

/-- A word of a page at 0x700 and above that is no register: the Drawer window (R518), the trace window (R403), the MSI-X
table and PBA. -/
def State.windowView (s : State) (p : PageId) (off : Nat) : Word :=
  match p.ty with
  | .drw => if 0x800 ≤ off then
      BitVec.ofNat 32 (numLE ((List.range 4).map (fun i => s.drawerShows (s.windowAddr off + i)))) else 0
  | .trc => if 0x800 ≤ off then
      BitVec.ofNat 32 (numLE ((List.range 4).map (fun i =>
        (s.traceByte p.inst (s.f p 0xc0 6 0 * 2048 + (off - 0x800) + i))))) else 0
  | .hst => if 0x700 ≤ off then s.msixWord off else 0
  | _ => 0

/-- A read of the register at a word-aligned offset (R31, R7): WO fields and reserved ones read 0. -/
def State.readReg (s : State) (p : PageId) (off : Nat) : Word :=
  if !pageExists p || decide (4096 ≤ off) then 0
  else if off = 0x00 then BitVec.ofNat 32 (pageCode p.ty * 2 ^ 20 + p.inst)
  else if off = 0x0c then s.pgSts p
  else
    match regSpec p.ty p.inst off with
    | none => s.windowView p off
    | some _ =>
      let v := if off < 0x40 then s.reg p off else s.blockView p off
      v &&& (definedMask p.ty p.inst off &&& ~~~regMask p.ty p.inst off .wo)

/-! ### Holding registers (R34) and broadcast reads (R56) -/

/-- A requester's copy: the register it is held for, and the value.
DEDUCED (log 12; unsafe). -/
def State.held (s : State) (rq : Requester) : Option (Nat × Word) := Tab.get (fun _ => none) s.hold (rqCode rq)
/-- DEDUCED (log 12; unsafe). -/
def State.setHeld (s : State) (rq : Requester) (v : Option (Nat × Word)) : State :=
  s.withHold (Tab.set (fun _ => none) s.hold (rqCode rq) v)

/-- A read by a requester: the lower register of a 64-bit quantity loads its holding register, the next read of the upper
one returns the copy.
DEDUCED (log 12; unsafe). -/
def readBy (s : State) (rq : Requester) (p : PageId) (off : Nat) : Word × State :=
  match regHalf p.ty p.inst off with
  | 1 => (s.readReg p off, s.setHeld rq (some (regKey p (off + 4), s.readReg p (off + 4))))
  | 2 =>
    match s.held rq with
    | some (k, c) => if k = regKey p off then (c, s.setHeld rq none) else (s.readReg p off, s)
    | none => (s.readReg p off, s)
  | _ => (s.readReg p off, s)

/-- A requester's group select (R53). -/
def State.groupSel (s : State) (rq : Requester) : Nat :=
  match rq with
  | .host => s.f hstPg 0x40 15 0
  | .core c => s.f (ccPg c) 0x44 15 0
  | _ => 0

/-- The instances that a broadcast access addresses (R53), in ascending page index; hub types have one place. -/
def State.addressed (s : State) (rq : Requester) (code : Nat) : List PageId :=
  match pageOfCode code with
  | none => []
  | some ty =>
    ((instancesOf ty).map (fun i => (⟨ty, i⟩ : PageId))).filter
      (fun p => BitVec.ofNat 16 (s.f p 0x24 15 0) &&& BitVec.ofNat 16 (s.groupSel rq) != 0)

/-- A broadcast read (R56): the OR of the register in every addressed instance. -/
def State.readAll (s : State) (rq : Requester) (code off : Nat) : Word :=
  (s.addressed rq code).foldl (fun a p => a ||| s.readReg p off) 0

end Sys2Proof.Machine
end

