-- ==== Sys2Proof/Machine/RegWrite.lean ====
section
/-! DEFINITION. Writing registers (R7, R8, R31, R47, R548, R549): frozen fields, values that a rule refuses, the effects
and commands of a write, broadcast writes. -/
namespace Sys2Proof.Machine

/-- A write as it reaches one register: the requester, whether a core makes it in machine mode (R398), the enabled bytes
as a mask, and the value. -/
structure Write where
  rq : Requester
  machine : Bool
  mask : Word
  val : Word
  deriving DecidableEq, Repr

/-- The bits of the enabled bytes. -/
def beMask (be : BitVec 4) : Word :=
  BitVec.ofNat 32 ((List.range 4).foldl (fun a i => a + bit (be.getLsbD i) * 255 * 2 ^ (8 * i)) 0)

/-- The value in the enabled bytes. -/
def Write.x (w : Write) : Word := w.val &&& w.mask

/-- The write carries a 1 in a bit, or enables the byte of one. -/
def Write.has (w : Write) (b : Nat) : Bool := w.x.getLsbD b
def Write.covers (w : Write) (b : Nat) : Bool := w.mask.getLsbD b

/-- INFO of RSVD and LOCKVIOL (R42). -/
def writeInfo (rq : Requester) (off : Nat) : Nat := rqCode rq * 2 ^ 20 + off % 4096

/-! ### Frozen fields (R47, R378, R380, R386, R395, R354, R364, R455, R180, R256, R443, R463, R505) -/

/-- The bits of a register that a lock freezes: RWL fields of a locked page, the PIN_CFG half of a locked pin, an
EDL_WAKE entry that names one. -/
def State.lockMask (s : State) (p : PageId) (off : Nat) : Word :=
  let page := if s.locked p then regMask p.ty p.inst off .rwl else 0
  match p.ty with
  | .pin =>
    if 0x44 ≤ off ∧ off < 0x84 then
      let i := 2 * ((off - 0x44) / 4)
      page ||| (if s.f p 0xfc i i = 1 then 0xffff else 0) ||| (if s.f p 0xfc (i + 1) (i + 1) = 1 then 0xffff0000 else 0)
    else page
  | .edl => if 0x50 ≤ off ∧ off < 0x70 ∧ s.pinLocked (s.f p off 8 0) = true then 0xffffffff else page
  | _ => page

/-- One freeze rule that holds: the bits, and the sticky bit and INFO that a write reaching them records. -/
structure Freeze where
  bits : Word
  sticky : Nat
  info : Nat
  deriving DecidableEq, Repr

/-- A freeze of a register while a condition holds. -/
def freezeIf (c : Bool) (bits : Word) (sticky info : Nat) : List Freeze := if c then [⟨bits, sticky, info⟩] else []

/-- The freezes by condition of a register, other than locks. -/
def State.freezes (s : State) (p : PageId) (off : Nat) : List Freeze :=
  let busy := !s.cycOff
  match p.ty with
  | .clp => freezeIf (busy && (off == 0x40 || off == 0x44)) 0xffffffff bSeqFail 0
  | .pwr => freezeIf (busy && off == 0x48) 0xffffffff 12 1
  | .bnd => freezeIf (busy && off == 0x80) 0x71 bSeqFail 0
  | .gau =>
    freezeIf (s.evtArm p.inst && off == 0xc0) 0x1f6 13 2 ++
      freezeIf (s.evtArm p.inst && decide (0xc8 ≤ off) && decide (off < 0xdc)) 0xffffffff 13 2 ++
      freezeIf (busy && off == 0x100) 0xf0 13 5 ++
      freezeIf (busy && decide (0x108 ≤ off) && decide (off < 0x118)) 0xffffffff 13 5
  | .trg =>
    freezeIf (s.f p 0x40 0 0 == 1 && (decide (0x50 ≤ off) && decide (off < 0xa0) || decide (0xb0 ≤ off) && decide (off < 0xc0) ||
      decide (0x200 ≤ off) && decide (off < 0x800))) 0xffffffff 12 1
  | .cap =>
    freezeIf (s.f p 0x40 0 0 == 1 && off == 0x40) 2 11 1 ++
      freezeIf (s.f p 0x40 0 0 == 1 && decide (0x48 ≤ off) && decide (off < 0x64)) 0xffffffff 11 1
  | .meas => freezeIf (s.f p 0x40 0 0 == 1 && off == 0x40) 0xfffffffe 9 1
  | .trc =>
    freezeIf (s.f p 0x40 0 0 == 1 && off == 0x40) 0xfffffffe 14 1 ++
      freezeIf (s.f p 0x40 0 0 == 1 && decide (0x48 < off)) 0xffffffff 14 1
  | .vnr =>
    let i := (off - 0x100) / 0x20
    freezeIf (decide (0x100 ≤ off) && decide (off < 0x300) && s.f p (0x100 + 0x20 * i) 0 0 == 1)
      (if off % 0x20 = 0 then 0xfffffffe else 0xffffffff) 13 (i * 2 ^ 4 + 2)
  | .pin =>
    freezeIf (off == 0x40 && (s.st p != stOff || s.reg p 0xfc != 0)) 3 8 (2 * 2 ^ 8) ++
      freezeIf (busy && off == 0xf0) 0xffffffff 8 (3 * 2 ^ 8)
  | _ => []

/-! ### Values that a rule refuses -/

/-- PIN_CFG (R444): a half whose FUNC or SEL is not permitted stays. -/
def fixPinCfg (w : Write) (off : Nat) (old new : Word) : Word × List (Nat × Nat) :=
  let i := (off - 0x44) / 4 * 2
  let bad := fun h => (w.mask.toNat / 2 ^ (16 * h) % 256 != 0) && !fnOk (fld new.toNat (16 * h + 15) (16 * h))
  let keep := fun (v : Word) h => if bad h then setFld v (16 * h + 15) (16 * h) (fld old.toNat (16 * h + 15) (16 * h)) else v
  (keep (keep new 0) 1, ([0, 1].filter bad).map (fun h => (8, 1 * 2 ^ 8 + (i + h) % 32)))

/-- EDL_SRC (R468): a line that a reserved port code is written to stays. -/
def fixEdlSrc (w : Write) (off : Nat) (old new : Word) : Word × List (Nat × Nat) :=
  let n0 := (off - 0x40) / 4 * 8
  let code := fun m => fld new.toNat (4 * m + 3) (4 * m)
  let bad := (List.range 8).filter (fun m => w.covers (4 * m) && decide (12 ≤ code m) && decide (code m ≤ 14))
  (bad.foldl (fun v m => setFld v (4 * m + 3) (4 * m) (fld old.toNat (4 * m + 3) (4 * m))) new,
    bad.map (fun m => (10, 32 * code m + n0 + m)))

/-- LN_CTL where no lane test may begin (R324, R549): LOOP and PRBS_ON stay where the write would begin one. -/
def fixLnCtl (old new : Word) : Word × List (Nat × Nat) :=
  let loop := fld new.toNat 1 0 != 0 && fld new.toNat 1 0 != fld old.toNat 1 0
  let on := new.getLsbD 6 && !old.getLsbD 6
  let v := if loop then setFld new 1 0 (fld old.toNat 1 0) else new
  (if on then setFld v 6 6 0 else v, if loop || on then [(bSeqFail, 0)] else [])

/-- The value that the RW and RWL fields of a register take, where a rule refuses what was written, and the events of the
refusals (sticky bit, INFO). EN = 0 written to a PNL_ page that is both bound and locked is frozen by its lock: LOCKVIOL alone,
without the SEQ_FAIL of R500 (R549).
DESIGN CHOICE (log 45; unsafe). -/
def State.fix (s : State) (p : PageId) (off : Nat) (w : Write) (old new : Word) : Word × List (Nat × Nat) :=
  let refuse := fun (c : Bool) (sticky info : Nat) => if c then (old, [(sticky, info)]) else (new, [])
  match p.ty with
  | .pnl =>
    if off = 0x08 then
      refuse (w.covers 0 && !w.has 0 && s.f p 0x40 31 31 == 1 && !s.locked p) bSeqFail 0
    else (new, [])
  | .pwr =>
    if off = 0x48 then refuse (!mhzOk (fld new.toNat 10 0)) 12 1
    else if off = 0x4c then refuse (!capOk new.toNat) 12 2
    else (new, [])
  | .thm => if off = 0x64 then refuse (!thmOk new.toNat) 12 0 else (new, [])
  | .gau =>
    if off = 0x40 then refuse (fld new.toNat 1 0 == 3) 13 4
    else if off = 0x70 then refuse (decide (new.toNat < 1024)) 13 3
    else if off = 0x7c then refuse (decide (fld new.toNat 4 0 < 10) || decide (24 < fld new.toNat 4 0)) 13 3
    else (new, [])
  | .trg =>
    if off = 0x800 then refuse (decide (16 < fld new.toNat 4 0)) 12 0
    else if 0x200 ≤ off ∧ off < 0x400 ∧ off % 16 = 8 then refuse (new.getLsbD 11 && new.getLsbD 12) 12 5
    else (new, [])
  | .pin => if 0x44 ≤ off ∧ off < 0x84 then fixPinCfg w off old new else (new, [])
  | .edl =>
    if 0x40 ≤ off ∧ off < 0x50 then fixEdlSrc w off old new
    else if 0x50 ≤ off ∧ off < 0x70 then refuse (decide (383 < fld new.toNat 8 0)) 10 (fld new.toNat 8 0)
    else (new, [])
  | .wd =>
    if 0x400 ≤ off ∧ off < 0x480 ∧ off % 0x20 = 0 then
      refuse (w.has 8 && s.reg64 p (off + 8) == 0) bSeqFail 0
    else if off = 0x48 then refuse (decide (fld new.toNat 4 0 < 8) || decide (20 < fld new.toNat 4 0)) bSeqFail 0
    else (new, [])
  | .ln => if off = 0x40 && !lnTestOk s (p.inst / 9) then fixLnCtl old new else (new, [])
  | _ => (new, [])

/-! ### The common header -/

/-- A W1C write of PG_STICKY (R44): bits set in the same period stay. -/
def clearSticky (s : State) (p : PageId) (x : Word) : State :=
  let fresh := (List.range 32).foldl (fun a b =>
    if s.fresh p b then a + 2 ^ b else a) 0
  s.setReg p 0x10 (s.reg p 0x10 &&& ~~~(x &&& ~~~BitVec.ofNat 32 fresh))

/-- A write of 1 to PG_FIRST.VALID (R43), with the line addresses of a VNR_ page (R285). -/
def clearFirst (s : State) (p : PageId) : State :=
  let t := (s.setReg p 0x18 (s.reg p 0x1c)).setReg p 0x1c 0
  let t := if s.fresh p 5 then t.mark p 4 else t
  if p.ty = .vnr then (t.setReg64 p 0x58 (s.reg64 p 0x60)).setReg64 p 0x60 0 else t

/-- A write of 1 to PG_SECOND.VALID (R43). -/
def clearSecond (s : State) (p : PageId) : State :=
  let t := s.setReg p 0x1c 0
  if p.ty = .vnr then t.setReg64 p 0x60 0 else t

/-- A write of 1 to PG_CTL.SRST (R46, R47), under the lock as it stood before the write. -/
def softReset (s : State) (p : PageId) (wasLocked : Bool) : State :=
  if wasLocked then s
  else if s.st p = stOff then pageReset s p
  else raise s p bSeqFail 0

/-- PG_CTL has been written: EN, then SRST, then LOCK (R548). -/
def ctlWritten (s : State) (p : PageId) (w : Write) (oldEn wasLocked : Bool) : State :=
  let s := enWritten s p oldEn
  let s := if w.has 1 then softReset s p wasLocked else s
  if w.has 2 then s.setF p 0x08 2 2 1 else s

/-! ### Effects of block registers -/

/-- A write of the upper register of a quantity that is written in halves, with the half that is held (R335, R336). -/
def State.whole (s : State) (p : PageId) (off : Nat) (hi : Word) : Nat := hi.toNat * 2 ^ 32 + (s.heldLow p off).toNat
def dropLow (s : State) (p : PageId) (off : Nat) : State :=
  s.withLows (Tab.set (fun _ => none) s.lows (regKey p off) none)
def holdLow (s : State) (p : PageId) (off : Nat) (v : Word) : State :=
  s.withLows (Tab.set (fun _ => none) s.lows (regKey p off) (some v))

/-- Quantities whose lower register holds its half until the upper one is written (R335, R336, R365, R455). -/
def splitLow (p : PageId) (off : Nat) : Bool :=
  match p.ty with
  | .gau => off == 0x50 || off == 0x60 || off == 0x68 || off == 0x74
  | .pin => decide (0x100 ≤ off) && decide (off < 0x120) && off % 8 == 0
  | _ => false

/-- The upper register of such a quantity is written. The lower halves of GAU_ADJ and GAU_SET stay as they were written last. -/
def splitHigh (s : State) (p : PageId) (off : Nat) (v : Word) : State :=
  let lo := off - 4
  match p.ty with
  | .gau =>
    let n := s.whole p lo v
    let t := dropLow s p lo
    if lo = 0x50 then t.setReg64 p 0x50 (n % 2 ^ 40)
    else if lo = 0x60 then gauAdjust s p.inst n
    else if lo = 0x68 then gauSetValue s p.inst n
    else if n % 2 ^ 40 < 10 * 2 ^ 32 then gauCfgErr t p.inst 3
    else t.setReg64 p 0x74 (n % 2 ^ 40)
  | _ => writePinTime s p.inst ((lo - 0x100) / 8) v

/-- Is the register the upper half of such a quantity? -/
def splitUpper (p : PageId) (off : Nat) : Bool := decide (4 ≤ off) && splitLow p (off - 4)

/-- A write of 0 to CLP_HOST_HOLD while a partial image commits during a hold, or a snapshot or restore runs, waits (R243,
R392). -/
def hostHoldWritten (s : State) : State :=
  if s.f clpPg 0x48 0 0 = 1 then s.withLdr { s.ldr with holdOff := false }
  else if (s.ldSt = ldCommit ∧ s.cycOff = false) ∨ s.snapBusy = true then
    (s.setF clpPg 0x48 0 0 1).withLdr { s.ldr with holdOff := true }
  else s

/-- BND_CTL, BND_MESH_CTL, BND_INJ and BND_TS_ACK commands (R323, R325, R319, R329). -/
def bndWritten (s : State) (b off : Nat) (w : Write) (old : Word) : State :=
  let p := bndPg b
  if off = 0x40 then
    let s := if old.getLsbD 8 = (s.reg p 0x40).getLsbD 8 then s else trainEnWritten s b
    let s := if w.has 0 then bndRetrain s b else s
    if w.has 1 then bndFailover s b else s
  else if off = 0x5c then (if w.has 3 then injArm s b else s)
  else if off = 0x80 then (if s.reg p 0x80 = old then s else clkChanged s)
  else if off = 0xc0 then
    let s := if w.has 8 then meshSend s b else s
    if w.has 9 then meshPop s b else s
  else if off = 0x104 then (if w.has 0 then s.setF p 0x100 24 24 0 else s)
  else s

/-- PIN_ registers with an effect (R456-R463). -/
def pinWritten (s : State) (p : Nat) (off : Nat) (w : Write) (old : Word) (oldFn : Nat → Nat) : State :=
  if 0x44 ≤ off ∧ off < 0x84 then
    let i := 32 * p + 2 * ((off - 0x44) / 4)
    edgeSources (fnWritten (fnWritten s i (fld old.toNat 7 0) (oldFn i)) (i + 1) (fld old.toNat 23 16) (oldFn (i + 1)))
  else if off = 0xc0 then (if w.covers 0 then uartSend s p (BitVec.ofNat 8 w.x.toNat) else s)
  else if off = 0xc8 then (if w.has 0 then uartDrop s p else s)
  else if off = 0xd0 then
    (if fld w.x.toNat 12 8 = 0 then s else i2cStart s p (BitVec.ofNat 13 w.x.toNat))
  else if off = 0xe0 ∨ off = 0xe4 then gpioWritten s p w.mask
  else if off = 0xf8 then (if w.mask = 0 then s else writeLockKey s w.rq p w.x)
  else if off = 0xfc then (if w.mask = 0 then s else writeLock s w.rq p w.x)
  else s

/-- LDR_CTL and LDR_KEY_CTL commands (R221, R225, R238). -/
def ldrWritten (s : State) (off : Nat) (w : Write) : State :=
  if off = 0x40 then
    let s := if w.has 0 then ldrGo s else s
    let s := if w.has 1 then ldrEnd s else s
    let s := if w.has 2 then ldrAbort s else s
    if w.has 3 then ldrCommit s else s
  else if off = 0x74 then
    let slot := s.f ldrPg 0x74 1 0
    let s := if w.has 8 then keyBurn s slot else s
    let s := if w.has 9 then keySlotRetire s slot else s
    let s := if w.has 10 then battWrite s else s
    let s := if w.has 11 then battClear s else s
    if fld w.x.toNat 11 8 = 0 then s else clearKeyData s
  else if 0x80 ≤ off ∧ off < 0xa0 then
    let i := (off - 0x80) / 4
    let m := (w.mask.setWidth 256) <<< (32 * i)
    s.withLdr { s.ldr with keyData := (s.ldr.keyData &&& ~~~m) ||| ((w.x.setWidth 256) <<< (32 * i)) }
  else s

/-- VNR_ commands (R256, R263, R265-R267). -/
def vnrWritten (s : State) (k off : Nat) (w : Write) (old : Word) : State :=
  let p := vnrPg k
  if off = 0x40 then
    let id := s.f p 0x40 3 0
    let s := if w.has 8 then keyGenerate s id else s
    let s := if w.has 9 then keyFlush s id else s
    if w.has 10 then keyRetire s id else s
  else if off = 0x48 then (if w.has 8 then sealStart s k (s.f p 0x48 3 0) (w.has 9) else s)
  else if 0x100 ≤ off ∧ off < 0x300 ∧ off % 0x20 = 0 then
    let i := (off - 0x100) / 0x20
    match old.getLsbD 0, (s.reg p off).getLsbD 0 with
    | false, true => enableRegion s k i
    | true, false => disableRegion s k i
    | _, _ => s
  else s

/-- GAU_CTL and GAU_EVT_CTL (R341, R346, R354). A write that reaches SRC, EDGE or FALL counts also where it changes nothing. -/
def gauWritten (s : State) (k off : Nat) (w : Write) (old : Word) : State :=
  if off = 0x40 then
    (if !s.locked (gauPg k) && ((w.covers 0 && fld w.x.toNat 1 0 != 3) || (w.covers 8 && !w.covers 0)) then
      sourceWritten s k
    else s)
  else if off = 0xc0 then
    match old.getLsbD 0, s.evtArm k with
    | false, true => gauArm s k
    | true, false => gauDisarm s k
    | _, _ => s
  else s

/-- TRG_, CAP_, MEAS_ and TRC_ registers with an effect. -/
def trgWritten (s : State) (off : Nat) (w : Write) (old : Word) : State :=
  if off = 0x40 then (if !old.getLsbD 0 && s.f trgPg 0x40 0 0 == 1 then trgArm s else s)
  else if off = 0x800 then
    (if (w.covers 0 && decide (16 < fld w.x.toNat 4 0)) = true then s
    else if s.f trgPg 0x800 16 16 = 1 ∧ w.covers 16 = true ∨ w.covers 0 = true then blocksAfresh s
    else s)
  else s
def capWritten (s : State) (off : Nat) (w : Write) (old : Word) : State :=
  if off = 0x40 then
    let s := if !old.getLsbD 0 && s.f capPg 0x40 0 0 == 1 then capArm s else s
    let s := if w.has 8 then snapStart s else s
    if w.has 9 then restoreStart s else s
  else s
def measWritten (s : State) (k off : Nat) (old : Word) : State :=
  if off = 0x40 ∧ old.getLsbD 0 = false ∧ s.f (measPg k) 0x40 0 0 = 1 then measArm s k else s
def trcWritten (s : State) (c off : Nat) (w : Write) (old : Word) : State :=
  if off = 0x40 then
    let k := s.core c
    let s :=
      match old.getLsbD 0, s.f (trcPg c) 0x40 0 0 == 1 with
      | false, true => traceRun s c k.pc k.machine
      | true, false => traceStop s c k.pc k.machine
      | _, _ => s
    if w.has 8 && s.f (trcPg c) 0x40 5 4 == 3 then traceTrigger s c k.pc k.machine else s
  else s

/-- RPR_CMD (R525). -/
def rprWritten (s : State) (off : Nat) (w : Write) : State :=
  if off = 0x50 ∧ w.has 31 = true then firmwareMark s (fld w.x.toNat 9 8) (fld w.x.toNat 7 0) else s

/-- CLP_ registers with an effect (R156, R170, R243). -/
def clpWritten (s : State) (off : Nat) (w : Write) : State :=
  if off = 0x48 then (if w.covers 0 then hostHoldWritten s else s)
  else if off = 0x54 then
    let s := if w.has 4 then releaseTrigStop s else s
    let s := if w.has 5 then releaseStopif s else s
    if w.has 7 then releaseFault s else s
  else s

/-- CC_ALARM_ACK of the core itself, and HST_ALARM_ACK (R418, R482): an alarm of the same period keeps the latch. -/
def ackAlarm (s : State) (i : Nat) : State :=
  if s.recent.contains alarmMark then s else s.withAlarms (Tab.set (fun _ => false) s.alarms i false)

/-- CC_ and WD_ registers with an effect (R418, R420, R426, R428, R429). -/
def ccWritten (s : State) (c off : Nat) (w : Write) : State :=
  if off = 0x74 then (if w.has 0 && w.rq == .core c then ackAlarm s c else s)
  else if off = 0x80 then settlePreempt s
  else if off = 0xac then (if w.mask = 0 then s else commitPost s (.core c))
  else if off = 0xc0 then wdDone s c w.x.toNat
  else s
def wdWritten (s : State) (off : Nat) (w : Write) : State :=
  if off = 0x6c then (if w.mask = 0 then s else commitPost s .host)
  else if 0x400 ≤ off ∧ off < 0x480 ∧ off % 0x20 = 0 then
    if w.covers 8 && !(w.has 8 && s.reg64 wdPg (off + 8) == 0) then delayWritten s ((off - 0x400) / 0x20) else s
  else if off < 0x200 then settlePreempt s
  else s

/-- Writes to a post window that is busy are ignored, with SEQ_FAIL (R420). -/
def State.windowShut (s : State) (p : PageId) (off : Nat) : Bool :=
  match p.ty with
  | .wd => decide (0x60 ≤ off) && decide (off < 0x70) && windowBusy s .host
  | .cc => decide (0xa0 ≤ off) && decide (off < 0xb0) && windowBusy s (.core p.inst)
  | _ => false

/-- HST_ registers with an effect (R482, R483, R487). -/
def hstWritten (s : State) (off : Nat) (w : Write) : State :=
  if off = 0x4c then s.setReg hstPg 0x48 (s.reg hstPg 0x48 ||| w.x)
  else if off = 0x50 then (if w.has 0 then ackAlarm s 8 else s)
  else if off = 0x54 then
    match w.rq with
    | .core _ => if w.covers 0 then vectorEvent s (fld w.x.toNat 6 0) else s
    | _ => s
  else if off = 0x58 then
    if w.rq = .host ∧ w.covers 0 = true ∧ s.vectorConds.getLsbD (fld w.x.toNat 6 0) = true then
      vectorEvent s (fld w.x.toNat 6 0)
    else if w.rq = .host ∧ w.covers 0 = true ∧ s.hst.conds.getLsbD (fld w.x.toNat 6 0) = true then
      s.withHst { s.hst with rearms := s.hst.rearms ||| BitVec.ofNat 128 (2 ^ fld w.x.toNat 6 0) }
    else s
  else s

/-- The node and first destination of a route register (R440); none where no interface has it. -/
def routeNode (inst off : Nat) : Option (Nat × Nat) :=
  let i := (off - 0x100) / 4
  if inst = 0 then ((List.range 16).find? (fun n => stopOfNode n == some (i / 4))).map (fun n => (n, 16 * (i % 4)))
  else if 2 ≤ inst ∧ i / 4 < 3 then some (32 + 4 * (inst - 2) + i / 4, 16 * (i % 4))
  else none

/-- A route register has been written (R436): entries that change stay in force as they were until their update. -/
def ringWritten (s : State) (inst off : Nat) (old : Word) : State :=
  if 0x100 ≤ off then
    match routeNode inst off with
    | none => s
    | some (n, d0) =>
      (List.range 16).foldl (fun s i =>
        let k := n * 64 + d0 + i
        let o := fld old.toNat (2 * i + 1) (2 * i)
        if o ≠ s.f (ringPg inst) off (2 * i + 1) (2 * i) ∧ Tab.get (fun _ => none) s.oldRoutes k = none then
          s.withOldRoutes (Tab.set (fun _ => none) s.oldRoutes k (some (BitVec.ofNat 2 o)))
        else s) s
  else s

/-- What a write of a block register does beyond its fields (R548): commands in ascending bit order. -/
def blockWritten (s : State) (p : PageId) (off : Nat) (w : Write) (old : Word) (oldFn : Nat → Nat)
    (f : Option StartupFindings) : State :=
  match p.ty with
  | .die => if off = 0x44 ∧ w.has 0 = true then retrain s (pageDie p) else s
  | .hst => hstWritten s off w
  | .pwr =>
    if off = 0x40 then (if w.covers 0 then powerRequest s w.rq (fld w.x.toNat 2 0) else s)
    else if off = 0x48 then (if s.reg p 0x48 = old then s else stepClkChanged s)
    else if off = 0x58 then (if w.has 31 then s.setReg p 0x58 0 else s)
    else s
  | .thm => if off = 0x6c ∧ w.has 31 = true then s.setReg p 0x6c 0 else s
  | .drw =>
    if off = 0x40 then (if w.has 0 then drawerCommit s else s)
    else if off = 0x4c then (if w.mask = 0 then s else drwRst s w.rq w.x f)
    else s
  | .rpr => rprWritten s off w
  | .clp => clpWritten s off w
  | .ldr => ldrWritten s off w
  | .vnr => vnrWritten s p.inst off w old
  | .bnd => bndWritten s p.inst off w old
  | .ln =>
    if off = 0x40 then
      let s := if s.reg p 0x40 = old then s else lnTestWritten s (p.inst / 9) (p.inst % 9)
      if w.has 8 then lnInject s (p.inst / 9) (p.inst % 9) else s
    else s
  | .gau => gauWritten s p.inst off w old
  | .trg => trgWritten s off w old
  | .cap => capWritten s off w old
  | .meas => measWritten s p.inst off old
  | .trc => trcWritten s p.inst off w old
  | .cc => ccWritten s p.inst off w
  | .wd => wdWritten s off w
  | .ring => ringWritten s p.inst off old
  | .pin => pinWritten s p.inst off w old oldFn
  | .edl => if 0x40 ≤ off ∧ off < 0x50 then edgeSources s else s
  | .pnl | .dvt | .mq | .cyc => s

/-! ### The write -/

/-- The bits that a write may change: RW and RWL fields, less what is frozen. -/
def State.open_ (s : State) (p : PageId) (off : Nat) : Word :=
  (regMask p.ty p.inst off .rw ||| regMask p.ty p.inst off .rwl) &&&
    ~~~(s.lockMask p off ||| (s.freezes p off).foldl (fun a f => a ||| f.bits) 0)

/-- The fields RW and RWL that the write would change, frozen or not (R549). -/
def State.wanted (s : State) (p : PageId) (off : Nat) (w : Write) : Word :=
  (s.reg p off ^^^ w.val) &&& w.mask &&& (regMask p.ty p.inst off .rw ||| regMask p.ty p.inst off .rwl)

/-- RSVD of a write that carries a 1 into a reserved bit (R8). -/
def rsvdEvents (p : PageId) (off : Nat) (w : Write) : List (Nat × Nat) :=
  if w.x &&& ~~~definedMask p.ty p.inst off != 0 then [(bRsvd, writeInfo w.rq off)] else []

/-- RSVD, LOCKVIOL and the events of the other freezes that a write records (R8, R47, R549), judged before it. A write of
a locked page that both changes a frozen field and carries SRST records LOCKVIOL once: R47 names one event for either.
DESIGN CHOICE (log 43; unsafe). -/
def State.writeEvents (s : State) (p : PageId) (off : Nat) (w : Write) : List (Nat × Nat) :=
  let want := s.wanted p off w
  rsvdEvents p off w ++
    (if want &&& s.lockMask p off != 0 || off == 0x08 && w.has 1 && s.locked p then [(bLockviol, writeInfo w.rq off)]
    else []) ++
    ((s.freezes p off).filter (fun f => want &&& f.bits != 0)).map (fun f => (f.sticky, f.info))

/-- TRC_AUTH (R398): only a control core in machine mode may write it. -/
def authDenied (p : PageId) (off : Nat) (w : Write) : Bool :=
  match w.rq with
  | .core _ => p.ty == .trc && off == 0x48 && !w.machine && w.mask != 0
  | _ => p.ty == .trc && off == 0x48 && w.mask != 0

/-- The fields and the commands of a write of a register that the page's table has (R7, R548): the value that its RW and
RWL fields take, then its commands. -/
def applyWrite (s : State) (p : PageId) (off : Nat) (w : Write) (v : Word) (f : Option StartupFindings) : State :=
  let old := s.reg p off
  if off < 0x40 then
    match off with
    | 0x08 => ctlWritten (s.setReg p 0x08 (v &&& 5)) p w (old.getLsbD 0) (s.locked p)
    | 0x10 => clearSticky s p w.x
    | 0x18 => if w.has 31 then clearFirst s p else s
    | 0x1c => if w.has 31 then clearSecond s p else s
    | _ => s.setReg p off v
  else
    let w1c := regMask p.ty p.inst off .w1c &&& w.x
    blockWritten (s.setReg p off (v &&& ~~~w1c)) p off w old s.pinFn f

/-- A write of a register that the page's table has (R7, R8, R548, R549): its fields, its commands, and then what it
records of reserved and frozen fields and of values that a rule refuses. -/
def writeField (s : State) (p : PageId) (off : Nat) (w : Write) (f : Option StartupFindings) : State :=
  let old := s.reg p off
  let can := s.open_ p off &&& w.mask
  let (v, evs) := s.fix p off w old ((old &&& ~~~can) ||| (w.val &&& can))
  raiseAll (applyWrite s p off w v f) p (s.writeEvents p off w ++ evs)

/-- The MSI-X table entry v has been written: a message that waits goes out where it may (R483). -/
def releaseVector (s : State) (v : Nat) : State :=
  if s.msixOpen v && s.hst.pba.getLsbD v then vectorEvent s v else s

/-- A write into the MSI-X table (R484). The reserved bits of an entry read 0; a 1 written into one is ignored and sets no RSVD
(R8).
PRESUMED (log 37; unsafe). DESIGN CHOICE (log 45; unsafe). -/
def writeMsix (s : State) (off : Nat) (w : Write) : State :=
  if off < 0x800 then s
  else
    let v := (off - 0x800) / 16
    let e := s.msixEntry v
    let n := (s.msixWord off &&& ~~~w.mask) ||| w.x
    let e : MsixEntry := match off / 4 % 4 with
      | 0 => { e with addr := BitVec.ofNat 64 (e.addr.toNat / 2 ^ 32 * 2 ^ 32 + n.toNat / 4 * 4) }
      | 1 => { e with addr := BitVec.ofNat 64 (n.toNat * 2 ^ 32 + e.addr.toNat % 2 ^ 32) }
      | 2 => { e with data := n }
      | _ => { e with ctl := n &&& 1 }
    releaseVector (s.withHst { s.hst with table := Tab.set (fun _ => ⟨0, 0, 1⟩) s.hst.table v e }) v

/-- A write at an offset that the page's table does not have (R31): a window, or a reserved offset. -/
def writeWindow (s : State) (p : PageId) (off : Nat) (be : BitVec 4) (w : Write) : State :=
  let rsvd := if w.x = 0 then s else raise s p bRsvd (writeInfo w.rq off)
  match p.ty with
  | .drw => if 0x800 ≤ off ∧ off < 4096 then drawerWindow s w.rq off be w.val else rsvd
  | .trc => if 0x800 ≤ off ∧ off < 4096 then s else rsvd
  | .hst => if 0x700 ≤ off ∧ off < 0x710 ∨ 0x800 ≤ off ∧ off < 4096 then writeMsix s off w else rsvd
  | _ => rsvd

/-- The requester exists. -/
def rqOk (rq : Requester) : Bool :=
  match rq with
  | .core c => decide (c < 8)
  | _ => true

/-- A register write (R31, R33, R548), at the word that holds the offset, as it completes. -/
def writeAt (s : State) (rq : Requester) (p : PageId) (off : Nat) (be : BitVec 4) (v : Word)
    (machine : Bool := true) (f : Option StartupFindings := none) : State :=
  let off := off / 4 * 4
  let w : Write := ⟨rq, machine, beMask be, v⟩
  if !rqOk rq || w.mask = 0 then s
  else if !pageExists p || decide (4096 ≤ off) then (if w.x = 0 then s else raise s hstPg bRsvd (writeInfo rq off))
  else
    match regSpec p.ty p.inst off with
    | none => writeWindow s p off be w
    | some _ =>
      if authDenied p off w then raiseAll s p (rsvdEvents p off w ++ [(12, rqCode rq * 2 ^ 20)])
      else if s.windowShut p off then raise s p bSeqFail 0
      else if p.ty = .ldr ∧ off = 0x68 then writeWrPtr s ((s.reg p off &&& ~~~w.mask) ||| w.x)
      else if splitLow p off then holdLow s p off ((s.heldLow p off &&& ~~~w.mask) ||| w.x)
      else if splitUpper p off then raiseAll (splitHigh s p off ((s.reg p off &&& ~~~w.mask) ||| w.x)) p (s.writeEvents p off w)
      else writeField s p off w f

/-- A register write: one of a GAU_ page's own registers takes effect at the next tick (R334). -/
def writeReg (s : State) (rq : Requester) (p : PageId) (off : Nat) (be : BitVec 4) (v : Word)
    (machine : Bool := true) (f : Option StartupFindings := none) : State :=
  let t := writeAt s rq p off be v machine f
  if p.ty = .gau ∧ 0x40 ≤ off then keepTick s t p.inst else t

/-- A broadcast write (R53-R55); a reserved type code names no page (R31). -/
def writeAll (s : State) (rq : Requester) (code off : Nat) (be : BitVec 4) (v : Word) (machine : Bool := true) : State :=
  match pageOfCode code with
  | none => if v &&& beMask be = 0 then s else raise s hstPg bRsvd (writeInfo rq (off / 4 * 4))
  | some _ => (s.addressed rq code).foldl (fun s p => writeReg s rq p off be v machine) s

/-! ### What can be reached, and the commands -/

/-- The registers that the always-on domain serves to the host in Retain and Dormant, and from a wake from Dormant to the
end of start-up (R496). -/
def servedAsleep (p : PageId) (off : Nat) : Bool :=
  off == 0x0c || p == pwrPg && (off == 0x40 || off == 0x44 || off == 0x50 || off == 0x54 || off == 0x58)

/-- The always-on domain alone serves the host. -/
def State.aoServes (s : State) : Bool :=
  !s.pwr.off && (decide (3 ≤ s.pst) || s.pwr.starting && s.f drwPg 0x50 3 0 == 2)

/-- A register access by a requester reaches its page: the device runs, or the always-on domain serves it. -/
def State.reaches (s : State) (rq : Requester) (p : PageId) (off : Nat) : Bool :=
  s.refRuns || rq == .host && s.aoServes && servedAsleep p (off / 4 * 4)

/-- The mode in which a requester acts: a core's own. -/
def State.modeOf (s : State) (rq : Requester) : Bool :=
  match rq with
  | .core c => (s.core c).machine
  | _ => true

/-- A register write that a requester makes. -/
def regWrite (s : State) (rq : Requester) (p : PageId) (off : Nat) (be : BitVec 4) (v : Word)
    (f : Option StartupFindings := none) : State :=
  if s.reaches rq p off then writeReg s rq p off be v (s.modeOf rq) f else s

/-- A full-width write of a register. -/
def regPut (s : State) (rq : Requester) (p : PageId) (off v : Nat) : State :=
  regWrite s rq p off 15 (BitVec.ofNat 32 v)

end Sys2Proof.Machine
end

