-- ==== Sys2Proof/Machine/Commit.lean ====
section
/-! DEFINITION. The commit of an image (R110, R121, R184, R203-R210, R241-R245, R358, R552), the translation of
forerunner images, and the ends of snapshots and restores (R391-R394). -/
namespace Sys2Proof.Machine

/-- The default of a routing table: no source (R124, R134). -/
def noSource : Nat → BitVec 13 := fun _ => 8191

/-- Put a list of entries into a store. -/
def putAll {β : Type} [DecidableEq β] (d : Nat → β) (t : Tab β) (es : List (Nat × β)) : Tab β :=
  es.foldl (fun t e => Tab.set d t e.1 e.2) t

/-! ### Translation (R206-R208) -/

/-- The IK7264 value of an operand of virtual Panel half h: a P-space or D-space index moves into its half (R207). -/
def foreOpd (h x : Nat) : Nat :=
  if x / 4096 = 1 then 4096 + (32 * h + x % 4096) % 4096
  else if x / 4096 = 2 then 2 * 4096 + (16 * h + x % 4096) % 4096
  else x

/-- A word translated: the operands of its opcode (R73, R207). OPD of EVALC is one, also where the Dowel is no chain head; OPD of
opcodes 3 to 9 is a selector; the opcodes that read no operand have none. -/
def foreWord (h w : Nat) : Nat :=
  let op := wOp (BitVec.ofNat 80 w)
  let n := if op = 0 ∨ 10 ≤ op then 0 else if op ≤ 2 then 4 else 3
  let put := fun (w lo : Nat) => w / 2 ^ (lo + 14) * 2 ^ (lo + 14) + foreOpd h (w / 2 ^ lo % 2 ^ 14) * 2 ^ lo + w % 2 ^ lo
  ((List.range n).map (fun i => 14 * i)).foldl put w

/-- The frames of a type for a logical Panel, with the half that each serves (0 in a native image). -/
def Image.panelFrames (i : Image) (ty g p : Nat) : List (Nat × Frame) :=
  if i.fore then
    (i.ofTy ty).filterMap (fun f => if f.panel / 2 = p then some (f.panel % 2, f) else none)
  else ((i.ofTy ty).filter (fun f => f.group == g && f.panel == p)).map (fun f => (0, f))

/-- Logical Panel p of a forerunner image has no odd virtual Panel (R208). -/
def Image.halfPanel (i : Image) (p : Nat) : Bool := i.fore && i.v == 2 * p + 1

/-- The instruction words that an image gives a logical Panel: key and word. -/
def Image.panelWords (i : Image) (g p : Nat) : List (Nat × BitVec 80) :=
  (i.panelFrames 1 g p).flatMap (fun hf => (frameWords i.fore hf.2).map (fun e =>
    if i.fore then ((32 * hf.1 + e.2.1) * 4096 + e.1, BitVec.ofNat 80 (foreWord hf.1 e.2.2))
    else (e.2.1 * 4096 + e.1, BitVec.ofNat 80 e.2.2))) ++
  (if i.halfPanel p then
    (List.range 32).flatMap (fun k => (List.range i.n).map (fun st => ((32 + k) * 4096 + st, (0 : BitVec 80))))
  else [])

/-- The Value Store slots that hold 1, where the image supplies the Panel's Value Store. -/
def Image.panelSlots (i : Image) (g p : Nat) : Option (List (Nat × Bool)) :=
  let fs := i.panelFrames 2 g p
  if fs.isEmpty then none
  else
    let per := if i.fore then 256 else 512
    some (fs.flatMap (fun hf => hf.2.data.zipIdx.flatMap (fun e =>
      ((List.range 8).filter (fun b => e.1.testBit b)).map (fun b =>
        ((32 * hf.1 + e.2 / per) * 4096 + 8 * (e.2 % per) + b, true)))))

/-- The Panel RAM words that the image supplies.
DEDUCED (log 24; unsafe). -/
def Image.panelRam (i : Image) (g p : Nat) : List (Nat × BitVec 64) :=
  (i.panelFrames 3 g p).flatMap (fun hf =>
    (List.range hf.2.count).map (fun k => (hf.2.first + k, BitVec.ofNat 64 (at_ hf.2.data (8 * k) 8))))

/-- Entry e of a row of 6-bit entries (R123, R215). -/
def entry6 (row : List Nat) (e : Nat) : Nat := at_ row (6 * e / 8) 2 / 2 ^ (6 * e % 8) % 64

/-- The Egress Map entries that the image gives a logical Panel. -/
def Image.panelEgress (i : Image) (g p : Nat) : List (Nat × BitVec 6) :=
  (i.panelFrames 4 g p).flatMap (fun hf =>
    (frameRows hf.2 (unitOf i.fore 4)).zipIdx.flatMap (fun r =>
      (List.range (if i.fore then 16 else 32)).map (fun e =>
        ((hf.2.first + r.2) * 32 + 16 * hf.1 + e, BitVec.ofNat 6 (32 * hf.1 + entry6 r.1 e))))) ++
  (if i.halfPanel p then
    (List.range i.n).flatMap (fun r => (List.range 16).map (fun e => (r * 32 + 16 + e, (0 : BitVec 6))))
  else [])

/-- Crossbar entries: key (group * 4096 + row) * 6144 + destination (R124, R207). Of two route entries that name one
destination of one row, the later is the one written.
DESIGN CHOICE (log 43; unsafe). -/
def Image.xbarEntries (i : Image) : List (Nat × BitVec 13) :=
  if i.fore then
    (routeEntries i).filterMap (fun e =>
      let row := fld e 15 0 + 2
      if row < i.n then
        some (row * 6144 + 16 * fld e 39 32 + fld e 43 40, BitVec.ofNat 13 (16 * fld e 23 16 + fld e 27 24))
      else none)
  else
    (i.ofTy 5).flatMap (fun f => (frameRows f 9984).zipIdx.flatMap (fun r =>
      (List.range 6144).map (fun d => ((f.group * 4096 + f.first + r.2) * 6144 + d, BitVec.ofNat 13 (entry13 r.1 d)))))

/-- Bundle slot map entries: key row * 4736 + destination (R134). -/
def Image.slotEntries (i : Image) : List (Nat × BitVec 13) :=
  if i.fore then []
  else
    (i.ofTy 6).flatMap (fun f => (frameRows f 7696).zipIdx.flatMap (fun r =>
      (List.range 4736).map (fun d => ((f.first + r.2) * 4736 + d, BitVec.ofNat 13 (entry13 r.1 d)))))

/-- The 16-bit entries of a device-wide frame from a byte offset. -/
def halves (data : List Nat) (off n : Nat) : List (Nat × BitVec 16) :=
  (List.range n).map (fun k => (k, BitVec.ofNat 16 (at_ data (off + 2 * k) 2)))

/-! ### What a commit writes -/

/-- The items that an image supplies for a Panel, written into a physical Panel; a full image writes all of Panel RAM
(R110, R184, R244). Every word written carries fresh check bits (R59, R109). -/
def loadPanel (x : Panel) (i : Image) (g p : Nat) : Panel :=
  let ws := i.panelWords g p
  let ram := i.panelRam g p
  let x := { x with
    is := putAll (zeroAt 80) x.is ws
    isErr := ws.foldl (fun t e => Tab.set (fun _ => EccClass.clean) t e.1 EccClass.clean) x.isErr
    egress := putAll (zeroAt 6) x.egress (i.panelEgress g p)
    ram := putAll (zeroAt 64) (if i.full then [] else x.ram) ram
    ramErr := if i.full then [] else
      ram.foldl (fun t e => Tab.set (fun _ => EccClass.clean) t e.1 EccClass.clean) x.ramErr
    scrubFound := if ws.isEmpty then x.scrubFound else false }
  match i.panelSlots g p with
  | none => x
  | some es =>
    let t := putAll (fun _ => false) [] es
    { x with vs := t, vsBad := [], sh := t, shBad := [] }

/-- A write of the loader over the ring (R431): one that finds no route is not performed (R437). One that finds no free response
buffer waits at its source until the oldest quarantine of a buffer of the loader has ended (R434, R437): COMMIT_END stands for the
whole course of the commit, that wait included.
DESIGN CHOICE (log 36; unsafe). -/
def ldrWrite (s : State) (p : PageId) (off : Nat) (bytes : List Nat) (act : State → State) : State :=
  (tripWrite (s.awaitBuffer 10) 10 (nodeOfPage p) (pageAddr p + off) bytes clearTrip act).2

/-- The loader writes a register. -/
def ldrPut (s : State) (p : PageId) (off v : Nat) : State :=
  ldrWrite s p off (bytesLE 4 v) (fun s => writeReg s .loader p off 15 (BitVec.ofNat 32 v))

/-- The same where the write is the loader's own: what holds a requester's write back does not hold it. -/
def ldrSet (s : State) (p : PageId) (off v : Nat) : State :=
  ldrWrite s p off (bytesLE 4 v) (fun s => s.setReg p off (BitVec.ofNat 32 v))

/-- The loader writes a field of a register, and the register's other bits as they stand. -/
def ldrSetF (s : State) (p : PageId) (off hi lo v : Nat) : State := ldrSet s p off (setFld (s.reg p off) hi lo v).toNat

/-- The loader writes PG_CTL.EN of a page. -/
def ldrEn (s : State) (p : PageId) (en : Bool) : State :=
  ldrWrite s p 8 [bit en] (fun s => writeReg s .loader p 0x08 1 (BitVec.ofNat 32 (bit en)))

/-- Bind logical Panel p of group g to a physical Panel in the binding registers (R121, R140, R143). -/
def bindOne (s : State) (g p ph : Nat) : State :=
  ldrSetF (ldrSet s (pnlPg g ph) 0x40 (2 ^ 31 + p)) (dvtPg g) (0x100 + 4 * (p / 2)) (16 * (p % 2) + 15) (16 * (p % 2))
    (2 ^ 15 + ph)

/-- The binding of a full image for a group: the p-th non-retired Panel in ascending order (R121), and EN of every PNL_
page of the die (R121, R500). -/
def bindGroup (s : State) (g n : Nat) : State :=
  let s := (List.range 132).foldl (fun s ph => ldrSet s (pnlPg g ph) 0x40 0) s
  let s := (List.range 64).foldl (fun s j => ldrSet s (dvtPg g) (0x100 + 4 * j) 0) s
  let ok := ((List.range 132).filter (fun ph => !s.retired g ph)).take n
  let s := ok.zipIdx.foldl (fun s e => bindOne s g e.2 e.1) s
  (List.range 132).foldl (fun s ph => ldrEn s (pnlPg g ph) (ok.contains ph)) s

/-- Write the Panel items of an image into the bound Panels of a group. -/
def loadGroup (s : State) (i : Image) (g : Nat) : State :=
  (List.range (s.ldr.counts.getD g 0)).foldl (fun s p =>
    match s.phys g p with
    | none => s
    | some ph => s.setPanel g ph (loadPanel (s.panel g ph) i g p)) s

/-- The entries of a routing table in rows from N on, which a commit leaves (R184). -/
def keepRows (t : Tab (BitVec 13)) (width n : Nat) : Tab (BitVec 13) :=
  Tab.keep (fun k => decide (n ≤ k / width % 4096)) t

/-- Routing tables, in rows 0 to N-1 (R184, R208). -/
def loadTables (s : State) (i : Image) : State :=
  s.withFab { s.fab with
      xbar := putAll noSource (keepRows s.fab.xbar 6144 i.n) i.xbarEntries
      slots := putAll noSource (keepRows s.fab.slots 4736 i.n) i.slotEntries }

/-- The group needs its crossbar (R552). -/
def groupNeeds (s : State) (i : Image) (g : Nat) : Bool :=
  i.pg g != 0 || s.fab.xbar.any (fun e => e.1 / 6144 / 4096 == g && decide (e.1 / 6144 % 4096 < i.n))

/-- DVT_ pages and DVT_MODE (R210, R552). -/
def loadDvts (s : State) (i : Image) : State :=
  let s := (List.range 4).foldl (fun s g => ldrEn s (dvtPg g) (groupNeeds s i g)) s
  let need := (List.range 4).foldl (fun a g => a + bit (groupNeeds s i g) * 2 ^ g) 0
  let s := s.withLdr { s.ldr with dvts := BitVec.ofNat 4 need }
  if i.fore then ldrSetF s (dvtPg 0) 0x40 0 0 1 else (List.range 4).foldl (fun s g => ldrSetF s (dvtPg g) 0x40 0 0 0) s

/-- The pin map's frame (R446): group and entry with each value; entries 0 to 127 are outputs, the others samples. -/
def pinMapEntries (data : List Nat) : List (Nat × Nat × BitVec 16) :=
  (halves data 0 (512 * 256)).map (fun e => (e.1 / 256, e.1 % 256, e.2))
def outMapOf (data : List Nat) : Tab (BitVec 16) :=
  putAll (zeroAt 16) [] (((pinMapEntries data).filter (fun e => e.2.1 < 128)).map (fun e => (e.1 * 128 + e.2.1, e.2.2)))
def smpMapOf (data : List Nat) : Tab (BitVec 16) :=
  putAll (zeroAt 16) []
    (((pinMapEntries data).filter (fun e => 128 ≤ e.2.1)).map (fun e => (e.1 * 128 + (e.2.1 - 128), e.2.2)))

/-- The pin map (R446). -/
def loadPins (s : State) (data : List Nat) : State :=
  s.withPins { s.pins with outMap := outMapOf data, smpMap := smpMapOf data }

/-- The queue layout (R275, R283). -/
def loadQueues (s : State) (data : List Nat) : State :=
  let s := s.withWinMap (putAll (zeroAt 16) [] (halves data 2048 512))
  (List.range 64).foldl (fun s q =>
    let p := mqPg (q / 16) (q % 16)
    let w := at_ data (32 * q) 4
    let b := at_ data (32 * q + 8) 8
    ldrEn (ldrSet (ldrSet (ldrSet s p 0x40 w) p 0x44 b) p 0x48 (b / 2 ^ 32)) p (w % 2 == 1)) s

/-- One entry of the GAUGE frame (R357, R358).
DESIGN CHOICE (log 23; unsafe). -/
def loadGauge (s : State) (k : Nat) (e : List Nat) : State :=
  let p := gauPg k
  let fl := at_ e 0 1
  let puts := fun (s : State) (l : List (Nat × Nat)) => l.foldl (fun s x => ldrPut s p x.1 x.2) s
  let s :=
    if fl.testBit 0 then
      ldrEn (puts s [(0x40, at_ e 4 4), (0x50, at_ e 8 4), (0x54, at_ e 12 1), (0x70, at_ e 16 4), (0x74, at_ e 20 4),
        (0x78, at_ e 24 1), (0x7c, at_ e 25 1)]) p true
    else s
  let s :=
    if fl.testBit 1 then
      puts s [(0xc0, at_ e 32 4), (0xd8, at_ e 36 4), (0xc8, at_ e 40 4), (0xcc, at_ e 44 4), (0xd0, at_ e 48 4),
        (0xd4, at_ e 52 4)]
    else s
  if fl.testBit 2 then ldrSetF s p 0xc4 2 2 1 else s

/-- The Gauge programming (R358). -/
def loadGauges (s : State) (data : List Nat) : State :=
  let s := (List.range 16).foldl (fun s k => ldrSetF s (gauPg k) 0xc4 2 2 0) s
  (List.range 16).foldl (fun s k => loadGauge s k ((data.drop (64 * k)).take 64)) s

/-- Apply a device-wide frame of a type. -/
def withFrame (s : State) (i : Image) (ty : Nat) (f : State → List Nat → State) : State :=
  match (i.ofTy ty).head? with
  | none => s
  | some x => f s x.data

/-- What the commit of a full image writes beyond Panel items (R121, R144, R184, R244). -/
def commitFull (s : State) (i : Image) : State :=
  let s := s.withLdr { s.ldr with counts := (List.range 4).map i.pg }
  let s := ldrSet s cycPg 0x40 (i.n % 2 ^ 13 + i.s % 2 ^ 10 * 2 ^ 16)
  let s := (List.range 4).foldl (fun s g => bindGroup s g (i.pg g)) s
  let s := loadDvts (loadTables s i) i
  let s := withFrame (withFrame (withFrame s i 7 loadPins) i 8 loadQueues) i 9 loadGauges
  let s := (s.setF ldrPg 0x44 4 4 1).setF ldrPg 0x44 5 5 (bit i.fore)
  s.setF capPg 0x44 10 10 0

/-! ### The commit's beginning and end -/

/-- The condition of R241, with R392: no snapshot or restore runs. -/
def commitMay (s : State) (i : Image) : Bool :=
  !s.snapBusy && (s.cycOff || !i.full && s.f cycPg 0x44 1 1 == 1 && s.f clpPg 0x48 0 0 == 1)

/-- Marks turn into retirements (R48, R527); a page that was on stops. -/
def retireAll (s : State) : State :=
  let m := s.panelsWith s.marked
  let s := retireMarks s
  let s := m.foldl (fun s dp =>
    let p := pnlPg dp.1 dp.2
    let old := s.en p
    enWritten (lockRetired s dp.1 dp.2) p old) s
  retiredEvents s m

/-- COMMIT_BEGIN (R241, R242, R527).
DESIGN CHOICE (log 23; unsafe). -/
def commitBegin (s : State) : State :=
  if s.ldSt = ldCommitWait then
    match s.ldr.image with
    | none => s
    | some i =>
      if !commitMay s i then s
      else
        let s := if i.full then retireAll (s.setF ldrPg 0x44 4 4 0) else s
        s.setLdSt ldCommit
  else s

/-- A write of 0 to CLP_HOST_HOLD that has waited takes effect, once nothing holds it back any more (R243, R392). -/
def endHoldWait (s : State) : State :=
  if s.ldr.holdOff && !s.snapBusy && !(s.ldSt == ldCommit && !s.cycOff) then
    (s.setF clpPg 0x48 0 0 0).withLdr { s.ldr with holdOff := false }
  else s

/-- COMMIT_END (R240, R244, R249).
DESIGN CHOICE (log 23; unsafe). -/
def commitEnd (s : State) : State :=
  if s.ldSt = ldCommit then
    match s.ldr.image with
    | none => s
    | some i =>
      let s := if i.full then commitFull s i else s
      let s := (List.range 4).foldl (fun s g => loadGroup s i g) s
      endHoldWait (finishLoad (chainDone s s.ldPos) 0 0 0 0)
  else s

/-- The loader writes the instruction store of a physical Panel (R139): a commit is under way that gives words to the
logical Panel bound to it, or to be bound to it. -/
def State.loaderWrites (s : State) (die panel : Nat) : Bool :=
  s.ldSt == ldCommit &&
    match s.ldr.image with
    | none => false
    | some i =>
      (List.range (if i.full then i.pg die else s.ldr.counts.getD die 0)).any (fun p =>
        (if i.full then ((List.range 132).filter (fun ph => !s.retired die ph))[p]? else s.phys die p) == some panel &&
          !(i.panelWords die p).isEmpty)

/-! ### The commands -/

/-- SCRUB (R138): while the step clock runs (R493), the Dowels fetch nothing, and the loader does not write the Panel's instruction store (R139). -/
def execScrub (die panel : Nat) (s : State) :=
  done (if s.stepsPass && noFetch s && s.on (pnlPg die panel) && decide (die < 4) && decide (panel < 132) &&
      !s.loaderWrites die panel then scrubPanel s die panel else s)

def execCommitBegin (s : State) := done (commitBegin s)
def execCommitEnd (s : State) := done (commitEnd s)
/-- SNAP_END, RESTORE_PASS_END and RESTORE_END, with R392. -/
def execSnapEnd (s : State) := done (endHoldWait (snapEnd s))
def execRestorePassEnd (s : State) := done (endHoldWait (restorePassEnd s))
def execRestoreEnd (s : State) := done (endHoldWait (restoreEnd s))


/-- The Veneer commands (R254, R263, R266, R267), while the device runs. -/
def execLineAccess (who : VRequester) (line : Nat) (wr : Option (BitVec 512 × BitVec 64)) (s : State) :=
  done (if s.refRuns then
    let (c, t) := lineAccess s who line wr
    if who = .loader ∧ c ≠ 0 then loaderBusError t line else t
  else s)
def execFlushEnd (id : Nat) (s : State) := done (if id < 16 then keyFlushEnd s id else s)
def execRetireEnd (id : Nat) (s : State) := done (if id < 16 then keyRetireEnd s id else s)
def execSealEnd (stack : Nat) (s : State) := done (if stack < 2 then sealFinish s stack else s)

end Sys2Proof.Machine
end

