-- ==== Sys2Proof/Machine/RegCmds.lean ====
section
/-! DEFINITION. The commands that are a write of one register: each gives the register the value that the command
spells, with the register's other fields as they stand. -/
namespace Sys2Proof.Machine

/-- LDR_CTL.SRC, and the RW fields of BND_CTL, in place. -/
def State.ldrFields (s : State) : Nat := 2 ^ 8 * s.f ldrPg 0x40 8 8
def State.bndFields (s : State) (b : Nat) : Nat := 2 ^ 8 * s.f (bndPg b) 0x40 8 8 + 16 * s.f (bndPg b) 0x40 7 4

/-- Word 3 of a post window is written by its source (R420). -/
def postWord (s : State) (w : PostWindow) (v : Word) : State :=
  match w with
  | .host => regWrite s .host wdPg 0x6c 15 v
  | .core c => regWrite s (.core c) (ccPg c) 0xac 15 v

/-- The PIN_CFG half of a pin is written (R444). -/
def pinHalfWrite (s : State) (rq : Requester) (p pin : Nat) (half : BitVec 16) : State :=
  if pin % 2 = 0 then regWrite s rq (portPg p) (0x44 + 4 * (pin / 2)) 3 (half.setWidth 32)
  else regWrite s rq (portPg p) (0x44 + 4 * (pin / 2)) 12 (half.setWidth 32 <<< 16)

/-- REGISTER_WRITE (R548). -/
def execRegisterWrite (rq : Requester) (p : PageId) (off : Nat) (be : BitVec 4) (v : BitVec 32) (s : State) :=
  done (regWrite s rq p off be v)
def execPgCtlEn (rq : Requester) (p : PageId) (en : Bool) (s : State) := done (regPut s rq p 0x08 (bit en))
/-- A write of SRST carries EN as it stands (R46). -/
def execPgCtlSrst (rq : Requester) (p : PageId) (s : State) := done (regPut s rq p 0x08 (2 + bit (s.en p)))
def execPgCtlLock (rq : Requester) (p : PageId) (s : State) := done (regPut s rq p 0x08 (4 + bit (s.en p)))
def execPgStickyClear (rq : Requester) (p : PageId) (v : BitVec 32) (s : State) := done (regWrite s rq p 0x10 15 v)
def execPgFirstClear (rq : Requester) (p : PageId) (s : State) := done (regPut s rq p 0x18 (2 ^ 31))
def execPgSecondClear (rq : Requester) (p : PageId) (s : State) := done (regPut s rq p 0x1c (2 ^ 31))
def execDieLinkRetrain (rq : Requester) (die : Nat) (s : State) := done (regPut s rq (diePg die) 0x44 1)
def execClpHostHold (rq : Requester) (hold : Bool) (s : State) := done (regPut s rq clpPg 0x48 (bit hold))
def execClpReleaseFault (rq : Requester) (s : State) := done (regPut s rq clpPg 0x54 0x80)
def execClpReleaseStopif (rq : Requester) (s : State) := done (regPut s rq clpPg 0x54 0x20)
def execClpReleaseTrigStop (rq : Requester) (s : State) := done (regPut s rq clpPg 0x54 0x10)
def execClpPropWrite (rq : Requester) (max : Bool) (v : BitVec 32) (s : State) :=
  done (regWrite s rq clpPg (if max then 0x44 else 0x40) 15 v)
def execGo (rq : Requester) (s : State) := done (regPut s rq ldrPg 0x40 (s.ldrFields + 1))
def execEndStream (rq : Requester) (s : State) := done (regPut s rq ldrPg 0x40 (s.ldrFields + 2))
def execAbort (rq : Requester) (s : State) := done (regPut s rq ldrPg 0x40 (s.ldrFields + 4))
def execCommit (rq : Requester) (s : State) := done (regPut s rq ldrPg 0x40 (s.ldrFields + 8))
def execSrcSelect (rq : Requester) (src : Bool) (s : State) := done (regPut s rq ldrPg 0x40 (2 ^ 8 * bit src))
def execLdrWrPtrWrite (rq : Requester) (v : BitVec 32) (s : State) := done (regWrite s rq ldrPg 0x68 15 v)
def execBurn (rq : Requester) (slot : BitVec 2) (s : State) := done (regPut s rq ldrPg 0x74 (0x100 + slot.toNat))
def execRetire (rq : Requester) (slot : BitVec 2) (s : State) := done (regPut s rq ldrPg 0x74 (0x200 + slot.toNat))
def execBattWrite (rq : Requester) (s : State) := done (regPut s rq ldrPg 0x74 (0x400 + s.f ldrPg 0x74 1 0))
def execBattClear (rq : Requester) (s : State) := done (regPut s rq ldrPg 0x74 (0x800 + s.f ldrPg 0x74 1 0))
/-- A write of EN with the entry's other fields as they stand (R256). -/
def execRegionEnable (rq : Requester) (stack : Nat) (i : Nat) (s : State) :=
  done (regPut s rq (vnrPg stack) (0x100 + 0x20 * i) (setFld (s.reg (vnrPg stack) (0x100 + 0x20 * i) &&& 0x1fff) 0 0 1).toNat)
def execGenerate (rq : Requester) (id : BitVec 4) (s : State) := done (regPut s rq (vnrPg 0) 0x40 (0x100 + id.toNat))
def execFlush (rq : Requester) (id : BitVec 4) (s : State) := done (regPut s rq (vnrPg 0) 0x40 (0x200 + id.toNat))
def execVnrRetire (rq : Requester) (id : BitVec 4) (s : State) := done (regPut s rq (vnrPg 0) 0x40 (0x400 + id.toNat))
def execSeal (rq : Requester) (stack : Nat) (region : BitVec 4) (zero : Bool) (s : State) :=
  done (regPut s rq (vnrPg stack) 0x48 (0x100 + 0x200 * bit zero + region.toNat))
def execBndRetrain (rq : Requester) (b : Nat) (s : State) := done (regPut s rq (bndPg b) 0x40 (s.bndFields b + 1))
def execFailover (rq : Requester) (b : Nat) (lane : BitVec 4) (s : State) :=
  done (regPut s rq (bndPg b) 0x40 (0x100 * s.f (bndPg b) 0x40 8 8 + 16 * lane.toNat + 2))
def execTrainEn (rq : Requester) (b : Nat) (en : Bool) (s : State) :=
  done (regPut s rq (bndPg b) 0x40 (0x100 * bit en + 16 * s.f (bndPg b) 0x40 7 4))
def execBndInjArm (rq : Requester) (b : Nat) (symbols : BitVec 3) (s : State) :=
  done (regPut s rq (bndPg b) 0x5c (8 + symbols.toNat))
def execLnInj (rq : Requester) (lane : Nat) (s : State) :=
  done (regPut s rq ⟨.ln, lane⟩ 0x40 (0x100 + (s.reg ⟨.ln, lane⟩ 0x40 &&& 0x73).toNat))
def execLnTestWrite (rq : Requester) (lane : Nat) (loop : BitVec 2) (prbs : BitVec 2) (prbsOn : Bool) (s : State) :=
  done (regPut s rq ⟨.ln, lane⟩ 0x40 (loop.toNat + 16 * prbs.toNat + 64 * bit prbsOn))
def execMeshSend (rq : Requester) (b : Nat) (tag : BitVec 4) (s : State) :=
  done (regPut s rq (bndPg b) 0xc0 (0x100 + tag.toNat))
def execMeshPop (rq : Requester) (b : Nat) (s : State) :=
  done (regPut s rq (bndPg b) 0xc0 (0x200 + s.f (bndPg b) 0xc0 3 0))
def execBndTsAck (rq : Requester) (b : Nat) (s : State) := done (regPut s rq (bndPg b) 0x104 1)
def execBndClkWrite (rq : Requester) (mode : Bool) (upstream : BitVec 3) (s : State) :=
  done (regPut s rq bnd0 0x80 (bit mode + 16 * upstream.toNat))
/-- The write of the upper register (R335). -/
def execGauInc (rq : Requester) (k : Nat) (v : BitVec 32) (s : State) := done (regWrite s rq (gauPg k) 0x54 15 v)
def execGauAdj (rq : Requester) (k : Nat) (v : BitVec 32) (s : State) := done (regWrite s rq (gauPg k) 0x64 15 v)
def execGauSet (rq : Requester) (k : Nat) (v : BitVec 32) (s : State) := done (regWrite s rq (gauPg k) 0x6c 15 v)
def execGauCtlSrc (rq : Requester) (k : Nat) (src : BitVec 2) (edge : BitVec 5) (fall : Bool) (s : State) :=
  done (regPut s rq (gauPg k) 0x40 (src.toNat + 16 * edge.toNat + 512 * bit fall))
def execGauEvtArm (rq : Requester) (k : Nat) (arm : Bool) (s : State) :=
  done (regPut s rq (gauPg k) 0xc0 ((s.reg (gauPg k) 0xc0 &&& 0x1f6).toNat + bit arm))
def execTrgCtlArm (rq : Requester) (arm : Bool) (s : State) := done (regPut s rq trgPg 0x40 (bit arm))
def execCapCtlArm (rq : Requester) (arm : Bool) (s : State) :=
  done (regPut s rq capPg 0x40 (bit arm + 2 * s.f capPg 0x40 1 1))
def execMeasCtlArm (rq : Requester) (k : Nat) (arm : Bool) (s : State) :=
  done (regPut s rq (measPg k) 0x40 ((s.reg (measPg k) 0x40 &&& 0x3f3f3f1e).toNat + bit arm))
def execTrgActCtlWrite (rq : Requester) (v : BitVec 32) (s : State) := done (regWrite s rq trgPg 0x800 15 v)
def execSnap (rq : Requester) (s : State) := done (regPut s rq capPg 0x40 (0x100 + s.f capPg 0x40 1 0))
def execRestore (rq : Requester) (s : State) := done (regPut s rq capPg 0x40 (0x200 + s.f capPg 0x40 1 0))
def execTrcCtlRun (rq : Requester) (c : Nat) (run : Bool) (s : State) :=
  done (regPut s rq (trcPg c) 0x40 ((s.reg (trcPg c) 0x40 &&& 0x3e).toNat + bit run))
def execTrcCtlTrig (rq : Requester) (c : Nat) (s : State) :=
  done (regPut s rq (trcPg c) 0x40 (0x100 + (s.reg (trcPg c) 0x40 &&& 0x3f).toNat))
def execTrcAuth (rq : Requester) (c : Nat) (m : Bool) (s : State) := done (regPut s rq (trcPg c) 0x48 (bit m))
def execCcMsip (rq : Requester) (c : Nat) (v : Bool) (s : State) := done (regPut s rq (ccPg c) 0x50 (bit v))
def execCcIrqLocSelect (rq : Requester) (c : Nat) (src : BitVec 6) (s : State) :=
  done (regPut s rq (ccPg c) 0x70 src.toNat)
def execCcAlarmAck (c : Nat) (s : State) := done (regPut s (.core c) (ccPg c) 0x74 1)
/-- POST (R420): the write of word 3 of a post window. -/
def execPost (w : PostWindow) (word3 : BitVec 32) (s : State) := done (postWord s w word3)
def execCcWdDone (rq : Requester) (c : Nat) (v : BitVec 3) (s : State) := done (regPut s rq (ccPg c) 0xc0 v.toNat)
def execDelayListEnable (rq : Requester) (k : Nat) (en : Bool) (gauge : BitVec 4) (s : State) :=
  done (regPut s rq wdPg (0x400 + 0x20 * k) (0x100 * bit en + gauge.toNat))
def execPinBankVsel (rq : Requester) (p : Nat) (vsel : BitVec 2) (s : State) :=
  done (regPut s rq (portPg p) 0x40 vsel.toNat)
def execPinCfgWrite (rq : Requester) (p : Nat) (pin : BitVec 5) (half : BitVec 16) (s : State) :=
  done (pinHalfWrite s rq p pin.toNat half)
/-- The write of the upper register (R455). -/
def execPinTimeWrite (rq : Requester) (p : Nat) (which : BitVec 2) (hi : BitVec 32) (s : State) :=
  done (regWrite s rq (portPg p) (0x104 + 8 * which.toNat) 15 hi)
def execGpioWrite (rq : Requester) (p : Nat) (oe : Bool) (be : BitVec 4) (v : BitVec 32) (s : State) :=
  done (regWrite s rq (portPg p) (if oe then 0xe4 else 0xe0) be v)
def execUartTxWrite (rq : Requester) (p : Nat) (b : BitVec 8) (s : State) := done (regPut s rq (portPg p) 0xc0 b.toNat)
def execUartPop (rq : Requester) (p : Nat) (s : State) := done (regPut s rq (portPg p) 0xc8 1)
def execI2cCmd (rq : Requester) (p : Nat) (v : BitVec 13) (s : State) := done (regPut s rq (portPg p) 0xd0 v.toNat)
def execPinLockKey (rq : Requester) (p : Nat) (v : BitVec 32) (s : State) := done (regWrite s rq (portPg p) 0xf8 15 v)
def execPinLock (rq : Requester) (p : Nat) (mask : BitVec 32) (s : State) := done (regWrite s rq (portPg p) 0xfc 15 mask)
def execHstAlarmAck (rq : Requester) (s : State) := done (regPut s rq hstPg 0x50 1)
def execHstMsixSend (rq : Requester) (v : BitVec 7) (s : State) := done (regPut s rq hstPg 0x54 v.toNat)
def execHstRearm (rq : Requester) (v : BitVec 7) (s : State) := done (regPut s rq hstPg 0x58 v.toNat)
def execHstDoorbellSet (rq : Requester) (v : BitVec 32) (s : State) := done (regWrite s rq hstPg 0x4c 15 v)
def execRequestHold (rq : Requester) (s : State) := done (regPut s rq pwrPg 0x40 1)
def execRequestIdle (rq : Requester) (s : State) := done (regPut s rq pwrPg 0x40 2)
def execRequestRetain (rq : Requester) (s : State) := done (regPut s rq pwrPg 0x40 3)
def execRequestDormant (rq : Requester) (s : State) := done (regPut s rq pwrPg 0x40 4)
def execPwrStepClk (rq : Requester) (mhz : BitVec 11) (s : State) := done (regPut s rq pwrPg 0x48 mhz.toNat)
def execThmLimitWrite (rq : Requester) (v : BitVec 32) (s : State) := done (regWrite s rq thmPg 0x64 15 v)
def execDrwRst (rq : Requester) (v : BitVec 32) (p : StartupFindings) (s : State) :=
  done (regWrite s rq drwPg 0x4c 15 v (some p))
def execDrawerCommit (rq : Requester) (s : State) := done (regPut s rq drwPg 0x40 (1 + 0x100 * s.f drwPg 0x40 8 8))
/-- DRAWER_WINDOW_WRITE (R518): an offset of the window, 0x800 to 0xFFF. -/
def execDrawerWindowWrite (rq : Requester) (off : Nat) (be : BitVec 4) (v : BitVec 32) (s : State) :=
  done (regWrite s rq drwPg (0x800 + off % 0x800) be v)
def execMark (rq : Requester) (die : Nat) (panel : Nat) (s : State) :=
  done (regPut s rq rprPg 0x50 (2 ^ 31 + die % 4 * 2 ^ 8 + panel % 256))

/-! ### Reads, and broadcasts (R34, R53-R56) -/

/-- LOWER_HALF_READ (R34): a register read, whose value goes to its requester. -/
def execLowerHalfRead (rq : Requester) (p : PageId) (off : Nat) (s : State) :=
  done (if rqOk rq && s.reaches rq p off then
    let (v, s) := readBy s rq p (off / 4 * 4)
    s.send (.regData rq v)
  else s)
def execBroadcastRead (rq : Requester) (code off : Nat) (s : State) :=
  done (if rqOk rq && s.refRuns then s.send (.regData rq (s.readAll rq code (off / 4 * 4))) else s)
def execBroadcastWrite (rq : Requester) (code off : Nat) (be : BitVec 4) (v : BitVec 32) (s : State) :=
  done (if s.refRuns then writeAll s rq code off be v (s.modeOf rq) else s)

end Sys2Proof.Machine
end

