-- ==== Sys2Proof/Machine/Ring.lean ====
section
/-! DEFINITION. Requests of the control cores on the ring network (R431-R437): each is performed at its destination node,
answered, and completes at its core. -/
namespace Sys2Proof.Machine

/-- The request that holds a response buffer. -/
def State.request (s : State) (src tag : Nat) : Option RingReq := s.net.find? (fun r => r.src == src && r.tag == tag)

/-- Replace it. -/
def State.setRequest (s : State) (src tag : Nat) (f : RingReq → RingReq) : State :=
  s.withNet (s.net.map (fun r => if r.src = src ∧ r.tag = tag then f r else r))

/-- Free its buffer. -/
def State.dropRequest (s : State) (src tag : Nat) : State :=
  s.withNet (s.net.filter (fun r => !(r.src == src && r.tag == tag)))

/-- Requests of one interface to one node are performed in the order they were sent (R436): the request is the oldest that
still waits. -/
def State.isOldest (s : State) (r : RingReq) : Bool :=
  (s.net.find? (fun q => q.src == r.src && q.dst == r.dst && q.stage == .sent)).map RingReq.tag == some r.tag

/-- The rings that a request crosses carry flits (R437). -/
def State.ringsOn (s : State) (r : RingReq) : Bool :=
  s.refRuns && s.on (ringPg r.ring) && s.dieRingOn r.src && s.dieRingOn r.dst

/-! ### Performing a request (R410, R412, R433) -/

/-- The byte enables of an access of n bytes within its 4-byte word, and its data in place. -/
def accessBe (a n : Nat) : BitVec 4 := BitVec.ofNat 4 ((2 ^ n - 1) * 2 ^ (a % 4))
def accessWord (a v : Nat) : Word := BitVec.ofNat 32 (v * 2 ^ (8 * (a % 4)))

/-- The answer to a read of n bytes of an SRAM word: its error class goes with it, and an uncorrectable word carries no data
(R412). The STATUS codes of R433 name no SRAM error.
DESIGN CHOICE (log 36; unsafe). -/
def sramAnswer (w : Word) (e : EccClass) (a n : Nat) : RingStage :=
  .answered 0 0 e (if e = .uncorrectable then [] else bytesLE n (wordBytes w a n))

/-- A READ at its destination. -/
def performRead (s : State) (r : RingReq) : RingStage × State :=
  if r.dst < 8 then
    let (w, e) := s.sramWord r.dst r.addr
    (sramAnswer w e r.addr r.bytes, s)
  else if r.dst = 8 ∧ r.addr < 0x400000 then
    let (w, e) := s.sharedWord r.addr
    (sramAnswer w e r.addr r.bytes, s)
  else if r.dst = 8 then
    (.answered 0 0 .clean ((List.range r.bytes).map (fun i => (Config.bootRom (r.addr - 0x20000000 + i)).toNat)), s)
  else if r.dst = 12 ∨ r.dst = 13 then
    let (cls, bs, s) := vnrRead s (.core r.src) r.addr r.bytes
    (if cls = 0 then .answered 0 0 .clean bs else .answered 1 cls .clean [], s)
  else
    match bar0At r.addr with
    | .page p off =>
      let (v, s) := readBy s r.rq p (off / 4 * 4)
      (.answered 0 0 .clean (bytesLE r.bytes (wordBytes v off r.bytes)), s)
    | _ => (.answered 0 0 .clean (bytesLE r.bytes 0), s)

/-- The answer to a write of n bytes of an SRAM word: a partial write of an uncorrectable word fails (R412).
DESIGN CHOICE (log 36; unsafe). -/
def sramAck (e : EccClass) (n : Nat) : RingStage :=
  .answered 0 0 (if n < 4 then e else .clean) []

/-- A WRITE at its destination. -/
def performWrite (s : State) (r : RingReq) : RingStage × State :=
  let v := numLE r.data
  if r.dst < 8 then (sramAck (s.sramWord r.dst r.addr).2 r.bytes, writeSram s r.dst r.addr r.bytes v)
  else if r.dst = 8 then (sramAck (s.sharedWord r.addr).2 r.bytes, writeShared s r.addr r.bytes v)
  else if r.dst = 12 ∨ r.dst = 13 then
    let (cls, s) := vnrWrite s (.core r.src) r.addr r.data (2 ^ r.bytes - 1)
    (.answered (if cls = 0 then 0 else 1) cls .clean [], s)
  else
    match bar0At r.addr with
    | .page p off => (.answered 0 0 .clean [], writeReg s r.rq p off (accessBe off r.bytes) (accessWord off v) r.machine)
    | .bcast _ off | .nowhere off =>
      (.answered 0 0 .clean [], if v = 0 then s else raise s hstPg bRsvd (writeInfo r.rq (off / 4 * 4)))

/-- A BCAST_WRITE (R54): performed in every addressed instance. -/
def performBcastWrite (s : State) (r : RingReq) : RingStage × State :=
  match bar0At r.addr with
  | .bcast code off =>
    (.answered 0 0 .clean [], writeAll s r.rq code off (accessBe off r.bytes) (accessWord off (numLE r.data)) r.machine)
  | _ => (.answered 0 0 .clean [], s)

/-- A BCAST_READ (R56). -/
def performBcastRead (s : State) (r : RingReq) : RingStage × State :=
  match bar0At r.addr with
  | .bcast code off => (.answered 0 0 .clean (bytesLE r.bytes (wordBytes (s.readAll r.rq code (off / 4 * 4)) off r.bytes)), s)
  | _ => (.answered 0 0 .clean (bytesLE r.bytes 0), s)

/-- An AMO, LR or SC on shared SRAM: the old word, or the result of SC. -/
def performAmo (s : State) (r : RingReq) : RingStage × State :=
  let a := 0x10000000 + r.addr
  let v := BitVec.ofNat 32 (numLE r.data)
  if r.amo = 3 then
    if r.live ∧ (s.core r.src).resv = some a then
      (.answered 0 0 .clean (bytesLE 4 0), setResv (writeShared s r.addr 4 v.toNat) r.src 3 a)
    else (.answered 0 0 .clean (bytesLE 4 1), if r.live then setResv s r.src 3 a else s)
  else
    let (w, e) := s.sharedWord r.addr
    (sramAnswer w e r.addr 4,
      if e = .uncorrectable then s
      else if r.amo = 2 then (if r.live then setResv s r.src 2 a else s)
      else writeShared s r.addr 4 (amoResult r.amo w v).toNat)

/-- A unit of H that makes each of its accesses within one command (node 9, 10, 11 or 15). -/
def isUnit (src : Nat) : Bool := src == 9 || src == 10 || src == 11 || src == 15

/-- A row of the ring network tells what the next request that a unit makes with a response buffer will meet, or its answer;
or that its header has waited. A buffer that a quarantine holds tells nothing.
DESIGN CHOICE (log 36; unsafe). -/
def foretell (s : State) (src tag op : Nat) (g : RingReq → RingReq) : State :=
  match s.request src tag with
  | none =>
    if tag < buffersOf src then
      s.withNet (s.net ++ [g ⟨src, tag, op, 64, 0, 0, [], 0, .host, true, 0, 0, 0, false, false, .ahead .none .none false, 0⟩])
    else s
  | some r => if r.isAhead then s.setRequest src tag g else s

/-- What a request that is still to be made meets on its way; what its answer meets; that the answer comes too late. -/
def RingReq.meets (o : RingFault) (r : RingReq) : RingReq :=
  match r.stage with
  | .ahead _ b l => { r with stage := .ahead o b l }
  | _ => r
def RingReq.answerMeets (b : RingFault) (r : RingReq) : RingReq :=
  match r.stage with
  | .ahead o _ l => { r with stage := .ahead o b l }
  | _ => r
def RingReq.comesLate (r : RingReq) : RingReq :=
  match r.stage with
  | .ahead o b _ => { r with stage := .ahead o b true }
  | _ => r

/-- A request packet reaches its destination and is performed there; or a flit of the packet fails parity at a stop and the
packet is dropped (R437). -/
def deliver (s : State) (op src tag : Nat) (fault : RingFault) (act : State → RingReq → RingStage × State) : State :=
  if isUnit src then (if fault = .none then s else foretell s src tag op (RingReq.meets fault)) else
  match s.request src tag with
  | none => s
  | some r =>
    if r.op = op ∧ r.stage = .sent ∧ s.isOldest r = true ∧ s.ringsOn r = true then
      match fault with
      | .parity ring stop =>
        (flitError s r.src r.dst r.ring ring stop r.code).setRequest src tag (fun r => { r with stage := .lost })
      | .none =>
        let (a, s) := act s r
        s.setRequest src tag (fun r => { r with stage := a })
    else s

/-! ### Answers (R411, R412, R434) -/

/-- The sticky bit of an answer at the core (R412): SRAM_CE or SRAM_UE, RING_TMO or BUS_ERR. -/
def answerEvent (s : State) (c status cls : Nat) (e : EccClass) : State :=
  if status = 0 then sramEvent s c e else busEvent s c (if status = 4 then 9 else 8) status cls

/-- A store that the core had left to the ring has failed: its access fault is taken now, or once the core's instruction in
hand is over. A sleeping core wakes for it. -/
def lateFault (s : State) (c a : Nat) : State :=
  if (s.core c).wait.isSome then s.onCore c (fun k => { k with fault := some (BitVec.ofNat 32 a) })
  else
    let s := if s.ccSts c 0 then traceWake (s.setCcSts c 0 false) c (s.core c).pc (s.core c).machine else s
    exception s c 7 (BitVec.ofNat 32 a)

/-- An answer is good: STATUS OK, and no uncorrectable word. -/
def answerOk (status : Nat) (e : EccClass) : Bool := status == 0 && e != .uncorrectable

/-- An access completes at its core with a STATUS, a Veneer class, the error class of an SRAM word, and data. -/
def completeAt (s : State) (r : RingReq) (status cls : Nat) (e : EccClass) (data : List Nat) : State :=
  let c := r.src
  let ok := answerOk status e
  if !r.live then s
  else
    let s := answerEvent s c status cls e
    if r.op = 2 ∨ r.op = 3 then (if ok then s else lateFault s c r.at_)
    else
      match (s.core c).wait with
      | some (.load rd n signed a len) =>
        if ok then loadDone s c rd n signed a len (numLE data) else exception s c 5 (BitVec.ofNat 32 a)
      | some (.amo rd op a len v) =>
        if ok then amoDone s c rd op a len v (BitVec.ofNat 32 (numLE data))
        else exception s c (if op = 2 then 5 else 7) (BitVec.ofNat 32 a)
      | some (.fetch a) =>
        if ok then s.onCore c (fun k => { k with wait := none, fetched := (a / 4, BitVec.ofNat 32 (numLE data)) :: k.fetched })
        else exception s c 1 (BitVec.ofNat 32 a)
      | none => s

/-- A response reaches the response buffer of its requester: it completes the access and frees the buffer, or is
discarded where the buffer is in quarantine (R437); or a flit of it fails parity and it is dropped. `kind` tells the answers
that the packet carries: the OP of the request, and whether the answer is good. -/
def respond (s : State) (src : Nat) (a : RingAnswer) (kind : Nat → Bool → Bool) : State :=
  let tag := a.tag
  match s.request src tag with
  | none => if isUnit src = true ∧ a.fault ≠ .none then foretell s src tag 0 (RingReq.answerMeets a.fault) else s
  | some r =>
    match r.stage with
    | .answered status cls e data =>
      if kind r.op (answerOk status e) = true ∧ s.refRuns = true then
        match s.route r.dst src with
        | none => s
        | some k =>
          let s := countFlits s r.dst src k (r.answer k (answerOk status e) status cls data).length
          let gone := fun (s : State) => s.setRequest src tag (fun r => { r with stage := .lost })
          match a.fault with
          | .parity ring stop => gone (flitError s r.dst src k ring stop r.code)
          | .none =>
            if r.quar then
              raise ((gone s).bump (ringPg r.ring) 0x4c 31 0) (ringPg r.ring) 12 (stopInfo src r.code)
            else completeAt (s.dropRequest src tag) r status cls e data
      else s
    | .ahead _ _ _ => if a.fault = .none then s else foretell s src tag 0 (RingReq.answerMeets a.fault)
    | _ => s

/-- The answers of each response packet. -/
def isData (op : Nat) (ok : Bool) : Bool := ok && (op == 1 || op == 4 || op == 5)
def isAck (op : Nat) (ok : Bool) : Bool := ok && (op == 2 || op == 3)
def isErr (_ : Nat) (ok : Bool) : Bool := !ok

/-- RING_TIMEOUT (R437). -/
def ringTimeout (s : State) (src tag : Nat) : State :=
  if isUnit src then foretell s src tag 0 RingReq.comesLate else
  match s.request src tag with
  | none => s
  | some r =>
    if r.quar || !s.refRuns then s
    else
      let s := s.setRequest src tag (fun r => { r with quar := true, live := false })
      completeAt (ringTimedOut s src r.ring r.code) r 4 0 .clean []

/-- The header that waits is that of the answer: of a request that is performed, or, of a unit's next request, as the row says. -/
def RingReq.atAnswer (r : RingReq) (answer : Bool) : Bool :=
  match r.stage with
  | .answered _ _ _ _ => true
  | .ahead _ _ _ => answer
  | _ => false

/-- URG of the header that waits, and its rise by one. -/
def RingReq.urgency (r : RingReq) (answer : Bool) : Nat := if r.atAnswer answer then r.backUrg else r.urg
def RingReq.rises (answer : Bool) (r : RingReq) : RingReq :=
  if r.atAnswer answer then { r with backUrg := r.backUrg + 1 } else { r with urg := r.urg + 1 }

/-- URGENCY_RISE (R435): the header has waited 256 periods at a point; at 7 the ring concerned reports it. -/
def urgencyRise (s : State) (src : Nat) (h : RingHeader) (ring stop : Nat) : State :=
  let tag := h.tag
  let s := if isUnit src then foretell s src tag 0 id else s
  match s.request src tag with
  | none => s
  | some r =>
    if r.stage = .lost ∨ 6 ≤ ring ∨ 7 ≤ r.urgency h.answer then s
    else
      let s := s.setRequest src tag (RingReq.rises h.answer)
      if r.urgency h.answer = 6 then
        raise (s.bump (ringPg ring) 0x44 31 0) (ringPg ring) 11 (r.code * 2 ^ 20 + stop % 64)
      else s

/-- ROUTE_TABLE_UPDATE (R436). -/
def routeUpdate (s : State) (node dst : Nat) : State :=
  if (s.outstanding node).any (fun r => r.dst == dst) then s
  else s.withOldRoutes (Tab.set (fun _ => none) s.oldRoutes (node * 64 + dst) none)

/-! ### The commands -/

def execRead (src tag : Nat) (fault : RingFault) (s : State) := done (deliver s 1 src tag fault performRead)
def execWrite (src tag : Nat) (fault : RingFault) (s : State) := done (deliver s 2 src tag fault performWrite)
def execBcastWrite (src tag : Nat) (fault : RingFault) (s : State) := done (deliver s 3 src tag fault performBcastWrite)
def execBcastRead (src tag : Nat) (fault : RingFault) (s : State) := done (deliver s 4 src tag fault performBcastRead)
def execAmo (src tag : Nat) (fault : RingFault) (s : State) := done (deliver s 5 src tag fault performAmo)
def execRspData (src : Nat) (a : RingAnswer) (s : State) := done (respond s src a isData)
def execRspAck (src : Nat) (a : RingAnswer) (s : State) := done (respond s src a isAck)
def execRspErr (src : Nat) (a : RingAnswer) (s : State) := done (respond s src a isErr)
def execRingTimeout (src tag : Nat) (s : State) := done (ringTimeout s src tag)
def execUrgencyRise (src : Nat) (header : RingHeader) (ring stop : Nat) (s : State) := done (urgencyRise s src header ring stop)
def execRouteTableUpdate (node dst : Nat) (s : State) := done (routeUpdate s node dst)

end Sys2Proof.Machine
end

