-- ==== Sys2Proof/Machine/HostLink.lean ====
section
/-! DEFINITION. The host link (R469-R487): BAR0 and BAR2 requests, resets of the link, MSI-X. -/
namespace Sys2Proof.Machine

/-! ### BAR0 (R473, R476, R477) -/

/-- BAR0_ERR with a STATUS. -/
def bar0Err (s : State) (status addr : Nat) : State := raise s hstPg 10 (status * 2 ^ 16 + addr % 4096)

/-- A completion for a read; a posted write has none. -/
def complete (s : State) (wr : Bool) (status : Nat) (data : List Nat) : State :=
  if wr then s else s.send (s.tlp (.completion status data))

/-- A request is answered as Unsupported Request, or discarded as one (R473, R478). -/
def unsupported (s : State) (wr : Bool) : State := logUnsupported (complete s wr 1 []) wr

/-- A read completes with Completer Abort (R475, R476, R478); a posted write has no completion. -/
def aborted (s : State) (wr : Bool) : State := if wr then s else aerAdvises (complete s false 4 []) aerAbort

/-- The function answers memory requests: it is in D0, Memory Space Enable is 1, no function-level reset runs, the link is up. -/
def State.fnOpen (s : State) : Bool := s.inD0 && s.memSpace && !s.hst.flr && !s.hst.linkReset && !s.pwr.off

/-- A memory request comes over the link (R471, R478, R485): none comes while the link or the function is reset. The function
takes it where it is open for it. In Retain, Dormant and start-up a request that it does not take leaves no record (R496, R514). -/
def hostArrives (s : State) (wr : Bool) (f : TlpFault) (takes : Bool) (act : State → State) : State :=
  if s.pwr.off || s.hst.linkReset || s.hst.flr then s
  else
    match linkTakes s f with
    | (false, s) => s
    | (true, s) => if takes then act s else if s.refRuns then unsupported s wr else complete s wr 1 []

/-- A link in ASPM L1 leaves it for a request and rests in it again when the request is over; when the link counts as idle is
not given.
DESIGN CHOICE (log 37; unsafe). -/
def inL0 (s : State) (act : State → State) : State :=
  if s.aspmL1 && decide (s.pst < 3) && !s.pwr.starting then
    let s := act (s.setF hstPg 0x44 16 16 0)
    showL1 s s.heldInL1
  else act s

/-- The part of a request in one 32-bit register: its byte enables, and its value in place. `i` is the register's place in
the aligned 8-byte block. -/
def partBe (addr len i : Nat) : BitVec 4 := BitVec.ofNat 4 ((2 ^ len - 1) * 2 ^ (addr % 8) / 2 ^ (4 * i))
def partWord (addr : Nat) (data : BitVec 64) (i : Nat) : Word :=
  BitVec.ofNat 32 (data.toNat * 2 ^ (8 * (addr % 8)) / 2 ^ (32 * i))

/-- The host writes one register, or the broadcast window, or a reserved address (R31, R53). -/
def hostWrite (s : State) (a : Nat) (be : BitVec 4) (v : Word) : State :=
  if be = 0 then s
  else
    match bar0At a with
    | .page p off => writeReg s .host p off be v
    | .bcast code off => writeAll s .host code off be v
    | .nowhere off => if v &&& beMask be = 0 then s else raise s hstPg bRsvd (writeInfo .host off)

/-- The host reads one register. -/
def hostRead (s : State) (a : Nat) : Word × State :=
  match bar0At a with
  | .page p off => readBy s .host p (off / 4 * 4)
  | .bcast code off => (s.readAll .host code (off / 4 * 4), s)
  | .nowhere _ => (0, s)

/-- The registers of a request, in ascending offset: those of the block whose bytes it touches. -/
def parts (addr len : Nat) : List Nat := [0, 1].filter (fun i => partBe addr len i != 0)

/-- Carry out a request that the rules admit: the bytes of a read.
DESIGN CHOICE (log 36; unsafe). -/
def hostAccess (s : State) (wr : Bool) (addr len : Nat) (data : BitVec 64) : List Nat × State :=
  let base := addr / 8 * 8
  if wr then
    ([], (parts addr len).foldl (fun s i => hostWrite s (base + 4 * i) (partBe addr len i) (partWord addr data i)) s)
  else
    let (v, s) := (parts addr len).foldl (fun (acc : Nat × State) i =>
      let (w, s) := hostRead acc.2 (base + 4 * i)
      (acc.1 + w.toNat * 2 ^ (32 * i), s)) (0, s)
    (bytesLE len (v / 2 ^ (8 * (addr % 8))), s)

/-- The always-on domain serves a request in Retain and Dormant (R496). -/
def State.servesAsleep (_s : State) (addr len : Nat) : Bool :=
  decide (1 ≤ len) && decide (addr % 8 + len ≤ 8) &&
    (parts addr len).all (fun i =>
      match bar0At (addr / 8 * 8 + 4 * i) with
      | .page p off => servedAsleep p off
      | _ => false)

/-- The OP of a BAR0 request's packet (R433). -/
def bar0Op (wr : Bool) (addr : Nat) : Nat :=
  match bar0At addr with
  | .bcast _ _ => if wr then 3 else 4
  | _ => if wr then 2 else 1

/-- A BAR0 request is carried out (R473, R476): a write that the ring completes with STATUS 3 or 4 is discarded. -/
def bar0Perform (s : State) (op : HostAccess) (addr len : Nat) (data : BitVec 64) : State :=
  let q := s.unitReq 9 (nodeOfBar0 addr) (bar0Op op.wr addr) addr len (if op.wr then bytesLE len data.toNat else [])
  match tripGo s q op.trip with
  | (.goes k, s) =>
    let (v, s) := hostAccess s op.wr addr len data
    complete (tripEnd s q k 0 0 v) op.wr 0 v
  | (.fails st, s) => bar0Err (aborted s op.wr) st addr

/-! ### BAR2 (R474, R475) -/

/-- The lines of a BAR2 read, `fuel` at most, while a response buffer is free (R434, R474): where it stands and the bytes still
to be read; the first failing class and the bytes read, zeros for a line that failed. What befalls the packets befalls those of
the first line. -/
def bar2ReadRun : Nat → Nat → Nat → HostTrip → Nat × List Nat × State → (Nat × Nat) × Nat × List Nat × State
  | 0, addr, n, _, acc => ((addr, n), acc)
  | fuel + 1, addr, n, t, acc =>
    if n = 0 ∨ acc.2.2.bufferFree 9 = false then ((addr, n), acc)
    else
      let k := min n (64 - addr % 64)
      let (c, bs, s) := netRead acc.2.2 .host addr k t
      bar2ReadRun fuel (addr + k) (n - k) clearTrip (if acc.1 = 0 then c else acc.1, acc.2.1 ++ bs, s)

/-- The lines of a BAR2 write: a line that fails stays unchanged, and those behind it are written (R475). -/
def bar2WriteRun : Nat → Nat → List Nat → HostTrip → Nat × State → (Nat × List Nat) × Nat × State
  | 0, addr, bs, _, acc => ((addr, bs), acc)
  | fuel + 1, addr, bs, t, acc =>
    if bs.isEmpty ∨ acc.2.bufferFree 9 = false then ((addr, bs), acc)
    else
      let k := min bs.length (64 - addr % 64)
      let (c, s) := netWrite acc.2 .host addr (bs.take k) (2 ^ k - 1) t
      bar2WriteRun fuel (addr + k) (bs.drop k) clearTrip (if acc.1 = 0 then c else acc.1, s)

/-- A BAR2 request that is performed ends: a read completes, and a failure is recorded. -/
def bar2ReadEnd (s : State) (cls : Nat) (bs : List Nat) : State :=
  if cls = 0 then complete s false 0 bs else raise (aborted s false) hstPg 8 (clsInfo cls)
def bar2WriteEnd (s : State) (cls : Nat) : State := if cls = 0 then s else raise s hstPg 9 (clsInfo cls)

/-- What is left of a request waits ahead of those that wait. -/
def waitFirst (s : State) (r : HostReq) : State := s.withHst { s.hst with waits := r :: s.hst.waits }

/-- A BAR2 read is carried out, as far as there are free response buffers.
DESIGN CHOICE (log 36; unsafe). -/
def bar2ReadPerform (s : State) (addr n : Nat) (t : HostTrip) (cls : Nat) (got : List Nat) : State :=
  match bar2ReadRun (n / 64 + 2) addr n t (cls, got, s) with
  | ((_, 0), c, bs, s) => bar2ReadEnd s c bs
  | ((a, m), c, bs, s) => waitFirst s (.read a m clearTrip c bs)

/-- A BAR2 write is carried out, as far as there are free response buffers.
DESIGN CHOICE (log 36; unsafe). -/
def bar2WritePerform (s : State) (addr : Nat) (data : List Nat) (t : HostTrip) (cls : Nat) : State :=
  match bar2WriteRun (data.length / 64 + 2) addr data t (cls, s) with
  | ((_, []), c, s) => bar2WriteEnd s c
  | ((a, bs), c, s) => waitFirst s (.write a bs clearTrip c)

/-! ### Requests on the ring network (R434, R477) -/

/-- A request of the host is carried out. -/
def hostPerform (s : State) (r : HostReq) : State :=
  match r with
  | .bar0 op addr len data => bar0Perform s op addr len data
  | .read addr n trip cls got => bar2ReadPerform s addr n trip cls got
  | .write addr data trip cls => bar2WritePerform s addr data trip cls

/-- It finds a free response buffer and is carried out, or it waits at its source behind those that wait (R434, R477). -/
def hostSend (s : State) (r : HostReq) : State :=
  if s.hst.waits.isEmpty && s.bufferFree 9 then hostPerform s r
  else s.withHst { s.hst with waits := s.hst.waits ++ [r] }

/-- Requests that wait are carried out in order while a response buffer is free, `fuel` of them at most. -/
def hostResume : Nat → State → State
  | 0, s => s
  | fuel + 1, s =>
    match s.hst.waits with
    | [] => s
    | r :: rest => if s.bufferFree 9 then hostResume fuel (hostPerform (s.withHst { s.hst with waits := rest }) r) else s

/-- BUFFER_QUARANTINE_END (R437): the buffer may be used again, and what waited for one goes on. -/
def quarantineEnd (s : State) (src tag : Nat) : State :=
  match s.request src tag with
  | some r =>
    if r.quar then
      let s := s.dropRequest src tag
      if src = 9 then hostResume s.hst.waits.length s
      else if src = 10 ∧ s.refRuns = true then pump s
      else if src = 11 then putRecords s.wd.held.length s
      else s
    else s
  | none => s

/-- BAR0_REQUEST (R473, R476, R496). A poisoned write is discarded (R478).
PRESUMED (log 37; unsafe). -/
def bar0Request (s : State) (op : HostAccess) (addr len : Nat) (data : BitVec 64) : State :=
  let addr := addr % 2 ^ 26
  hostArrives s op.wr op.trip.link (s.fnOpen && (if s.aoServes then s.servesAsleep addr len else s.refRuns)) (fun s =>
    if op.wr && op.poisoned then aerUncorrectable (s.send .poisonedTlp) aerPoisoned
    else if s.aoServes then
      let (v, s) := hostAccess s op.wr addr len data
      complete s op.wr 0 v
    else if len = 0 ∨ 8 < addr % 8 + len then bar0Err (unsupported s op.wr) 0xf addr
    else hostSend s (.bar0 op addr len data))

/-- BAR2_READ: at an offset of the 64 GiB (R472). -/
def bar2Read (s : State) (addr : Nat) (span : HostSpan) : State :=
  hostArrives s false (if 4096 < span.len then .malformed else span.trip.link) (s.fnOpen && s.refRuns)
    (fun s => hostSend s (.read (addr % 2 ^ 36) span.len span.trip 0 []))

/-- BAR2_WRITE: a payload over the Max Payload Size is malformed (R474, R478), and a poisoned one is discarded (R475). -/
def bar2Write (s : State) (addr : Nat) (data : List (BitVec 8)) (tlp : HostTlp) : State :=
  hostArrives s true (if s.maxPayload < data.length then .malformed else tlp.trip.link) (s.fnOpen && s.refRuns) (fun s =>
    if tlp.poisoned then raise (aerUncorrectable (s.send .poisonedTlp) aerPoisoned) hstPg 9 0
    else hostSend s (.write (addr % 2 ^ 36) (data.map BitVec.toNat) tlp.trip 0))

/-! ### Resets of the link (R485, R486) -/

/-- What every reset of the link resets: configuration space, the MSI-X table and PBA, the host alarm latch, requests that
wait, and the HST_ page, whose STATE stays; where EN as restored differs from before, its sequence begins (R38). -/
def resetFunction (s : State) : State :=
  let en := s.en hstPg
  let sts := s.reg hstPg 0x0c
  let down := s.f hstPg 0x10 11 11 == 1
  let s := (listedOffsets s hstPg).foldl (fun s off => s.setReg hstPg off (s.restored hstPg off)) s
  let s := ([0x08, 0x14, 0x24].foldl (fun s off => s.setReg hstPg off (s.restored hstPg off)) s)
  let s := s.setReg hstPg 0x0c sts
  let s := s.setHeld .host none
  let s := (s.withAlarms (Tab.set (fun _ => false) s.alarms 8 false)).withHst
    { State.reset.hst with linkReset := s.hst.linkReset, flr := s.hst.flr, link := s.hst.link, wasDown := down || s.hst.wasDown }
  enWritten s hstPg en

/-- HST_LINK_STS shows the link. -/
def showLink (s : State) : State := showL1 (s.setF hstPg 0x44 8 0 s.hst.link) s.heldInL1

/-- A reset of the link has ended: LINK_RST is set, and LINK_DOWN again where it was set before (R485, R487). -/
def resetEnded (s : State) : State :=
  let t := s.withHst { s.hst with wasDown := false }
  raise (if s.hst.wasDown then raise t hstPg 11 0 else t) hstPg 12 0

/-- FUNCTION_LEVEL_RESET begins: the registers, HST_LINK_STS with them, stand at their after-reset values until it completes. -/
def beginFlr (s : State) : State :=
  let s := resetFunction s
  s.withHst { s.hst with flr := true }

/-- LINK_RST once a function-level reset has ended; HST_LINK_STS shows the link again.
DEDUCED (log 45; unsafe). -/
def flrComplete (s : State) : State :=
  if s.hst.flr then resetEnded (showLink (s.withHst { s.hst with flr := false })) else s

/-- The link has left L0 and L1. -/
def linkGone (s : State) : State := (s.setF hstPg 0x44 16 0 0).withHst { s.hst with link := 0 }

/-- PERST, HOT_RESET and LINK_DOWN_RESET: the link retrains. -/
def linkReset (s : State) : State :=
  if s.pwr.off then s
  else
    let s := linkGone (resetFunction s)
    s.withHst { s.hst with linkReset := true, flr := false }

/-- LINK_DOWN: the link drops without a reset. -/
def linkDown (s : State) : State := if s.pwr.off then s else raise (linkGone s) hstPg 11 0

/-- LINK_RETRAINED, at a rate and a width that the link has (R469). -/
def linkRetrained (s : State) (speed : BitVec 4) (width : BitVec 5) : State :=
  if s.pwr.off || !linkRateOk speed.toNat || !linkWidthOk width.toNat then s
  else
    let t := showLink (s.withHst { s.hst with link := speed.toNat + 16 * width.toNat })
    if s.hst.linkReset then resetEnded (t.withHst { t.hst with linkReset := false }) else t

/-! ### Configuration requests (R469, R471, R486, R515) -/

/-- A configuration request comes over the link: while a function-level reset runs, and in a start-up from Off, it completes
with Configuration Request Retry Status. -/
def configArrives (s : State) (act : State → State) : State :=
  if s.pwr.off || s.hst.linkReset then s
  else if s.hst.flr || s.pwr.fromOff then complete s false 2 []
  else act s

/-- FUNCTION_LEVEL_RESET: a configuration write (R485, R486). -/
def functionReset (s : State) : State := configArrives s beginFlr

/-- D3HOT: a configuration write (R471). -/
def enterD3 (s : State) (enter : Bool) : State :=
  (s.setCfg cfgPm (setFld (s.cfg cfgPm) 1 0 (3 * bit enter))).setF hstPg 0x44 17 17 (bit enter)
def d3hot (s : State) (enter : Bool) : State := configArrives s (fun s => enterD3 s enter)

/-! ### MSI-X (R483) -/

/-- Every message that waits and may go now, in ascending vector.
PRESUMED (log 37; unsafe). -/
def releaseVectors (s : State) : State := (List.range 128).foldl releaseVector s

/-- Vector Control of an entry is written 0. -/
def unmaskVector (s : State) (v : Nat) : State :=
  if v < 128 then
    let e := { s.msixEntry v with ctl := 0 }
    releaseVector (s.withHst { s.hst with table := Tab.set (fun _ => ⟨0, 0, 1⟩) s.hst.table v e }) v
  else s

/-- Message Control unmasks and enables MSI-X, or masks or disables it; Bus Master Enable. What waits and may go now goes. -/
def setFnMask (s : State) (m : Bool) : State := releaseVectors (s.withHst { s.hst with fnMask := m })
def setBusMaster (s : State) (b : Bool) : State := releaseVectors (s.withHst { s.hst with busMaster := b })

/-- A configuration write of a double word: its bits are set and cleared, and what they control follows (R469-R472, R483).
PRESUMED (log 37; unsafe). -/
def configWrite (s : State) (off : Nat) (be : BitVec 4) (v : Word) : State :=
  let m := beMask be
  let w := cfgWritable off &&& m
  let s := s.setCfg off (((s.cfg off &&& ~~~w) ||| (v &&& w)) &&& ~~~(v &&& cfgClears off &&& m))
  if off = 0x04 then (if be.getLsbD 0 then setBusMaster s (v.getLsbD 2) else s)
  else if off = cfgPm then
    (if be.getLsbD 0 && fld v.toNat 1 0 == 0 then enterD3 s false
    else if be.getLsbD 0 && fld v.toNat 1 0 == 3 then enterD3 s true else s)
  else if off = cfgDev then (if be.getLsbD 1 && v.getLsbD 15 then beginFlr s else s)
  else if off = cfgLnk then showL1 s s.heldInL1
  else if off = cfgMsix then (if be.getLsbD 3 then setFnMask s (!v.getLsbD 31 || v.getLsbD 30) else s)
  else s

/-- MSIX_UNMASK: an entry, by a write of BAR0 (R484); or the function, or Bus Master Enable, by a configuration write; and
every other configuration request.
DESIGN CHOICE (log 37; unsafe). -/
def msixUnmask (s : State) (u : MsixUnmask) : State :=
  match u with
  | .vector v =>
    hostArrives s true .none (s.fnOpen && !s.aoServes && s.refRuns) (fun s => unmaskVector s v)
  | .function => configArrives s (fun s => setFnMask (s.setCfg cfgMsix (setFld (s.cfg cfgMsix) 31 30 2)) false)
  | .busMaster => configArrives s (fun s => setBusMaster s true)
  | .config off be v =>
    configArrives s (fun s => (if off % 4 = 0 ∧ off < 4096 then configWrite s off be v else s) |> fun s => complete s false 0 [])
  | .configRead off => configArrives s (fun s => complete s false 0 (bytesLE 4 ((s.configWord off).getD 0).toNat))

/-! ### The commands -/

def execBar0Request (op : HostAccess) (addr len : Nat) (data : BitVec 64) (s : State) :=
  done (inL0 s (fun s => bar0Request s op addr len data))
def execBar2Read (addr : Nat) (span : HostSpan) (s : State) := done (inL0 s (fun s => bar2Read s addr span))
def execBar2Write (addr : Nat) (data : List (BitVec 8)) (tlp : HostTlp) (s : State) :=
  done (inL0 s (fun s => bar2Write s addr data tlp))
def execBufferQuarantineEnd (src tag : Nat) (s : State) := done (quarantineEnd s src tag)
def execFunctionLevelReset (s : State) := done (functionReset s)
def execFlrComplete (s : State) := done (flrComplete s)
def execHotReset (s : State) := done (linkReset s)
def execLinkDownReset (s : State) := done (linkReset s)
def execPerst (s : State) := done (linkReset s)
def execLinkDown (s : State) := done (linkDown s)
def execLinkRetrained (speed : BitVec 4) (width : BitVec 5) (s : State) := done (linkRetrained s speed width)
def execD3hot (enter : Bool) (s : State) := done (d3hot s enter)
def execMsixUnmask (u : MsixUnmask) (s : State) := done (msixUnmask s u)

end Sys2Proof.Machine
end

