-- ==== Sys2Proof/Machine/Tap.lean ====
section
/-! DEFINITION. The test port (R226, R227, R512, R542-R545). -/
namespace Sys2Proof.Machine

/-- A pad under EXTEST is handed back as at a switch (R462, R544): an input function turns the driver off at once, another
waits for its first output event. -/
def handBack (s : State) (pin : Nat) : State :=
  let fn := s.pinFn pin % 16
  if fn = 0 ∨ fn = 6 ∨ fn = 9 then drivePad s pin 0
  else s.withPins { s.pins with waiting := Tab.set (fun _ => false) s.pins.waiting pin true }

/-- Capture-IR: 0b01, and bit 2 where the last EXTEST was refused. -/
def State.captureIr (s : State) : Nat := 1 + 4 * bit s.tap.refused

/-- An instruction takes effect; where EXTEST was selected, the pads go back to their functions. -/
def selectIr (s : State) (code : BitVec 8) : State :=
  let was := s.extest
  let s := s.send (.tdo 8 s.captureIr)
  let s : State := s.withTap { s.tap with ir := code }
  if was && code != 0 then (List.range 384).foldl handBack s else s

/-- The cells that Capture-DR takes: the level at each ball, what the device drives at its pad, and the control balls (R543).
DEDUCED (log 39; unsafe). -/
def State.sampledCells (s : State) (perst tamper : Bool) : Nat :=
  (List.range 384).foldl (fun a i =>
    a + (bit (s.pins.ball.getLsbD i) + 2 * (s.pad i).toNat) * 2 ^ (3 * i)) (bit perst * 2 ^ 1152 + bit tamper * 2 ^ 1153)

/-- A scan of the boundary register: Capture-DR takes the levels as they stand, in every state with VSTBY (R545), they go out, and
Update-DR takes what has been shifted in. -/
def scanCells (s : State) (x : BoundaryScan) : State :=
  let s := targetDrives s x.target
  let s := s.send (.tdo 1154 (s.sampledCells x.perst x.tamper))
  s.withTap { s.tap with cells := x.cells }

/-- The boundary register drives the pads of every port whose bank is ON. -/
def drivePads (s : State) : State := (List.range 12).foldl extestPads s

/-- A scan of n bits through the bypass register (R542): Capture-DR loads 0, so that what is shifted in comes out one bit late, and
the last bit stays in the register.
PRESUMED (log 39; unsafe). -/
def throughBypass (s : State) (n v : Nat) : State :=
  (s.send (.tdo n (v * 2 % 2 ^ n))).withTap { s.tap with bypass := v.testBit (n - 1) }

/-- A scan of the one bit of the bypass register, with a bit that no operand names. -/
def scanBypass (s : State) : State := throughBypass (s.withFree (s.free + 1)) 1 (bit (Config.bypassIn s.free))

/-- EXTEST (R544): the pads take the cells that are there, and then those that the scan brings; refused, it scans the bypass
register.
DEDUCED (log 39; unsafe). -/
def extest (s : State) (x : BoundaryScan) : State :=
  if s.pwr.off then s
  else if s.cycOff then
    let s := selectIr s 0
    drivePads (scanCells (drivePads (s.withTap { s.tap with refused := false })) x)
  else
    let s := selectIr s 0xff
    throughBypass (s.withTap { s.tap with refused := true }) 1154 x.cells.toNat

/-- SAMPLE/PRELOAD: the cells as they stand go out, and the register takes what is shifted in. -/
def samplePreload (s : State) (x : BoundaryScan) : State :=
  if s.pwr.off then s else scanCells (selectIr s 1) x

/-- An instruction that selects a data register with nothing behind it. -/
def selectOnly (s : State) (code : BitVec 8) : State := if s.pwr.off then s else selectIr s code

/-- The code of BYPASS, or of no listed instruction, selects the bypass register. -/
def bypassCode (code : BitVec 8) : BitVec 8 := if [0, 1, 2, 0x38, 0x39, 0x3a].contains code.toNat then 0xff else code

/-- LDR_CTRL (R227): one write of LDR_CTL; ignored in Retain and Dormant. -/
def ldrCtrl (s : State) (w : BitVec 8) : State :=
  let s := selectOnly s 0x39
  if s.refRuns then
    writeReg s .testPort ldrPg 0x40 15 (BitVec.ofNat 32 (w.toNat % 16 + w.toNat / 16 % 2 * 2 ^ 8))
  else s

/-! ### The commands -/

def execExtest (x : BoundaryScan) (s : State) := done (extest s x)
def execSamplePreload (x : BoundaryScan) (s : State) := done (samplePreload s x)
/-- IDCODE (R542). -/
def execIdcode (s : State) := done (if s.pwr.off then s else (selectIr s 2).send (.tdo 32 0x172649cb))
/-- BYPASS (R542). -/
def execBypass (code : BitVec 8) (s : State) := done (if s.pwr.off then s else scanBypass (selectIr s (bypassCode code)))
/-- TEST_LOGIC_RESET: IDCODE is selected, with no Capture-IR. -/
def execTestLogicReset (s : State) :=
  done (if s.pwr.off then s
    else
      let was := s.extest
      let s : State := s.withTap { s.tap with ir := 2 }
      if was then (List.range 384).foldl handBack s else s)
def execLdrCtrl (w : BitVec 8) (s : State) := done (ldrCtrl s w)
/-- LDR_DATA (R226). -/
def execLdrData (w : BitVec 32) (s : State) :=
  done (let t := selectOnly s 0x38
    if t.refRuns then ldrDataWord t w else t)
/-- WARM_RST (R512). -/
def execWarmRst (b : Bool) (p : StartupFindings) (s : State) := done (warmRst (selectOnly s 0x3a) b p)

end Sys2Proof.Machine
end

