-- ==== Sys2Proof/Machine/Dispatch.lean ====
section
/-! DEFINITION. One arm per command: a direct call of its meaning. -/
namespace Sys2Proof.Machine

def exec (i : Instr) (s : State) : Host.Outcome State Fault Refusal :=
  match i with
  | .registerWrite rq p off be v => Sys2Proof.Machine.execRegisterWrite rq p off be v s
  | .lowerHalfRead rq p off => Sys2Proof.Machine.execLowerHalfRead rq p off s
  | .broadcastRead rq code off => Sys2Proof.Machine.execBroadcastRead rq code off s
  | .broadcastWrite rq code off be v => Sys2Proof.Machine.execBroadcastWrite rq code off be v s
  | .pgCtlEn rq p en => Sys2Proof.Machine.execPgCtlEn rq p en s
  | .pgCtlSrst rq p => Sys2Proof.Machine.execPgCtlSrst rq p s
  | .pgCtlLock rq p => Sys2Proof.Machine.execPgCtlLock rq p s
  | .pgStickyClear rq p v => Sys2Proof.Machine.execPgStickyClear rq p v s
  | .pgFirstClear rq p => Sys2Proof.Machine.execPgFirstClear rq p s
  | .pgSecondClear rq p => Sys2Proof.Machine.execPgSecondClear rq p s
  | .startSequenceEnd p ok => Sys2Proof.Machine.execStartSequenceEnd p ok s
  | .stopSequenceEnd e => Sys2Proof.Machine.execStopSequenceEnd e s
  | .dvtStartComplete die => Sys2Proof.Machine.execDvtStartComplete die s
  | .cycStartChecks timeout => Sys2Proof.Machine.execCycStartChecks timeout s
  | .cycStop => Sys2Proof.Machine.execCycStop s
  | .nop d => Sys2Proof.Machine.execNop d s
  | .eval d => Sys2Proof.Machine.execEval d s
  | .evalc d => Sys2Proof.Machine.execEvalc d s
  | .prd d => Sys2Proof.Machine.execPrd d s
  | .pwr d => Sys2Proof.Machine.execPwr d s
  | .memq d => Sys2Proof.Machine.execMemq d s
  | .probe d => Sys2Proof.Machine.execProbe d s
  | .pino d => Sys2Proof.Machine.execPino d s
  | .stopif d => Sys2Proof.Machine.execStopif d s
  | .trigb d => Sys2Proof.Machine.execTrigb d s
  | .reservedOpcode d => Sys2Proof.Machine.execReservedOpcode d s
  | .scrub die panel => Sys2Proof.Machine.execScrub die panel s
  | .exportRecord die panel => Sys2Proof.Machine.execExportRecord die panel s
  | .crossbarRow g row => Sys2Proof.Machine.execCrossbarRow g row s
  | .bundleSlotRow row => Sys2Proof.Machine.execBundleSlotRow row s
  | .dieLinkFrame die m atHub t noise => Sys2Proof.Machine.execDieLinkFrame die m atHub t noise s
  | .dlLane die m lane atHub => Sys2Proof.Machine.execDlLane die m lane atHub s
  | .dieLinkRetrain rq die => Sys2Proof.Machine.execDieLinkRetrain rq die s
  | .dieLinkTrainingEnd die m failed failedRx => Sys2Proof.Machine.execDieLinkTrainingEnd die m failed failedRx s
  | .decisionStep => Sys2Proof.Machine.execDecisionStep s
  | .voteRelay v k => Sys2Proof.Machine.execVoteRelay v k s
  | .voteMessage b v frame spare => Sys2Proof.Machine.execVoteMessage b v frame spare s
  | .confirmStep => Sys2Proof.Machine.execConfirmStep s
  | .commitStep => Sys2Proof.Machine.execCommitStep s
  | .boundary => Sys2Proof.Machine.execBoundary s
  | .releaseVote => Sys2Proof.Machine.execReleaseVote s
  | .releasePoint => Sys2Proof.Machine.execReleasePoint s
  | .clpHostHold rq hold => Sys2Proof.Machine.execClpHostHold rq hold s
  | .clpReleaseFault rq => Sys2Proof.Machine.execClpReleaseFault rq s
  | .clpReleaseStopif rq => Sys2Proof.Machine.execClpReleaseStopif rq s
  | .clpReleaseTrigStop rq => Sys2Proof.Machine.execClpReleaseTrigStop rq s
  | .clpPropWrite rq max v => Sys2Proof.Machine.execClpPropWrite rq max v s
  | .queueIssue die q => Sys2Proof.Machine.execQueueIssue die q s
  | .memoryResponse die q => Sys2Proof.Machine.execMemoryResponse die q s
  | .go rq => Sys2Proof.Machine.execGo rq s
  | .endStream rq => Sys2Proof.Machine.execEndStream rq s
  | .streamEnd => Sys2Proof.Machine.execStreamEnd s
  | .abort rq => Sys2Proof.Machine.execAbort rq s
  | .commit rq => Sys2Proof.Machine.execCommit rq s
  | .srcSelect rq src => Sys2Proof.Machine.execSrcSelect rq src s
  | .ldrWrPtrWrite rq v => Sys2Proof.Machine.execLdrWrPtrWrite rq v s
  | .ldrData w => Sys2Proof.Machine.execLdrData w s
  | .ldrCtrl w => Sys2Proof.Machine.execLdrCtrl w s
  | .segmentPrefix => Sys2Proof.Machine.execSegmentPrefix s
  | .tagVerify => Sys2Proof.Machine.execTagVerify s
  | .checkEnd => Sys2Proof.Machine.execCheckEnd s
  | .chainStart b pos loadId => Sys2Proof.Machine.execChainStart b pos loadId s
  | .chainEnd => Sys2Proof.Machine.execChainEnd s
  | .chainReady => Sys2Proof.Machine.execChainReady s
  | .chainFail pos code check => Sys2Proof.Machine.execChainFail pos code check s
  | .chainCommit loadId => Sys2Proof.Machine.execChainCommit loadId s
  | .chainAbort pos loadId => Sys2Proof.Machine.execChainAbort pos loadId s
  | .chainDone pos => Sys2Proof.Machine.execChainDone pos s
  | .chainTimeout => Sys2Proof.Machine.execChainTimeout s
  | .commitBegin => Sys2Proof.Machine.execCommitBegin s
  | .commitEnd => Sys2Proof.Machine.execCommitEnd s
  | .burn rq slot => Sys2Proof.Machine.execBurn rq slot s
  | .retire rq slot => Sys2Proof.Machine.execRetire rq slot s
  | .battWrite rq => Sys2Proof.Machine.execBattWrite rq s
  | .battClear rq => Sys2Proof.Machine.execBattClear rq s
  | .tamper => Sys2Proof.Machine.execTamper s
  | .vbatLow => Sys2Proof.Machine.execVbatLow s
  | .lineAccess who line wr => Sys2Proof.Machine.execLineAccess who line wr s
  | .regionEnable rq stack rgn => Sys2Proof.Machine.execRegionEnable rq stack rgn s
  | .generate rq id => Sys2Proof.Machine.execGenerate rq id s
  | .flush rq id => Sys2Proof.Machine.execFlush rq id s
  | .flushEnd id => Sys2Proof.Machine.execFlushEnd id s
  | .vnrRetire rq id => Sys2Proof.Machine.execVnrRetire rq id s
  | .retireEnd id => Sys2Proof.Machine.execRetireEnd id s
  | .seal rq stack region zero => Sys2Proof.Machine.execSeal rq stack region zero s
  | .sealEnd stack => Sys2Proof.Machine.execSealEnd stack s
  | .bundleFrame b cnt raw => Sys2Proof.Machine.execBundleFrame b cnt raw s
  | .lossOfAlignment b => Sys2Proof.Machine.execLossOfAlignment b s
  | .dataUnit b bytes => Sys2Proof.Machine.execDataUnit b bytes s
  | .retry b unit => Sys2Proof.Machine.execRetry b unit s
  | .retryResend b => Sys2Proof.Machine.execRetryResend b s
  | .resume b unit => Sys2Proof.Machine.execResume b unit s
  | .lanemap b failed spare sw => Sys2Proof.Machine.execLanemap b failed spare sw s
  | .time b seq tx echoSeq echoRx => Sys2Proof.Machine.execTime b seq tx echoSeq echoRx s
  | .timeTimer => Sys2Proof.Machine.execTimeTimer s
  | .state b off => Sys2Proof.Machine.execState b off s
  | .stateTimer => Sys2Proof.Machine.execStateTimer s
  | .ident b pk => Sys2Proof.Machine.execIdent b pk s
  | .identResend b => Sys2Proof.Machine.execIdentResend b s
  | .topo b pk => Sys2Proof.Machine.execTopo b pk s
  | .topoTimer => Sys2Proof.Machine.execTopoTimer s
  | .topoStable => Sys2Proof.Machine.execTopoStable s
  | .mesh b tag data => Sys2Proof.Machine.execMesh b tag data s
  | .attach b lanes => Sys2Proof.Machine.execAttach b lanes s
  | .laneVerdict b own partner partnerLocked => Sys2Proof.Machine.execLaneVerdict b own partner partnerLocked s
  | .clockLock => Sys2Proof.Machine.execClockLock s
  | .alignDone b flight => Sys2Proof.Machine.execAlignDone b flight s
  | .trainingTimeout b flight => Sys2Proof.Machine.execTrainingTimeout b flight s
  | .failedRestart b => Sys2Proof.Machine.execFailedRestart b s
  | .detach b lanes => Sys2Proof.Machine.execDetach b lanes s
  | .laneFail b lane => Sys2Proof.Machine.execLaneFail b lane s
  | .spareCheckEnd b errors => Sys2Proof.Machine.execSpareCheckEnd b errors s
  | .failoverLanemap b => Sys2Proof.Machine.execFailoverLanemap b s
  | .lanemapSwitch b rx => Sys2Proof.Machine.execLanemapSwitch b rx s
  | .lanemapResend b => Sys2Proof.Machine.execLanemapResend b s
  | .failoverEnd b => Sys2Proof.Machine.execFailoverEnd b s
  | .failoverTimeout b => Sys2Proof.Machine.execFailoverTimeout b s
  | .bndRetrain rq b => Sys2Proof.Machine.execBndRetrain rq b s
  | .failover rq b lane => Sys2Proof.Machine.execFailover rq b lane s
  | .trainEn rq b en => Sys2Proof.Machine.execTrainEn rq b en s
  | .bndInjArm rq b symbols => Sys2Proof.Machine.execBndInjArm rq b symbols s
  | .lnInj rq lane => Sys2Proof.Machine.execLnInj rq lane s
  | .lnTestWrite rq lane loop prbs prbsOn => Sys2Proof.Machine.execLnTestWrite rq lane loop prbs prbsOn s
  | .meshSend rq b tag => Sys2Proof.Machine.execMeshSend rq b tag s
  | .meshPop rq b => Sys2Proof.Machine.execMeshPop rq b s
  | .bndTsAck rq b => Sys2Proof.Machine.execBndTsAck rq b s
  | .bndClkWrite rq mode upstream => Sys2Proof.Machine.execBndClkWrite rq mode upstream s
  | .gauInc rq k v => Sys2Proof.Machine.execGauInc rq k v s
  | .gauAdj rq k v => Sys2Proof.Machine.execGauAdj rq k v s
  | .gauSet rq k v => Sys2Proof.Machine.execGauSet rq k v s
  | .gauCtlSrc rq k src edge fall => Sys2Proof.Machine.execGauCtlSrc rq k src edge fall s
  | .ppsEdge k => Sys2Proof.Machine.execPpsEdge k s
  | .tclkWindowEnd k => Sys2Proof.Machine.execTclkWindowEnd k s
  | .ppsLost k => Sys2Proof.Machine.execPpsLost k s
  | .gauEvtArm rq k arm => Sys2Proof.Machine.execGauEvtArm rq k arm s
  | .oneShotFire k => Sys2Proof.Machine.execOneShotFire k s
  | .periodicFire k => Sys2Proof.Machine.execPeriodicFire k s
  | .windowFire k => Sys2Proof.Machine.execWindowFire k s
  | .pulseEnd k => Sys2Proof.Machine.execPulseEnd k s
  | .cycleRecord => Sys2Proof.Machine.execCycleRecord s
  | .captureWrite => Sys2Proof.Machine.execCaptureWrite s
  | .trgCtlArm rq arm => Sys2Proof.Machine.execTrgCtlArm rq arm s
  | .capCtlArm rq arm => Sys2Proof.Machine.execCapCtlArm rq arm s
  | .measCtlArm rq k arm => Sys2Proof.Machine.execMeasCtlArm rq k arm s
  | .trgActCtlWrite rq v => Sys2Proof.Machine.execTrgActCtlWrite rq v s
  | .snap rq => Sys2Proof.Machine.execSnap rq s
  | .snapEnd => Sys2Proof.Machine.execSnapEnd s
  | .restore rq => Sys2Proof.Machine.execRestore rq s
  | .restorePassEnd => Sys2Proof.Machine.execRestorePassEnd s
  | .restoreEnd => Sys2Proof.Machine.execRestoreEnd s
  | .trcCtlRun rq c run => Sys2Proof.Machine.execTrcCtlRun rq c run s
  | .trcCtlTrig rq c => Sys2Proof.Machine.execTrcCtlTrig rq c s
  | .trcAuth rq c m => Sys2Proof.Machine.execTrcAuth rq c m s
  | .traceSync c => Sys2Proof.Machine.execTraceSync c s
  | .traceTimestamp c => Sys2Proof.Machine.execTraceTimestamp c s
  | .traceStop c => Sys2Proof.Machine.execTraceStop c s
  | .traceOverflow c => Sys2Proof.Machine.execTraceOverflow c s
  | .coreInstruction c => Sys2Proof.Machine.execCoreInstruction c s
  | .wfi c => Sys2Proof.Machine.execWfi c s
  | .coreWake c => Sys2Proof.Machine.execCoreWake c s
  | .machineTimerInterrupt c => Sys2Proof.Machine.execMachineTimerInterrupt c s
  | .machineExternalInterrupt c => Sys2Proof.Machine.execMachineExternalInterrupt c s
  | .ccMsip rq c v => Sys2Proof.Machine.execCcMsip rq c v s
  | .ccIrqLocSelect rq c src => Sys2Proof.Machine.execCcIrqLocSelect rq c src s
  | .ccAlarmAck c => Sys2Proof.Machine.execCcAlarmAck c s
  | .post w word3 => Sys2Proof.Machine.execPost w word3 s
  | .postPlace p => Sys2Proof.Machine.execPostPlace p s
  | .dispatch => Sys2Proof.Machine.execDispatch s
  | .ccWdDone rq c v => Sys2Proof.Machine.execCcWdDone rq c v s
  | .flowRelease f => Sys2Proof.Machine.execFlowRelease f s
  | .delayTick k => Sys2Proof.Machine.execDelayTick k s
  | .delayListEnable rq k en gauge => Sys2Proof.Machine.execDelayListEnable rq k en gauge s
  | .read src tag fault => Sys2Proof.Machine.execRead src tag fault s
  | .write src tag fault => Sys2Proof.Machine.execWrite src tag fault s
  | .bcastWrite src tag fault => Sys2Proof.Machine.execBcastWrite src tag fault s
  | .bcastRead src tag fault => Sys2Proof.Machine.execBcastRead src tag fault s
  | .amo src tag fault => Sys2Proof.Machine.execAmo src tag fault s
  | .rspData src a => Sys2Proof.Machine.execRspData src a s
  | .rspAck src a => Sys2Proof.Machine.execRspAck src a s
  | .rspErr src a => Sys2Proof.Machine.execRspErr src a s
  | .ringTimeout src tag => Sys2Proof.Machine.execRingTimeout src tag s
  | .bufferQuarantineEnd src tag => Sys2Proof.Machine.execBufferQuarantineEnd src tag s
  | .urgencyRise src header ring stop => Sys2Proof.Machine.execUrgencyRise src header ring stop s
  | .routeTableUpdate node dst => Sys2Proof.Machine.execRouteTableUpdate node dst s
  | .pinBankVsel rq p vsel => Sys2Proof.Machine.execPinBankVsel rq p vsel s
  | .pinCfgWrite rq p pin half => Sys2Proof.Machine.execPinCfgWrite rq p pin half s
  | .pinSample t => Sys2Proof.Machine.execPinSample t s
  | .sampleInstant p t => Sys2Proof.Machine.execSampleInstant p t s
  | .driveInstant p => Sys2Proof.Machine.execDriveInstant p s
  | .pinTimeWrite rq p which hi => Sys2Proof.Machine.execPinTimeWrite rq p which hi s
  | .gpioWrite rq p oe be v => Sys2Proof.Machine.execGpioWrite rq p oe be v s
  | .uartTxWrite rq p b => Sys2Proof.Machine.execUartTxWrite rq p b s
  | .uartRxByte p b parity stop => Sys2Proof.Machine.execUartRxByte p b parity stop s
  | .uartPop rq p => Sys2Proof.Machine.execUartPop rq p s
  | .i2cCmd rq p v => Sys2Proof.Machine.execI2cCmd rq p v s
  | .i2cCommandEnd p ack lost rdata => Sys2Proof.Machine.execI2cCommandEnd p ack lost rdata s
  | .pinLockKey rq p v => Sys2Proof.Machine.execPinLockKey rq p v s
  | .pinLock rq p mask => Sys2Proof.Machine.execPinLock rq p mask s
  | .lockKeyExpiry rq p => Sys2Proof.Machine.execLockKeyExpiry rq p s
  | .wakePin k => Sys2Proof.Machine.execWakePin k s
  | .bar0Request op addr len data => Sys2Proof.Machine.execBar0Request op addr len data s
  | .bar2Read addr span => Sys2Proof.Machine.execBar2Read addr span s
  | .bar2Write addr data tlp => Sys2Proof.Machine.execBar2Write addr data tlp s
  | .functionLevelReset => Sys2Proof.Machine.execFunctionLevelReset s
  | .flrComplete => Sys2Proof.Machine.execFlrComplete s
  | .hotReset => Sys2Proof.Machine.execHotReset s
  | .linkDownReset => Sys2Proof.Machine.execLinkDownReset s
  | .perst => Sys2Proof.Machine.execPerst s
  | .linkDown => Sys2Proof.Machine.execLinkDown s
  | .d3hot enter => Sys2Proof.Machine.execD3hot enter s
  | .hstAlarmAck rq => Sys2Proof.Machine.execHstAlarmAck rq s
  | .hstMsixSend rq v => Sys2Proof.Machine.execHstMsixSend rq v s
  | .hstRearm rq v => Sys2Proof.Machine.execHstRearm rq v s
  | .msixUnmask u => Sys2Proof.Machine.execMsixUnmask u s
  | .hstDoorbellSet rq v => Sys2Proof.Machine.execHstDoorbellSet rq v s
  | .powerOn p => Sys2Proof.Machine.execPowerOn p s
  | .startupEnd => Sys2Proof.Machine.execStartupEnd s
  | .vstbyLoss => Sys2Proof.Machine.execVstbyLoss s
  | .vinLow => Sys2Proof.Machine.execVinLow s
  | .vinUv => Sys2Proof.Machine.execVinUv s
  | .vinOv => Sys2Proof.Machine.execVinOv s
  | .overpower => Sys2Proof.Machine.execOverpower s
  | .requestHold rq => Sys2Proof.Machine.execRequestHold rq s
  | .requestIdle rq => Sys2Proof.Machine.execRequestIdle rq s
  | .requestRetain rq => Sys2Proof.Machine.execRequestRetain rq s
  | .requestDormant rq => Sys2Proof.Machine.execRequestDormant rq s
  | .transitionEnd => Sys2Proof.Machine.execTransitionEnd s
  | .wakeTimer => Sys2Proof.Machine.execWakeTimer s
  | .bundleWake b => Sys2Proof.Machine.execBundleWake b s
  | .vinRestored => Sys2Proof.Machine.execVinRestored s
  | .powerSample m => Sys2Proof.Machine.execPowerSample m s
  | .thermalSample t => Sys2Proof.Machine.execThermalSample t s
  | .pwrStepClk rq mhz => Sys2Proof.Machine.execPwrStepClk rq mhz s
  | .thmLimitWrite rq v => Sys2Proof.Machine.execThmLimitWrite rq v s
  | .drwRst rq v p => Sys2Proof.Machine.execDrwRst rq v p s
  | .warmRst bit p => Sys2Proof.Machine.execWarmRst bit p s
  | .drawerCommit rq => Sys2Proof.Machine.execDrawerCommit rq s
  | .drawerCommitEnd ok => Sys2Proof.Machine.execDrawerCommitEnd ok s
  | .drawerWindowWrite rq off be v => Sys2Proof.Machine.execDrawerWindowWrite rq off be v s
  | .mark rq die panel => Sys2Proof.Machine.execMark rq die panel s
  | .extest cells => Sys2Proof.Machine.execExtest cells s
  | .samplePreload cells => Sys2Proof.Machine.execSamplePreload cells s
  | .idcode => Sys2Proof.Machine.execIdcode s
  | .bypass code => Sys2Proof.Machine.execBypass code s
  | .testLogicReset => Sys2Proof.Machine.execTestLogicReset s
  | .referenceTick t => Sys2Proof.Machine.execReferenceTick t s
  | .uartByteSent p => Sys2Proof.Machine.execUartByteSent p s
  | .delayListDrain k => Sys2Proof.Machine.execDelayListDrain k s
  | .listHeadAging l => Sys2Proof.Machine.execListHeadAging l s
  | .linkRetrained speed width => Sys2Proof.Machine.execLinkRetrained speed width s

end Sys2Proof.Machine
end

