-- ==== Sys2Proof/Safety.lean ====
section
/-! DEFINITION. The terms in which claims about every command are made: what no command changes, and the canonical form of
the addressed memories. -/
namespace Sys2Proof.Machine

/-- The addressed memories of the device: HBM by byte, and the shared SRAM of the control complex by word. -/
structure Memories where
  hbm : Tab (BitVec 8)
  shared : Tab Word
  deriving DecidableEq, Repr

/-- The memories of a state. -/
def State.memories (s : State) : Memories := ⟨s.hbm, s.shared⟩

/-- The memories are in canonical form: addresses strictly rising, and no entry equal to what an unlisted address reads
as. -/
abbrev Memories.wf (m : Memories) : Prop := Tab.wf (zeroAt 8) m.hbm = true ∧ Tab.wf (zeroAt 32) m.shared = true
def Memories.ordered (m : Memories) : Bool := Tab.wf (zeroAt 8) m.hbm && Tab.wf (zeroAt 32) m.shared

/-- What lasts beyond every command, reset and loss of power: the commands that wait (only `step` takes one), the
device serial and the factory snapshot of the Drawer (R517, R519), the fuses of the key slots and their retirement
(R217, R219), and that the memories are in canonical form. -/
structure Lasting where
  pending : List Instr
  serial : BitVec 64
  factory : Snapshot
  fuses : Tab (Option (BitVec 256))
  retired : BitVec 4
  ordered : Bool
  deriving DecidableEq, Repr

/-- The lasting part of a state. -/
def State.lasting (s : State) : Lasting :=
  ⟨s.pending, s.drw.serial, s.drw.factory, s.ldr.fuses, s.ldr.retired, s.memories.ordered⟩

/-- What lasts from one state to a later one: the queue, the serial and the factory snapshot are the same; a fuse that is
burnt stays as it was burnt, a slot that is retired stays retired, and memories in canonical form stay so. -/
structure Lasts (o t : Lasting) : Prop where
  pending : t.pending = o.pending
  serial : t.serial = o.serial
  factory : t.factory = o.factory
  fuses : ∀ slot key, Tab.get (fun _ => none) o.fuses slot = some key → Tab.get (fun _ => none) t.fuses slot = some key
  retired : ∀ slot, o.retired.getLsbD slot = true → t.retired.getLsbD slot = true
  ordered : o.ordered = true → t.ordered = true

/-- The device runs and the requester exists: its register accesses reach their pages. -/
def State.serves (s : State) (rq : Requester) : Prop := s.refRuns = true ∧ rqOk rq = true

/-- A state that differs from s in no register's value, and in nothing else; and one that differs from s in no register
but those of the keys given, and in nothing else. -/
def State.sameRegs (s u : State) : Prop := u = s.withRegs u.regs ∧ ∀ q o, u.reg q o = s.reg q o
def State.regsBut (s u : State) (ks : List Nat) : Prop :=
  u = s.withRegs u.regs ∧ ∀ q o, regKey q o ∉ ks → u.reg q o = s.reg q o

/-- A bundle takes a packet of n numbered units that arrives (R310): it is UP, with no RETRY outstanding; and the state
that has counted the units. -/
def State.accepts (s : State) (b : Nat) : Prop := s.bup b = true ∧ (s.bundle b).rx.due = true
def State.taken (s : State) (b n : Nat) : State := s.setRx b ((s.bundle b).rx.take n)

/-- A Dowel is due at the step in hand, with a word that checks (R57, R101). -/
def State.dowelReady (s : State) (d : DowelAt) (w : BitVec 80) : Prop :=
  dowelDue s d = true ∧ s.step = d.step ∧ fetchWord (s.panel d.die d.panel) d.dowel d.step = (w, .clean)

/-- An operand of a Dowel at a step: its bit, and that reading it records nothing (R66, R103). -/
def State.opd (s : State) (d : DowelAt) (x : Nat) : Bool := (readOperand s d.die d.panel d.dowel d.step x).val
def State.readsClean (s : State) (d : DowelAt) (x : Nat) : Prop :=
  (readOperand s d.die d.panel d.dowel d.step x).rsvd = false ∧ (readOperand s d.die d.panel d.dowel d.step x).badRow = none

/-- The result of a word of opcode 3 to 9 (R71, R80): d reads 0. -/
def State.dowelBit (s : State) (d : DowelAt) (w : BitVec 80) : Bool :=
  xor ((wTt w).testBit (bit (s.opd d (wOpa w)) + 2 * bit (s.opd d (wOpb w)) + 4 * bit (s.opd d (wOpc w)))) (wInv w)

end Sys2Proof.Machine
end

