-- ==== Sys2Proof/Certificates/Slice0/Obligations.lean ====
section
/-! DEFINITION. The statements for the provers. Each clause about a command has as its conclusion that `exec` answers a
next state, mostly as `settle t`: `t` is what the command itself leaves, and `settle` lets the vectors, the Gauge pulse
pads and the TRIG_OUT pads follow it (it touches only `out`, `hst.conds`, `hst.pba` and the pads: `WhatFollows`). A clause
`t = s.withRegs t.regs` says that the command changes nothing but registers, and the like. A clause in which an event whose
moment has not come, or that finds nothing to act on, leaves the state as it is (`.next (settle s)`) is the model's reading
(assumption 2). -/
set_option linter.unusedVariables false

open Sys2Proof Sys2Proof.Machine

/-! ### The queue of commands -/

/-- A step takes the command at the front of the queue and runs it on the state with the queue's rest; with none waiting
the block idles (the model's choice, assumptions 1 and 2). -/
def Obligations.StepRunsFront : Prop :=
  ∀ (s : State) (c : Instr) (q : List Instr),
    (s.pending = c :: q → step s = exec c { s with pending := q }) ∧
    (s.pending = [] → step s = .next s)

/-! ### Register access (R7, R8, R31-R34, R53-R56) -/

/-- A write of PG_GROUP, the RW register that every page has: the enabled bytes of the 16-bit field change and no others,
whichever bytes are enabled (R7, R33), and no other register and no other state. -/
def Obligations.RegisterWriteField : Prop :=
  ∀ (s : State) (rq : Requester) (p : PageId) (be : BitVec 4) (v : BitVec 32),
    s.serves rq → pageExists p = true → v &&& beMask be &&& 0xffff0000 = 0 →
    ∃ t, exec (.registerWrite rq p 0x24 be v) s = .next (settle t) ∧ t = s.withRegs t.regs ∧
      t.reg p 0x24 = (s.reg p 0x24 &&& ~~~(0xffff &&& beMask be)) ||| (v &&& (0xffff &&& beMask be)) ∧
      ∀ q o, regKey q o ≠ regKey p 0x24 → t.reg q o = s.reg q o

/-- A write that carries a 1 into a reserved bit of PG_GROUP sets PG_STICKY.RSVD of the page, and the first such event is
captured with the requester and the offset (R8, R42, R43). -/
def Obligations.ReservedBitRecorded : Prop :=
  ∀ (s : State) (rq : Requester) (p : PageId) (v : BitVec 32),
    s.serves rq → pageExists p = true → v &&& 0xffff0000 ≠ 0 → s.f p 0x18 31 31 = 0 →
    ∃ t, exec (.registerWrite rq p 0x24 15 v) s = .next t ∧ t.f p 0x10 0 0 = 1 ∧
      t.reg p 0x18 = BitVec.ofNat 32 (2 ^ 31 + rqCode rq * 2 ^ 20 + 0x24) ∧ t.f p 0x24 15 0 = fld v.toNat 15 0

/-- The two reads of a 64-bit quantity (R34): the lower register's read copies the upper half into the requester's own
holding register, and the next read of the upper register returns that copy, whatever the register has become. That this
read uses the copy up is the model's reading (log entry 12). -/
def Obligations.HoldingRegister : Prop :=
  ∀ (s : State) (rq : Requester) (p : PageId) (off : Nat), s.serves rq → off % 4 = 0 →
    (regHalf p.ty p.inst off = 1 →
      ∃ t, exec (.lowerHalfRead rq p off) s = .next (settle t) ∧ t = (s.withHold t.hold).withOut t.out ∧
        t.out = .regData rq (s.readReg p off) :: s.out ∧
        t.held rq = some (regKey p (off + 4), s.readReg p (off + 4)) ∧
        ∀ other, rqCode other ≠ rqCode rq → t.held other = s.held other) ∧
    (∀ v, regHalf p.ty p.inst off = 2 → s.held rq = some (regKey p off, v) →
      ∃ t, exec (.lowerHalfRead rq p off) s = .next (settle t) ∧ t = (s.withHold t.hold).withOut t.out ∧
        t.out = .regData rq v :: s.out ∧ t.held rq = none)

/-- Broadcast accesses. A broadcast read sends the requester the bitwise OR of the register in every addressed instance,
and records nothing (R56); an instance is addressed where its type is the one named and its PG_GROUP has a bit in common
with the requester's group select (R53). A broadcast write acts on each addressed instance as a direct write would (R54):
shown on PG_STICKY_EN, the register of every addressed instance takes the value, and every other register stays. -/
def Obligations.Broadcasts : Prop :=
  ∀ (s : State) (rq : Requester) (ty : PageType), s.serves rq →
    (∀ off, off % 4 = 0 →
      ∃ v, exec (.broadcastRead rq (pageCode ty) off) s = .next (settle (s.withOut (.regData rq v :: s.out))) ∧
        ∀ i, v.getLsbD i = true ↔ ∃ p : PageId, p.ty = ty ∧ p.inst ∈ instancesOf ty ∧
          BitVec.ofNat 16 (s.f p 0x24 15 0) &&& BitVec.ofNat 16 (s.groupSel rq) ≠ 0 ∧ (s.readReg p off).getLsbD i = true) ∧
    (∀ v : BitVec 32, (∀ i, i ∈ instancesOf ty → v &&& ~~~stickyMask ty i = 0) →
      ∃ t, exec (.broadcastWrite rq (pageCode ty) 0x14 15 v) s = .next (settle t) ∧ t = s.withRegs t.regs ∧
        (∀ p, p ∈ s.addressed rq (pageCode ty) →
          t.reg p 0x14 = (s.reg p 0x14 &&& ~~~stickyMask ty p.inst) ||| v) ∧
        ∀ q o, (∀ p, p ∈ s.addressed rq (pageCode ty) → regKey q o ≠ regKey p 0x14) → t.reg q o = s.reg q o)

/-! ### The common page header (R39-R47) -/

/-- The writes of PG_CTL on an unlocked page, where no sequence starts or stops. EN as it stands, with SRST while the page
is OFF: a page reset (R46): each register but PG_CTL and PG_STS takes its after-reset value, a retained one the snapshot's
(`State.restored`), but for bits that are the machine's and not the page's programming, and the configuration of locked
pins (`State.keptAtSrst`, log entry 18), and no other page changes; shown but for a VNR_ page, whose reset empties every
key ID, for an LN_ page of a bundle that is not UP, for a CC_ page while the dispatcher holds work, for BND_CLK, which
shows the step clock, for the record of SRC_ERR on the EDL_ page, whose lines are judged anew, and for DIE_LINK_STS of the
dies beside, whose modules go down with those of a DIE_ page. SRST while it is not OFF: SEQ_FAIL, and no reset (R46).
LOCK: the lock bit, and nothing else (R47). Once locked, SRST is ignored with LOCKVIOL, whatever STATE holds (R47). A
bound PNL_ page with EN = 0, on which a write that carries EN = 0 is refused (R500), is left to `EnableWrite`. -/
def Obligations.PageControl : Prop :=
  ∀ (s : State) (rq : Requester) (p : PageId), s.serves rq → pageExists p = true →
    (p.ty = .pnl → s.en p = true ∨ s.f p 0x40 31 31 = 0) →
    (s.locked p = false → s.st p = stOff →
      ∃ u, exec (.pgCtlSrst rq p) s = .next (settle (pageReset u p)) ∧ u = s.withRegs u.regs ∧
        u.f p 0x08 0 0 = s.f p 0x08 0 0 ∧ u.locked p = false ∧ (∀ q o, regKey q o ≠ regKey p 0x08 → u.reg q o = s.reg q o) ∧
        (p.ty = .vnr → ∀ j, j < 16 → (pageReset u p).keySt j = 0 ∧ (pageReset u p).keys j = ⟨0, 0, 0, 0⟩) ∧
        (p.ty ≠ .vnr → (p.ty = .ln → s.bup (p.inst / 9) = true) → (p.ty = .cc → s.wd.preempt = 0 ∧ s.wd.lists = []) →
          (∀ off, off < 4096 → off % 4 = 0 → off ≠ 0x08 → off ≠ 0x0c → (p.ty = .bnd → off ≠ 0x80) →
              (p.ty = .edl → off ∉ [0x10, 0x18, 0x1c]) →
            let kept := if 0x40 ≤ off then s.keptAtSrst p off else 0
            (pageReset u p).reg p off = (s.reg p off &&& kept) ||| (s.restored p off &&& ~~~kept)) ∧
          ∀ q o, q ≠ p → pageExists q = true → o < 4096 → (p.ty = .die → q.ty = .die → o ≠ 0x40) →
            (pageReset u p).reg q o = s.reg q o)) ∧
    (s.locked p = false → s.st p ≠ stOff →
      ∃ t, exec (.pgCtlSrst rq p) s = .next t ∧ t.f p 0x10 2 2 = 1 ∧ t.st p = s.st p ∧ t.en p = s.en p) ∧
    (s.locked p = false →
      ∃ t, exec (.pgCtlLock rq p) s = .next (settle t) ∧ t = s.withRegs t.regs ∧ t.locked p = true ∧ t.en p = s.en p ∧
        ∀ q o, regKey q o ≠ regKey p 0x08 → t.reg q o = s.reg q o) ∧
    (s.locked p = true →
      ∃ t, exec (.pgCtlSrst rq p) s = .next t ∧ t.f p 0x10 1 1 = 1 ∧ t.st p = s.st p ∧ t.en p = s.en p)

/-- A write of EN on an unlocked page (R40): an OFF page begins its start sequence and is STARTING, an ON page its stop
sequence and is STOPPING, and EN alone changes where the page is in a sequence, or where it rests OFF after a failed
start, which takes EN = 0 and then 1 to start again (R41); a write of EN as it stands starts nothing. On a locked page a
value that would change EN is ignored with LOCKVIOL (R47). A PNL_ page bound to a logical Panel keeps EN = 1: a write of 0
is ignored with SEQ_FAIL (R500). -/
def Obligations.EnableWrite : Prop :=
  ∀ (s : State) (rq : Requester) (p : PageId) (en : Bool), s.serves rq → pageExists p = true →
    (s.locked p = false → s.en p = !en → (p.ty = .pnl → en = true ∨ s.f p 0x40 31 31 = 0) →
      ∃ u, u = s.withRegs u.regs ∧ u.en p = en ∧ u.locked p = false ∧
        (∀ q o, regKey q o ≠ regKey p 0x08 → u.reg q o = s.reg q o) ∧
        (en = true → s.st p = stOff → exec (.pgCtlEn rq p en) s = .next (settle (beginStart u p)) ∧
          (beginStart u p).st p = stStarting ∧ (beginStart u p).en p = true) ∧
        (en = false → s.st p = stOn → exec (.pgCtlEn rq p en) s = .next (settle (beginStop u p)) ∧
          (beginStop u p).st p = stStopping ∧ (beginStop u p).en p = false) ∧
        (s.st p = stStarting ∨ s.st p = stStopping ∨ en = false ∧ s.st p = stOff ∨ en = true ∧ s.st p = stOn →
          exec (.pgCtlEn rq p en) s = .next (settle u))) ∧
    (s.locked p = false → s.en p = en → (p.ty = .pnl → en = true ∨ s.f p 0x40 31 31 = 0) →
      ∃ u, s.sameRegs u ∧ exec (.pgCtlEn rq p en) s = .next (settle u)) ∧
    (s.locked p = false → p.ty = .pnl → s.f p 0x40 31 31 = 1 →
      ∃ t, exec (.pgCtlEn rq p false) s = .next t ∧ t.en p = s.en p ∧ t.st p = s.st p ∧ t.f p 0x10 2 2 = 1) ∧
    (s.locked p = true → s.en p = !en →
      ∃ t, exec (.pgCtlEn rq p en) s = .next t ∧ t.en p = s.en p ∧ t.st p = s.st p ∧ t.f p 0x10 1 1 = 1)

/-- W1C of PG_STICKY where no event of the period set a bit (R7, R44), and the moves of the captures (R43): a write of 1
to PG_FIRST.VALID moves PG_SECOND into PG_FIRST, and one to PG_SECOND.VALID clears PG_SECOND only. The VNR_ pages, whose
line addresses move with them (R285), are the second part. -/
def Obligations.StickyAndCaptures : Prop :=
  ∀ (s : State) (rq : Requester) (p : PageId), s.serves rq → pageExists p = true →
    (∀ v : BitVec 32, v &&& ~~~stickyMask p.ty p.inst = 0 → s.recent = [] →
      ∃ t, exec (.pgStickyClear rq p v) s = .next (settle t) ∧ t = s.withRegs t.regs ∧
        t.reg p 0x10 = s.reg p 0x10 &&& ~~~v ∧ ∀ q o, regKey q o ≠ regKey p 0x10 → t.reg q o = s.reg q o) ∧
    (∃ t, exec (.pgFirstClear rq p) s = .next (settle t) ∧ t = (s.withRegs t.regs).withRecent t.recent ∧
        t.reg p 0x18 = s.reg p 0x1c ∧ t.reg p 0x1c = 0 ∧
        (p.ty = .vnr → t.reg64 p 0x58 = s.reg64 p 0x60 ∧ t.reg64 p 0x60 = 0) ∧
        ∀ q o, regKey q o ≠ regKey p 0x18 → regKey q o ≠ regKey p 0x1c →
          (p.ty = .vnr → ∀ a ∈ [0x58, 0x5c, 0x60, 0x64], regKey q o ≠ regKey p a) → t.reg q o = s.reg q o) ∧
    (∃ t, exec (.pgSecondClear rq p) s = .next (settle t) ∧ t = s.withRegs t.regs ∧
        t.reg p 0x1c = 0 ∧ (p.ty = .vnr → t.reg64 p 0x60 = 0) ∧
        ∀ q o, regKey q o ≠ regKey p 0x1c → (p.ty = .vnr → ∀ a ∈ [0x60, 0x64], regKey q o ≠ regKey p a) →
          t.reg q o = s.reg q o)

/-- Every error event, of the header or of a block, sets its PG_STICKY bit and is recorded once: in PG_FIRST where that is
free, else in PG_SECOND, else by CAPT_LOST; a capture of an earlier reference-clock period is never overwritten. The
events of one period stand in ascending order of BIT, whichever comes to be reported first (R43): that one of a lower BIT,
reported later, takes the place of a capture of its own period and moves it on, or out with CAPT_LOST, is the model's
reading (log entry 7). -/
def Obligations.EventsAreCaptured : Prop :=
  ∀ (s : State) (p : PageId) (b info : Nat), b ≠ 3 → b < 32 →
    let w := BitVec.ofNat 32 (2 ^ 31 + b * 2 ^ 24 + info % 2 ^ 24)
    let t := raise s p b info
    t.f p 0x10 b b = 1 ∧
    (s.f p 0x18 31 31 = 0 → t.reg p 0x18 = w ∧ t.reg p 0x1c = s.reg p 0x1c) ∧
    (s.f p 0x18 31 31 = 1 → s.fresh p 4 = false → t.reg p 0x18 = s.reg p 0x18) ∧
    (s.f p 0x18 31 31 = 1 → s.f p 0x1c 31 31 = 0 →
      (s.fresh p 4 = false ∨ s.f p 0x18 28 24 < b → t.reg p 0x18 = s.reg p 0x18 ∧ t.reg p 0x1c = w) ∧
      (s.fresh p 4 = true → b < s.f p 0x18 28 24 → t.reg p 0x18 = w ∧ t.reg p 0x1c = s.reg p 0x18)) ∧
    (s.f p 0x18 31 31 = 1 → s.f p 0x1c 31 31 = 1 → t.f p 0x10 3 3 = 1 ∧
      (s.fresh p 4 = false → s.fresh p 5 = false → t.reg p 0x1c = s.reg p 0x1c) ∧
      (s.fresh p 4 = true → b < s.f p 0x18 28 24 → t.reg p 0x18 = w ∧ t.reg p 0x1c = s.reg p 0x18) ∧
      (s.fresh p 4 = false ∨ s.f p 0x18 28 24 < b → t.reg p 0x18 = s.reg p 0x18 ∧
        (s.fresh p 5 = true → b < s.f p 0x1c 28 24 → t.reg p 0x1c = w) ∧
        (s.f p 0x1c 28 24 < b → t.reg p 0x1c = s.reg p 0x1c)))

/-- A page's start and stop sequences end (R40, R41): a good start ends in ON and a failed one in OFF with SEQ_FAIL, EN as
it was; a stop ends in OFF, with SEQ_FAIL where it could not complete. Where EN has changed meanwhile the opposite
sequence begins at once, and the state is STOPPING or STARTING. The first part adds that nothing else changes, for the
page types whose blocks do nothing more at the end of a sequence. The second part is for every page but CYC_
(`CycleStartAndStop`). A start waits while modules of a DIE_ page train and, of a DVT_ page, while its DIE_ page is not ON
(R129, R143), and fails for a bank without a supply (R442). A stop waits while a load is in hand, a queue holds writes, or
a core its item, unless its 100 µs are up (R547, R413). As it ends, an unbound Panel loses its stores (R500; which, log
entry 18), a queue its responses (R283), and a core the item that it still holds (R413). -/
def Obligations.SequencesEnd : Prop :=
  ∀ (s : State) (p : PageId), pageExists p = true →
    (p.ty = .trg ∨ p.ty = .cap ∨ p.ty = .meas ∨ p.ty = .trc ∨ p.ty = .gau ∨ p.ty = .edl ∨ p.ty = .wd ∨ p.ty = .ring ∨
      p.ty = .vnr ∨ p.ty = .thm ∨ p.ty = .rpr ∨ p.ty = .drw ∨ p.ty = .hst ∨ p.ty = .pwr ∨ p.ty = .clp →
      (s.st p = stStarting →
      (∃ t, exec (.startSequenceEnd p true) s = .next (settle t) ∧ t = s.withRegs t.regs ∧ t.st p = (if s.en p then stOn else stStopping) ∧ t.en p = s.en p ∧
        ∀ q o, regKey q o ≠ regKey p 0x0c → t.reg q o = s.reg q o) ∧
      (∃ t, exec (.startSequenceEnd p false) s = .next t ∧ t.st p = stOff ∧ t.en p = s.en p ∧ t.f p 0x10 2 2 = 1)) ∧
      (∀ timeUp, s.st p = stStopping →
      ∃ t, exec (.stopSequenceEnd ⟨p, true, timeUp⟩) s = .next (settle t) ∧ t = s.withRegs t.regs ∧
        t.st p = (if s.en p then stStarting else stOff) ∧ t.en p = s.en p ∧
        ∀ q o, regKey q o ≠ regKey p 0x0c → t.reg q o = s.reg q o) ∧
      (∀ timeUp, s.st p = stStopping →
      ∃ t, exec (.stopSequenceEnd ⟨p, false, timeUp⟩) s = .next t ∧ t.st p = (if s.en p then stStarting else stOff) ∧
        t.en p = s.en p ∧ t.f p 0x10 2 2 = 1)) ∧
    (p.ty ≠ .cyc →
      let noSupply := p.ty = .pin ∧ s.f p 0x40 1 0 = 0
      let startWaits := p.ty = .die ∧ (∃ m, m < 4 ∧ s.modTrains (pageDie p) m = true) ∨
        p.ty = .dvt ∧ s.on (diePg (pageDie p)) = false
      (s.st p = stStarting →
        (startWaits → exec (.startSequenceEnd p true) s = .next (settle s)) ∧
        (∀ ok, ok = false ∨ noSupply → ∃ t, exec (.startSequenceEnd p ok) s = .next t ∧ t.st p = stOff ∧ t.en p = s.en p ∧
          t.f p 0x10 2 2 = 1) ∧
        (¬startWaits → ¬noSupply → ∃ t, exec (.startSequenceEnd p true) s = .next t ∧
          t.st p = (if s.en p then stOn else stStopping) ∧ t.en p = s.en p)) ∧
      (∀ ok timeUp, s.st p = stStopping →
        let waits := p.ty = .ldr ∧ s.ldSt ≠ ldIdle ∨ p.ty = .mq ∧ (s.queue (pageDie p) (p.inst % 1024)).held ≠ [] ∨
          p.ty = .cc ∧ s.ccSts p.inst 1 = true ∧ timeUp = false
        (waits → exec (.stopSequenceEnd ⟨p, ok, timeUp⟩) s = .next (settle s)) ∧
        (¬waits → ∃ t, exec (.stopSequenceEnd ⟨p, ok, timeUp⟩) s = .next t ∧
          t.st p = (if s.en p then stStarting else stOff) ∧ t.en p = s.en p ∧ (ok = false → t.f p 0x10 2 2 = 1) ∧
          (p.ty = .pnl → t.panel (pageDie p) (p.inst % 1024) =
            if s.f p 0x40 31 31 = 1 then s.panel (pageDie p) (p.inst % 1024) else Panel.empty) ∧
          (p.ty = .mq → (t.queue (pageDie p) (p.inst % 1024)).resps = []) ∧
          (p.ty = .cc → t.ccSts p.inst 1 = false))))

/-! ### The Dowel instruction set (R57-R107) -/

/-- What a Dowel's step leaves (R67, R72, R78, R116): its bit of the step's results, its bit of the step's carry-outs, the
record that it has executed, and, where its result is written, its Value Store slot of the step, with one toggle more
where that changes it; no other bit or step of these, no other slot, nothing else of the Panel, no other Panel. -/
def Obligations.DowelStepResult : Prop :=
  ∀ (s : State) (die panel k step : Nat) (r write cout : Bool), k < 64 →
    let p := s.panel die panel
    let t := endOfStep s die panel k step r write cout
    let q := t.panel die panel
    t = s.withPanels t.panels ∧
    (Tab.get (zeroAt 64) q.res step).getLsbD k = ((Tab.get (zeroAt 64) p.res step).getLsbD k || r) ∧
    (∀ j, j ≠ k → (Tab.get (zeroAt 64) q.res step).getLsbD j = (Tab.get (zeroAt 64) p.res step).getLsbD j) ∧
    (∀ u, u ≠ step → Tab.get (zeroAt 64) q.res u = Tab.get (zeroAt 64) p.res u) ∧
    (Tab.get (zeroAt 64) q.done step).getLsbD k = true ∧
    (∀ j, j ≠ k → (Tab.get (zeroAt 64) q.done step).getLsbD j = (Tab.get (zeroAt 64) p.done step).getLsbD j) ∧
    (∀ u, u ≠ step → Tab.get (zeroAt 64) q.done u = Tab.get (zeroAt 64) p.done u) ∧
    (Tab.get (zeroAt 64) q.cout step).getLsbD k = ((Tab.get (zeroAt 64) p.cout step).getLsbD k || cout) ∧
    (∀ j, j ≠ k → (Tab.get (zeroAt 64) q.cout step).getLsbD j = (Tab.get (zeroAt 64) p.cout step).getLsbD j) ∧
    (∀ u, u ≠ step → Tab.get (zeroAt 64) q.cout u = Tab.get (zeroAt 64) p.cout u) ∧
    (∀ i, Tab.get (fun _ => false) q.vs i =
      if write = true ∧ i = k * 4096 + step then r else Tab.get (fun _ => false) p.vs i) ∧
    q.toggles = (if write = true ∧ r ≠ Tab.get (fun _ => false) p.vs (k * 4096 + step) then p.toggles + 1 else p.toggles) ∧
    q = { p with res := q.res, done := q.done, cout := q.cout, vs := q.vs, toggles := q.toggles } ∧
    ∀ d2 p2, d2 * 132 + p2 ≠ die * 132 + panel → t.panel d2 p2 = s.panel d2 p2

/-- EVAL and EVALC (R71, R73, R76-R78): a Dowel that is due, with a word that checks and operands read without an event,
ends its step with the bit that the truth table gives for its four operands, INV applied, kept out of the Value Store
where KEEP is 1. EVALC's fourth operand is the chain's carry, and its carry-out the majority of a, b and that. -/
def Obligations.DowelLookup : Prop :=
  ∀ (s : State) (d : DowelAt) (w : BitVec 80), s.dowelReady d w →
    s.readsClean d (wOpa w) → s.readsClean d (wOpb w) → s.readsClean d (wOpc w) →
    (wOp w = 1 → s.readsClean d (wOpd w) →
      exec (.eval d) s = .next (settle (endOfStep s d.die d.panel d.dowel d.step
        (xor ((wTt w).testBit (bit (s.opd d (wOpa w)) + 2 * bit (s.opd d (wOpb w)) + 4 * bit (s.opd d (wOpc w)) +
          8 * bit (s.opd d (wOpd w)))) (wInv w)) (!wKeep w) false))) ∧
    (wOp w = 2 →
      let cin := carryIn s d.die d.panel d.dowel d.step (wOpd w)
      cin.rsvd = false → cin.badRow = none →
      exec (.evalc d) s = .next (settle (endOfStep s d.die d.panel d.dowel d.step
        (xor ((wTt w).testBit (bit (s.opd d (wOpa w)) + 2 * bit (s.opd d (wOpb w)) + 4 * bit (s.opd d (wOpc w)) +
          8 * bit cin.val)) (wInv w)) (!wKeep w) (maj (s.opd d (wOpa w)) (s.opd d (wOpb w)) cin.val))))

/-- PRD, PWR, PROBE, PINO and TRIGB (R81, R82): the result goes to the contribution bit that the selector names (the first
contribution of a step replaces the bit, later ones of the step are ORed), or, for a strobe selector of PRD or PWR, a
result of 1 fires the strobe; and the step ends as any does. -/
def Obligations.DowelContributes : Prop :=
  ∀ (s : State) (d : DowelAt) (w : BitVec 80), s.dowelReady d w →
    s.readsClean d (wOpa w) → s.readsClean d (wOpb w) → s.readsClean d (wOpc w) →
    ∀ e ∈ [(3, Instr.prd d), (4, Instr.pwr d), (6, Instr.probe d), (7, Instr.pino d), (9, Instr.trigb d)], wOp w = e.1 →
      let p := s.panel d.die d.panel
      let r := s.dowelBit d w
      (∀ b, selBit e.1 (wOpd w) = some b → selStrobe e.1 (wOpd w) = false →
        exec e.2 s = .next (settle (endOfStep (s.setPanel d.die d.panel { p with con := conSet p.con b d.step r })
          d.die d.panel d.dowel d.step r (!wKeep w) false))) ∧
      (selStrobe e.1 (wOpd w) = true →
        exec e.2 s = .next (settle (endOfStep
          (if r then s.setPanel d.die d.panel { p with strobes := p.strobes ++ [(d.step, e.1 == 4)] } else s)
          d.die d.panel d.dowel d.step r (!wKeep w) false)))

/-- MEMQ (R90, R281) contributes its result to a bit of the queue's record; STOPIF (R93, R113) with a result of 1 leaves
the stop request and its code, and the request arrives at the end of step s + 7; with 0 nothing is requested. -/
def Obligations.DowelRequests : Prop :=
  ∀ (s : State) (d : DowelAt) (w : BitVec 80), s.dowelReady d w →
    s.readsClean d (wOpa w) → s.readsClean d (wOpb w) → s.readsClean d (wOpc w) →
    let r := s.dowelBit d w
    let x := s.queue d.die (wOpd w / 1024)
    let p := s.panel d.die d.panel
    (wOp w = 5 → (s.qDesc d.die (wOpd w / 1024)).en = true →
      wOpd w % 1024 < (s.qDesc d.die (wOpd w / 1024)).recBits →
      exec (.memq d) s = .next (settle (endOfStep
        (s.setQueue d.die (wOpd w / 1024) { x with bits := conSet x.bits (wOpd w % 1024) d.step r })
        d.die d.panel d.dowel d.step r (!wKeep w) false))) ∧
    (wOp w = 8 → wOpd w < 256 → r = false →
      exec (.stopif d) s = .next (settle (endOfStep s d.die d.panel d.dowel d.step false (!wKeep w) false))) ∧
    (wOp w = 8 → wOpd w < 256 → r = true →
      let u := s.setPanel d.die d.panel { p with stopReq := true, stopCode := p.stopCode ||| BitVec.ofNat 8 (wOpd w) }
      exec (.stopif d) s = .next (settle (endOfStep
        (u.withCyc { s.cyc with stopAt := (d.step + 7) :: s.cyc.stopAt })
        d.die d.panel d.dowel d.step true (!wKeep w) false)))

/-- NOP (R71) ends its step with 0 and writes nothing; a reserved opcode ends it with 0 and sets PG_STICKY bit 8 of the
PNL_ page (R71, R107). A word whose fetch finds an uncorrectable error executes as NOP, with the event, a FAULT and a mark
for retirement (R102). -/
def Obligations.DowelIdleAndBadWords : Prop :=
  ∀ (s : State) (d : DowelAt) (w : BitVec 80),
    (s.dowelReady d w → wOp w = 0 →
      exec (.nop d) s = .next (settle (endOfStep s d.die d.panel d.dowel d.step false false false))) ∧
    (s.dowelReady d w → 10 ≤ wOp w →
      exec (.reservedOpcode d) s = .next (settle (endOfStep
        (raise s (pnlPg d.die d.panel) 8 (d.dowel * 2 ^ 12 + d.step)) d.die d.panel d.dowel d.step false (!wKeep w) false))) ∧
    (dowelDue s d = true → s.step = d.step →
      fetchWord (s.panel d.die d.panel) d.dowel d.step = (w, .uncorrectable) → wOp w = 1 →
      exec (.eval d) s = .next (settle (endOfStep
        (raiseFault (markPanel (raise s (pnlPg d.die d.panel) 11 (d.dowel * 2 ^ 12 + d.step)) d.die d.panel 2) 4 d.die 0)
        d.die d.panel d.dowel d.step false false false)))

/-! ### Panels' background work and the Dovetail fabric (R115-R143) -/

/-- SCRUB on a Panel whose word in hand has no error, and whose store the loader does not write, advances the scrubber to
the next word, and nothing else (R138, R139); in Idle and Retain it is paused (R493). EXPORT_RECORD takes the Panel's
probe and trigger registers and toggle count to H (R115). -/
def Obligations.ScrubAndExport : Prop :=
  ∀ (s : State) (die panel : Nat), die < 4 → panel < 132 → s.on (pnlPg die panel) = true →
    let p := s.panel die panel
    (s.stepsPass = false → exec (.scrub die panel) s = .next (settle s)) ∧
    (s.stepsPass = true → noFetch s = true → s.loaderWrites die panel = false → scrubHits p p.scrubPos .corrected = [] →
      scrubHits p p.scrubPos .uncorrectable = [] →
      exec (.scrub die panel) s =
        .next (settle (s.setPanel die panel { p with scrubPos := (p.scrubPos + 1) % 4096 }))) ∧
    (s.executing = true → s.cyc.phase ≠ .settled → (s.lpanel die panel).isSome = true → s.step = s.nLen →
      exec (.exportRecord die panel) s =
        .next (settle (s.withExports (Tab.put s.exports (die * 132 + panel)
          (conBits p.con 256 8, conBits p.con 264 8, p.toggles)))))

/-- CROSSBAR_ROW (R124, R70, R125, R143): each of the row's 6,144 destinations, the ingress bits and the bits that the
die's modules carry, is the source bit that the table names for it, and 0 where it names none, or while the DVT_ page is
not ON; and BUNDLE_SLOT_ROW (R134) the same for the slots of each bundle and the bits of each group's hub channel. Nothing
else of the fabric and nothing but the fabric changes. -/
def Obligations.FabricRows : Prop :=
  ∀ (s : State) (row : Nat), s.executing = true → row < s.nLen → s.step = row →
    (∀ g, g < 4 →
      let carried := fun (i : Nat) => s.on (dvtPg g) = true ∧
        ∃ e ∈ s.fab.xbar, e.1 = (g * 4096 + row) * 6144 + i ∧ xbarSource s g row e.2.toNat = true
      ∃ t, exec (.crossbarRow g row) s = .next (settle t) ∧
        t = s.withFab { s.fab with ingress := t.fab.ingress, sent := t.fab.sent } ∧
        (∀ i, i < 4096 → ((Tab.get (zeroAt 4096) t.fab.ingress (g * 4096 + row)).getLsbD i = true ↔ carried i)) ∧
        (∀ m lo, (m, lo) ∈ [(0, 4096), (1, 4608), (3, 5120), (2, 5632)] → ∀ i, i < 512 →
          ((Tab.get (zeroAt 512) t.fab.sent ((g * 4 + m) * 4096 + row)).getLsbD i = true ↔ carried (lo + i))) ∧
        (∀ j, j ≠ g * 4096 + row → Tab.get (zeroAt 4096) t.fab.ingress j = Tab.get (zeroAt 4096) s.fab.ingress j) ∧
        ∀ j, (∀ m, m < 4 → j ≠ (g * 4 + m) * 4096 + row) → Tab.get (zeroAt 512) t.fab.sent j = Tab.get (zeroAt 512) s.fab.sent j) ∧
    (let carried := fun (i : Nat) => ∃ e ∈ s.fab.slots, e.1 = row * 4736 + i ∧ slotSource s row i e.2.toNat = true
      ∃ t, exec (.bundleSlotRow row) s = .next (settle t) ∧
        t = s.withFab { s.fab with bsent := t.fab.bsent, sent := t.fab.sent } ∧
        (∀ b i, b < 6 → i < 448 →
          ((Tab.get (zeroAt 448) t.fab.bsent (b * 4096 + row)).getLsbD i = true ↔ carried (448 * b + i))) ∧
        (∀ g i, g < 4 → i < 512 →
          ((Tab.get (zeroAt 512) t.fab.sent ((16 + g) * 4096 + row)).getLsbD i = true ↔ carried (2688 + 512 * g + i))) ∧
        (∀ j, (∀ b, b < 6 → j ≠ b * 4096 + row) → Tab.get (zeroAt 448) t.fab.bsent j = Tab.get (zeroAt 448) s.fab.bsent j) ∧
        ∀ j, (∀ g, g < 4 → j ≠ (16 + g) * 4096 + row) → Tab.get (zeroAt 512) t.fab.sent j = Tab.get (zeroAt 512) s.fab.sent j)

/-- A die-link frame that arrives without an error in a hold leaves everything as it is; one of an execution puts the
payload sent into the receiver's step (R131-R133). -/
def Obligations.DieLinkFrames : Prop :=
  ∀ (s : State) (die m : Nat) (atHub : Bool) (t : Nat), die < 4 → m < 4 → (m = 2 ∨ atHub = false) →
    linkCarries s die m = true →
    (s.executing = false → exec (.dieLinkFrame die m atHub t ⟨0, 0, 0⟩) s = .next (settle s)) ∧
    (s.executing = true → s.step = t → t < s.tStep → linkLat m ≤ t → t - linkLat m < s.nLen →
      exec (.dieLinkFrame die m atHub t ⟨0, 0, 0⟩) s = .next (settle (s.withFab { s.fab with
        got := Tab.set (zeroAt 512) s.fab.got ((if atHub then 16 + die else die * 4 + m) * 8192 + t)
          (Tab.get (zeroAt 512) s.fab.sent (linkChannel die m atHub * 4096 + (t - linkLat m))) })))

/-- The modules of a die link (R129, R130, R133, R142): RETRAIN while the CYC_ page is not ON begins the training of the
die's four modules, and while it is ON is ignored with SEQ_FAIL; training that succeeds, with at most four failed lanes in
each direction, ends with the module up and its repairs shown, at both ends of a neighbour link, and any other with the
module down and DL_TRAIN; and a lane lost takes an up module down, with LANE_LOST and a FAULT. -/
def Obligations.DieLinkTraining : Prop :=
  ∀ (s : State) (die m : Nat), die < 4 → m < 4 →
    (∀ rq, s.serves rq → s.on cycPg = false →
      ∃ u, exec (.dieLinkRetrain rq die) s = .next (settle (beginTraining u die)) ∧ u = s.withRegs u.regs ∧
        (∀ q o, u.reg q o = s.reg q o) ∧ ∀ j, j < 4 → (beginTraining u die).modTrains die j = true) ∧
    (∀ rq, s.serves rq → s.on cycPg = true →
      ∃ t, exec (.dieLinkRetrain rq die) s = .next t ∧ t.fab = s.fab ∧ t.f (diePg die) 0x10 2 2 = 1) ∧
    (∀ a b, s.modTrains die m = true →
      (a ≤ 4 → b ≤ 4 → ∃ t, exec (.dieLinkTrainingEnd die m ⟨a, true⟩ b) s = .next t ∧
        ∀ d, d = die ∨ m < 2 ∧ d = farDie die m → t.mod d m = .up ∧
          t.f (diePg d) 0x40 (8 * m + 7) (8 * m + 7) = 1 ∧ t.f (diePg d) 0x40 (8 * m + 3) (8 * m) = a + b) ∧
      (∀ ok, ok = false ∨ 4 < a ∨ 4 < b → ∃ t, exec (.dieLinkTrainingEnd die m ⟨a, ok⟩ b) s = .next t ∧
        ∀ d, d = die ∨ m < 2 ∧ d = farDie die m → t.mod d m = .down ∧ t.f (diePg d) 0x10 12 12 = 1)) ∧
    (∀ lane, s.mod die m = .up →
      ∃ t, exec (.dlLane die m lane false) s = .next t ∧ t.mod die m = .down ∧ t.cyc.fault = true ∧
        t.f (diePg die) 0x10 11 11 = 1)

/-! ### Cycles, votes and the Clamp (R144-R182, R304-R307, R312) -/

/-- Starting and stopping (R143, R177, R179). A DVT_ page becomes ON once its DIE_ page is. The CYC_ page's checks end in
OFF with SEQ_FAIL where one fails, and otherwise in ON, with CYC_COUNT 0, held at the boundary before cycle 0, every queue
empty; no Panel changes. Its stop waits while an execution or a release vote without a cause is open and, once the Cabinet
holds, ends in OFF, held, with RUN 0 and REPLAYING still that of the latest execution. That the stop waits for such a
release vote is the model's reading (log entry 21). A start begun while the loader is in COMMIT finds no image (R242). -/
def Obligations.CycleStartAndStop : Prop :=
  ∀ (s : State),
    (∀ die, die < 4 → s.st (dvtPg die) = stStarting → s.on (diePg die) = true → s.en (dvtPg die) = true →
      ∃ t, exec (.dvtStartComplete die) s = .next (settle t) ∧ s.regsBut t [regKey (dvtPg die) 0x0c] ∧
        t.on (dvtPg die) = true) ∧
    (∀ timeout, s.st cycPg = stStarting → s.stepRuns = true → s.snapBusy = false → s.pagesReady = true ∨ timeout = true →
      let good := s.on clpPg = true ∧ s.f ldrPg 0x44 4 4 = 1 ∧ s.cyc.noImage = false ∧ s.prop ≤ s.sLen ∧ 48 * s.f bnd0 0x188 5 0 + 16 ≤ s.prop ∧
        (∀ b, b < 6 → s.f (bndPg b) 0x44 5 5 = 0) ∧ s.f bnd0 0x188 16 16 = 1 ∧ s.pagesReady = true
      (¬good → ∃ t, exec (.cycStartChecks timeout) s = .next t ∧ t.st cycPg = stOff ∧ t.en cycPg = s.en cycPg ∧
        t.f cycPg 0x10 2 2 = 1 ∧ t.cycCount = s.cycCount ∧ t.panels = s.panels) ∧
      (good → s.en cycPg = true → ∃ t, exec (.cycStartChecks timeout) s = .next t ∧ t.on cycPg = true ∧ t.cycCount = 0 ∧
        t.executing = false ∧ t.cyc.free = true ∧ t.cyc.rerun = false ∧ t.panels = s.panels ∧
        ∀ die q, die < 4 → q < 16 → (t.queue die q).resps = [] ∧ (t.queue die q).window = none)) ∧
    (s.st cycPg = stStopping → s.executing = true ∨ s.releaseDue = true → exec .cycStop s = .next (settle s)) ∧
    (s.st cycPg = stStopping → s.executing = false → s.releaseDue = false → s.en cycPg = false →
      ∃ t, exec .cycStop s = .next t ∧ t.st cycPg = stOff ∧ t.f cycPg 0x44 1 0 = 2 ∧
        t.f cycPg 0x44 2 2 = s.f cycPg 0x44 2 2 ∧ t.executing = false ∧ t.cyc.free = true ∧ t.panels = s.panels ∧ t.cycCount = s.cycCount)

/-- Votes. DECISION_STEP casts this device's causes, and VOTE_RELAY sends a round's message again (R147, R304): it waits,
on every UP bundle that is not in load mode, for the frames of counts V + 48k + 7 + 2i and the one after, and for the
spare lane where that is free (R305, R306), and a bundle whose receive direction is in load mode counts as HOST_HOLD
(R312); `i` is `roundPlace`, by the vote steps in `casts`. At the step at which a message comes, a bundle takes the copy
of its frames, or else that of its spare lane (the model's reading, log entry 22); one that counts for its round is ORed
into what the round has heard (R149, R307); one that disagrees on the committed lengths, PROP or MAX raises FAULT (R150),
also where this device's own K does not count it; and none where one was due raises VOTE_LOST and FAULT (R307). -/
def Obligations.Votes : Prop :=
  ∀ (s : State),
    let sends := fun (t : State) (r : Round) (k : Nat) => ∀ b, b < 6 →
      let x := (s.bundle b).tx
      let c := r.v + 48 * k + 7 + 2 * (s.withCyc t.cyc).roundPlace r.v k
      let m := s.voteMessage r
      t.bundle b = { s.bundle b with tx := if s.bup b = true ∧ s.loadMode b = false then
        { x with votes := x.votes ++ [(c, voteUnit1 m), (c + 1, voteUnit2 m)]
                 spare := if (s.txSpare b).isSome then x.spare ++ [(streamPos c / 8, voteBlock m)] else x.spare }
        else x }
    (s.cyc.phase = .running → s.step = s.dStep →
      let v := s.voteCauses true (s.cycCount + 1)
      let r : Round := ⟨0, s.cyc.csc, v, v ||| (if s.upBundles.any (fun b => s.heardLoad b s.cyc.csc) = true then 8 else 0), false⟩
      ∃ t, exec .decisionStep s = .next (settle t) ∧
        t = (((s.withRegs t.regs).withRecent t.recent).withBundles t.bundles).withCyc t.cyc ∧
        t.cyc = { s.cyc with phase := .voted, rounds := s.cyc.rounds ++ [r], lane := t.cyc.lane, replay := t.cyc.replay
                             casts := s.cyc.csc :: s.cyc.casts.filter (fun w => decide (s.cyc.csc < w + 2048)) } ∧
        (s.relays = 0 → t.bundles = s.bundles) ∧ (s.relays ≠ 0 → sends t r 0)) ∧
    (∀ (v : BitVec 64) k r, s.cyc.rounds.find? (fun r => r.v == v.toNat) = some r → 0 < k → k < s.relays →
      s.stepAhead (v.toNat + 48 * k) = true → s.cyc.csc = v.toNat + 48 * k →
      ∃ t, exec (.voteRelay v k) s = .next (settle t) ∧ t = s.withBundles t.bundles ∧ sends t r k) ∧
    (∀ b (v : BitVec 64) (k : Nat), b < 6 → s.bup b = true → s.heardLoad b (v.toNat + 48 * k) = false →
      s.cyc.csc = v.toNat + 48 * (k + 1) → s.stepAhead s.cyc.csc = true → (∀ r ∈ s.cyc.rounds, s.voteKnown r = false) →
      (∀ (m : BitVec 50) msg spare, (k < s.relays → m.toNat % 16 = v.toNat % 16) →
        msg = some m ∨ msg = none ∧ frameCopy s b v.toNat k = some m ∨
          msg = none ∧ frameCopy s b v.toNat k = none ∧ s.spareHeard b = true ∧ spare.bind spareCopy = some m →
        let agrees := fld m.toNat 25 13 = s.nLen ∧ fld m.toNat 35 26 = s.sLen ∧ fld m.toNat 45 36 = s.prop ∧
          fld m.toNat 48 46 = s.f clpPg 0x44 2 0
        let heard := s.cyc.rounds.map (fun r => if k < s.relays ∧ r.v = v.toNat ∧ r.held = false then
          { r with heard := r.heard ||| BitVec.ofNat 8 (fld m.toNat 11 4) } else r)
        (s.cycOn = false ∨ fld m.toNat 12 12 = 0 ∨ agrees →
          exec (.voteMessage b v ⟨k, msg⟩ spare) s = .next (settle (s.withCyc { s.cyc with rounds := heard }))) ∧
        (s.cycOn = true → fld m.toNat 12 12 = 1 → ¬agrees →
          ∃ t, exec (.voteMessage b v ⟨k, msg⟩ spare) s = .next t ∧ t.cyc.rounds = heard ∧ t.cyc.fault = true ∧
            t.f clpPg 0x10 9 9 = 1)) ∧
      (k < s.relays → s.votesExcused b v.toNat = false → s.cyc.rounds.any (fun r => r.v == v.toNat) = true →
        frameCopy s b v.toNat k = none →
        ∃ t, exec (.voteMessage b v ⟨k, none⟩ none) s = .next t ∧ t.cyc.rounds = s.cyc.rounds ∧ t.cyc.fault = true ∧
          t.f (bndPg b) 0x10 18 18 = 1))

/-- The end of an execution (R148, R163, R88, R100, R170). At C the Cabinet vote is held, and shows in CLP_LIVE and
CLP_CAUSE; a REPLAY vote at the limit raises FAULT. At Q, without REPLAY and FAULT, the cycle is committed: CYC_COUNT
advances, CURRENT is 0, the Value Stores are copied to the shadow banks and the write buffers drained, STOPIF requests
become live, and the writes that the queues hold are released to Veneer (R277; shown for one). With either, the cycle is
run again: CYC_COUNT stays, the Value Stores come back from the shadow banks, write buffers and held writes are discarded,
export records, STOPIF requests and the responses of the execution are withdrawn, and CURRENT and TOTAL advance for a
REPLAY without FAULT that has not escalated at C. Shown, for the restore, where no shadow row is bad. -/
def Obligations.ConfirmAndCommit : Prop :=
  ∀ (s : State),
    (∀ r, s.cyc.phase = .voted → s.step = s.cStep → s.cyc.rounds.find? (fun r => r.rel == 0) = some r →
      (r.heard.getLsbD 1 = false ∨ s.f clpPg 0x58 2 0 ≠ s.f clpPg 0x44 2 0 →
        exec .confirmStep s = .next (settle ((s.withCyc { s.cyc with
            phase := .confirmed, outcome := r.heard, cabinet := r.heard, limit := false
            rounds := s.cyc.rounds.filter (fun r => r.rel != 0) }).setReg clpPg 0x4c
              (s.reg clpPg 0x4c ||| BitVec.ofNat 32 r.heard.toNat)))) ∧
      (r.heard.getLsbD 1 = true → s.f clpPg 0x58 2 0 = s.f clpPg 0x44 2 0 →
        ∃ t, exec .confirmStep s = .next t ∧ t.cyc.phase = .confirmed ∧ t.cyc.outcome = r.heard ∧ t.cyc.fault = true ∧
          t.cyc.limit = true)) ∧
    (s.cyc.phase = .confirmed → s.step = s.qStep →
      (s.cyc.outcome.getLsbD 1 = false → s.cyc.outcome.getLsbD 7 = false →
        ∃ t, exec .commitStep s = .next t ∧ t.cyc.phase = .settled ∧ t.cyc.rerun = false ∧
          t.cycCount = (s.cycCount + 1) % 2 ^ 64 ∧ t.f clpPg 0x58 2 0 = 0 ∧ t.cyc.stopAt = [] ∧
          (t.cyc.stopif = true ↔ s.cyc.stopif = true ∨ s.cyc.stopAt ≠ []) ∧
          (∀ die q, die < 4 → q < 16 → (t.queue die q).held = []) ∧
          ((∀ die q, (s.queue die q).held = []) → t.hbm = s.hbm) ∧
          (∀ die q w, die < 4 → q < 16 → (s.queue die q).held = [w] →
            (∀ d2 q2, d2 * 16 + q2 ≠ die * 16 + q → (s.queue d2 q2).held = []) →
            ∃ u, u = s.withTrg u.trg ∧ t.hbm = (vnrWrite u (.queue (die * 16 + q)) w.addr w.bytes w.be).2.hbm) ∧
          ∀ die panel, die < 4 → panel < 132 →
            let p := s.panel die panel
            t.panel die panel = if (die, panel) ∈ s.livePanels then
              { p with sh := p.vs, shBad := p.vsBad, wbuf := []
                       ram := p.wbuf.foldl (fun m e => Tab.set (zeroAt 64) m e.1 e.2) p.ram
                       ramErr := p.wbuf.foldl (fun m e => Tab.set (fun _ => .clean) m e.1 .clean) p.ramErr }
            else p) ∧
      (s.cyc.outcome.getLsbD 1 = true ∨ s.cyc.outcome.getLsbD 7 = true →
        (∀ die panel, (s.panel die panel).shBad = []) →
        let again := s.cyc.outcome.getLsbD 7 = false ∧ s.cyc.limit = false
        ∃ t, exec .commitStep s = .next t ∧ t.cyc.phase = .settled ∧ t.cyc.rerun = true ∧ t.cycCount = s.cycCount ∧
          t.hbm = s.hbm ∧ t.exports = [] ∧ t.cyc.stopAt = [] ∧ t.cyc.stopif = s.cyc.stopif ∧
          t.f clpPg 0x58 2 0 = (if again then min 7 (s.f clpPg 0x58 2 0 + 1) else s.f clpPg 0x58 2 0) ∧
          t.f clpPg 0x58 31 16 = (if again then min (2 ^ 16 - 1) (s.f clpPg 0x58 31 16 + 1) else s.f clpPg 0x58 31 16) ∧
          (∀ die q, die < 4 → q < 16 → (t.queue die q).held = [] ∧ (t.queue die q).resps =
            (s.queue die q).resps.filter (fun r => !(s.queue die q).issued || r.cycle != s.cycCount)) ∧
          ∀ die panel, die < 4 → panel < 132 →
            let p := s.panel die panel
            t.panel die panel = if (die, panel) ∈ s.livePanels then { p with vs := p.sh, vsBad := p.shBad, wbuf := [] } else p))

/-- Boundaries and holds (R157, R160, R162, R176). A Cabinet vote of 0 starts the next execution at T, step 0, and any
other opens a hold. In a hold each release point has a vote PROP steps before it; a release vote of 0 while the CYC_ page
is ON ends the hold at the release point, and any other goes on with it, with one slot more in CLP_HOLD_CNT either way. In
the hold before cycle 0 (`free`) the release points lie at multiples of 64 of the count, from the next on. A release round
whose vote has not been held by then is held at the release point. -/
def Obligations.BoundaryAndReleases : Prop :=
  ∀ (s : State),
    (s.cyc.phase = .settled → s.step = s.tStep →
      (s.cyc.outcome = 0 → ∃ t, exec .boundary s = .next t ∧ t.cyc.phase = .running ∧ t.step = 0 ∧
        t.cyc.csc = s.cyc.csc ∧ t.cycCount = s.cycCount) ∧
      (s.cyc.outcome ≠ 0 →
        let m := s.cyc.csc + 64 * max 1 ((s.prop + 63) / 64)
        exec .boundary s = .next (settle ((s.withCyc { s.cyc with
          phase := .held, t0 := s.cyc.csc, nextRel := s.cyc.csc + 64, voteFor := m, firstRel := m }).setF
            cycPg 0x44 1 1 1)))) ∧
    (s.executing = false → s.stepsPass = true →
      let point := if s.cyc.free then max s.cyc.nextRel (ceil64 s.cyc.csc) else s.cyc.nextRel
      let due := if s.cyc.free then max s.cyc.voteFor (ceil64 (s.cyc.csc + s.prop)) else s.cyc.voteFor
      (due < point + s.prop → s.cyc.csc + s.prop = due →
        ∃ t r, exec .releaseVote s = .next (settle t) ∧
          t = (((s.withRegs t.regs).withRecent t.recent).withBundles t.bundles).withCyc t.cyc ∧
          t.cyc = { s.cyc with rounds := s.cyc.rounds ++ [r], nextRel := point, voteFor := due + 64, lane := t.cyc.lane
                               casts := s.cyc.csc :: s.cyc.casts.filter (fun w => decide (s.cyc.csc < w + 2048)) } ∧
          r.rel = due ∧ r.v = s.cyc.csc ∧ r.own = s.voteCauses (!s.cyc.rerun) s.cycCount ∧ r.held = false) ∧
      (∀ r, point < due ∨ point < s.cyc.firstRel → s.cyc.csc = point → s.cycOn = true →
        s.cyc.rounds.find? (fun r => r.rel == point) = some r →
        (r.heard = 0 → ∃ t, exec .releasePoint s = .next t ∧ t.cyc.phase = .running ∧ t.step = 0 ∧
          t.cyc.csc = point ∧ t.cyc.free = false ∧ t.cycCount = s.cycCount ∧
          t.f clpPg 0x5c 31 0 = min (2 ^ 32 - 1) (s.f clpPg 0x5c 31 0 + 1) ∧ (r.held = false → t.cyc.cabinet = 0)) ∧
        (r.heard ≠ 0 → ∃ t, exec .releasePoint s = .next (settle t) ∧ t = (s.withCyc t.cyc).withRegs t.regs ∧
          t.cyc.phase = .held ∧ t.cyc.nextRel = point + 64 ∧
          t.f clpPg 0x5c 31 0 = min (2 ^ 32 - 1) (s.f clpPg 0x5c 31 0 + 1) ∧
          (r.held = false → t.cyc.cabinet = r.heard ∧
            t.reg clpPg 0x4c = s.reg clpPg 0x4c ||| BitVec.ofNat 32 r.heard.toNat))))

/-- The Clamp's registers (R156, R170, R180, R182, R243). CLP_HOST_HOLD makes HOST_HOLD live or ends it; the writes of
CLP_RELEASE each end their cause, that of FAULT makes CURRENT 0 (also where FAULT was not live: the model's choice, log
entry 43), and STOPIF requests still on their way stay; CLP_PROP and CLP_REPLAY_MAX are written while the CYC_ page is OFF
and the page is unlocked, and else stay, with SEQ_FAIL. -/
def Obligations.ClampControls : Prop :=
  ∀ (s : State) (rq : Requester), s.serves rq →
    (∃ t, exec (.clpHostHold rq true) s = .next (settle t) ∧
      t = (s.withRegs t.regs).withLdr { s.ldr with holdOff := false } ∧ t.f clpPg 0x48 0 0 = 1 ∧
      t.standing.getLsbD 3 = true ∧ ∀ q o, regKey q o ≠ regKey clpPg 0x48 → t.reg q o = s.reg q o) ∧
    (s.ldSt ≠ ldCommit ∨ s.cycOff = true → s.snapBusy = false →
      ∃ t, exec (.clpHostHold rq false) s = .next (settle t) ∧ s.regsBut t [regKey clpPg 0x48] ∧ t.f clpPg 0x48 0 0 = 0 ∧
        (s.cycOn = true → t.standing.getLsbD 3 = false)) ∧
    (∃ u, exec (.clpReleaseFault rq) s = .next (settle (u.withCyc { s.cyc with
        fault := false, carried := s.cyc.carried &&& ~~~cFault })) ∧
      s.regsBut u [regKey clpPg 0x54, regKey clpPg 0x58] ∧ u.f clpPg 0x58 2 0 = 0 ∧
      u.f clpPg 0x58 31 16 = s.f clpPg 0x58 31 16) ∧
    (∃ u, exec (.clpReleaseStopif rq) s = .next (settle (u.withCyc { s.cyc with
        stopif := false, stopAt := s.cyc.stopAt.filter (fun t => decide (s.step ≤ t))
        carried := s.cyc.carried &&& ~~~cStopif })) ∧
      s.sameRegs u) ∧
    (∃ u, exec (.clpReleaseTrigStop rq) s = .next (settle (u.withCyc { s.cyc with
        trigStop := false, carried := s.cyc.carried &&& ~~~cTrigStop })) ∧ s.sameRegs u) ∧
    (∀ max v, s.locked clpPg = false → v &&& ~~~(if max then 7 else 0x3ff) = 0 →
      let off := if max then 0x44 else 0x40
      (s.cycOff = true → ∃ t, exec (.clpPropWrite rq max v) s = .next (settle t) ∧ s.regsBut t [regKey clpPg off] ∧
        t.f clpPg off (if max then 2 else 9) 0 = v.toNat) ∧
      (s.cycOff = false → s.f clpPg off (if max then 2 else 9) 0 ≠ v.toNat →
        ∃ t, exec (.clpPropWrite rq max v) s = .next t ∧ t.reg clpPg off = s.reg clpPg off ∧ t.f clpPg 0x10 2 2 = 1))

/-- The memory queues (R276, R277, R280, R286). At step N + 8 a queue takes its record once: each access's write is held,
in order, and a response is put in flight. The oldest response in flight arrives (that it is the oldest is the model's
reading, log entry 28): it is marked so, PENDING falls, and nothing else changes where no read of it failed; each read
that failed sets RD_ERR and counts (R273). -/
def Obligations.QueueTraffic : Prop :=
  ∀ (s : State) (die q : Nat), die < 4 → q < 16 →
    (s.executing = true → s.cyc.phase ≠ .settled → s.on (mqPg die q) = true → (s.queue die q).issued = false →
      s.step = s.nLen + 8 →
      let d := s.qDesc die q
      let acc := fun i => d.access (s.queue die q).bits i
      ∃ t, exec (.queueIssue die q) s = .next t ∧ (t.queue die q).issued = true ∧ t.cyc.csc = s.cyc.csc ∧
        (t.queue die q).held = ((List.range d.acc).filter (fun i => (acc i).we)).map
          (fun i => ⟨(acc i).addr, bytesLE d.wBytes (acc i).wdata, (acc i).be, i⟩) ∧
        (t.queue die q).resps.length = (s.queue die q).resps.length + 1 ∧ t.hbm = s.hbm) ∧
    (∀ r, (s.queue die q).resps.find? (fun r => !r.arrived) = some r →
      ∃ u, exec (.memoryResponse die q) s = .next (settle u) ∧
        u = ((s.withQueues u.queues).withRegs u.regs).withRecent u.recent ∧ (r.err = 0 → u.recent = s.recent) ∧
        (let failed := ((List.range r.classes.length).filter (fun i => r.err.getLsbD i)).length
         (failed ≠ 0 → u.f (mqPg die q) 0x10 9 9 = 1) ∧
         u.f (mqPg die q) 0x54 15 0 = min (2 ^ 16 - 1) (s.f (mqPg die q) 0x54 15 0 + failed)) ∧
        (u.queue die q).resps.filter (fun r => !r.arrived) = ((s.queue die q).resps.filter (fun r => !r.arrived)).tail ∧
        (u.queue die q).resps.length = (s.queue die q).resps.length ∧
        u.f (mqPg die q) 0x4c 3 0 = ((s.queue die q).resps.filter (fun r => !r.arrived)).tail.length % 16 ∧
        ∀ d2 q2, d2 * 16 + q2 ≠ die * 16 + q → u.queue d2 q2 = s.queue d2 q2)

/-! ### The loader (R211-R251) -/

/-- The registers of the loader (R222, R223, R224, R228, R231, R238, R239). GO begins a load in RECEIVE where the page is
ON, the loader IDLE and the areas are as R222 asks, and else is ignored with SEQ_FAIL; END marks the end of the host's
stream; ABORT refuses the segment in hand, gives up a load that is READY, and is ignored with SEQ_FAIL in IDLE and from
the commit on; COMMIT orders a READY load to commit; WR_PTR moves unless SRC is 1 or the ring would hold too much. Shown
with a ring that is empty and no whole unit that waits to be written to it. -/
def Obligations.LoaderCommands : Prop :=
  ∀ (s : State) (rq : Requester), s.serves rq → s.wrPtr = s.rdPtr → s.ldr.part.length < 16 →
    let may := s.on ldrPg = true ∧ s.ldSt = ldIdle ∧ s.areasOk = true
    (may → ∃ t, exec (.go rq) s = .next (settle t) ∧ t = (s.withRegs t.regs).withLdr t.ldr ∧ t.ldSt = ldReceive ∧
      t.ldr.head = true ∧ t.ldr.seg = [] ∧ t.ldr.segLen = none ∧ t.ldr.endSeen = false ∧ t.ldPos = 0 ∧ t.ldLen = 0 ∧
      t.reg64 ldrPg 0xc8 = 0 ∧ t.reg64 ldrPg 0xc0 = 0 ∧ t.ldr.fuses = s.ldr.fuses ∧ t.ldr.counts = s.ldr.counts) ∧
    (¬may → ∃ t, exec (.go rq) s = .next t ∧ t.ldSt = s.ldSt ∧ t.ldr = s.ldr ∧ t.f ldrPg 0x10 2 2 = 1) ∧
    (s.ldSt ≠ ldIdle → s.ldr.head = true →
      ∃ u, exec (.endStream rq) s = .next (settle (u.withLdr { s.ldr with endSeen := true })) ∧ s.sameRegs u) ∧
    (s.ldSt = ldReceive ∨ s.ldSt = ldCheck → s.ldr.head = true → s.ldr.ended = false →
      ∃ t, exec (.abort rq) s = .next (settle t) ∧ t = (s.withRegs t.regs).withLdr t.ldr ∧ t.ldSt = ldDrain ∧
        t.ldr = { s.ldr with refused := some (1, 0), passed := false }) ∧
    (s.ldSt = ldReady → ∃ t, exec (.abort rq) s = .next t ∧ t.ldSt = ldIdle ∧
      t.reg ldrPg 0x48 = loadResult 7 0 s.ldPos 0xf ∧ t.f ldrPg 0x10 8 8 = 1 ∧ t.f ldrPg 0x10 9 9 = 1) ∧
    (s.ldSt = ldIdle ∨ s.ldSt = ldCommitWait ∨ s.ldSt = ldCommit →
      ∃ t, exec (.abort rq) s = .next t ∧ t.ldSt = s.ldSt ∧ t.ldr = s.ldr ∧ t.f ldrPg 0x10 2 2 = 1) ∧
    (s.ldSt = ldReady → ∃ t, exec (.commit rq) s = .next (settle t) ∧ t.ldSt = ldCommitWait ∧ t.ldr.timer = false ∧
      (s.ldPos + 1 < s.ldLen → s.bup s.ldr.down = true →
        Packet.chain (.commit (s.reg ldrPg 0x4c)) ∈ (t.bundle s.ldr.down).tx.queue)) ∧
    (s.ldSt ≠ ldReady → ∃ t, exec (.commit rq) s = .next t ∧ t.ldSt = s.ldSt ∧ t.ldr = s.ldr ∧ t.f ldrPg 0x10 2 2 = 1) ∧
    (∀ src, ∃ t, exec (.srcSelect rq src) s = .next (settle t) ∧ s.regsBut t [regKey ldrPg 0x40] ∧
      t.f ldrPg 0x40 8 8 = bit src) ∧
    (∀ v : BitVec 32,
      let far := s.ringSize / 16 < (v.toNat + 2 ^ 32 - s.rdPtr) % 2 ^ 32
      (s.ldSrc = true ∨ far → ∃ t, exec (.ldrWrPtrWrite rq v) s = .next t ∧ t.wrPtr = s.wrPtr ∧ t.f ldrPg 0x10 2 2 = 1) ∧
      (s.ldSrc = false → ¬far → s.ldSt = ldIdle →
        exec (.ldrWrPtrWrite rq v) s = .next (settle (s.setReg ldrPg 0x68 v))))

/-- What comes in at the test port (R226, R227, R228), and the end of the stream (R224, R232, R236). LDR_DATA gives the
ring four bytes, which wait until they fill a unit; LDR_CTRL writes LDR_CTL; each sends out what the port captured. At the
end of the stream a passed last segment of the head is READY, and an unfinished segment fails with LD_TRUNC. -/
def Obligations.LoaderInput : Prop :=
  ∀ (s : State), s.refRuns = true →
    let port := fun (ir : BitVec 8) => (s.send (.tdo 8 s.captureIr)).withTap { s.tap with ir := ir }
    (∀ w, s.tap.ir ≠ 0 → s.ldSrc = true → s.on ldrPg = true → s.ldSt = ldIdle → s.ldr.part.length + 4 < 16 →
      exec (.ldrData w) s =
        .next (settle ((port 0x38).withLdr { s.ldr with part := s.ldr.part ++ bytesLE 4 w.toNat }))) ∧
    (∀ w, s.tap.ir ≠ 0 → w.toNat % 16 = 0 →
      ∃ t, exec (.ldrCtrl w) s = .next (settle t) ∧ (port 0x39).regsBut t [regKey ldrPg 0x40] ∧
        t.f ldrPg 0x40 8 8 = bit (w.getLsbD 4)) ∧
    (s.streamDue = true → s.ldr.head = true → s.ldSt = ldCheck → s.ldr.passed = true →
      exec .streamEnd s = .next (settle ((s.withLdr { s.ldr with ended := true, endSeen := true }).setLdSt ldReady))) ∧
    (s.streamDue = true → s.ldr.head = true → s.ldSt = ldReceive → s.ldr.segLen = none →
      ∃ t, exec .streamEnd s = .next t ∧ t.ldSt = ldIdle ∧ t.reg ldrPg 0x48 = loadResult 1 0 s.ldPos 1 ∧
        t.f ldrPg 0x10 9 9 = 1)

/-- The tests of a segment (R218, R229, R230, R231) on a device that holds its whole own segment, with an empty ring, no
whole unit that waits for it, a free response buffer and END not seen: a sound prefix for this device's serial, with a key
that may be used, is taken; one that is not sound, or names no such key, is refused, and so is a tag that is wrong, each
with its code, and the device drains. The plaintext of a right tag is staged, and an image of one device that passes its
checks waits for its commit; `u` is the state once the plaintext has been read again, which counts flits on the rings. -/
def Obligations.SegmentTests : Prop :=
  ∀ (s : State), s.wrPtr = s.rdPtr → s.ldr.part.length < 16 → s.bufferFree 10 = true → s.ldr.endSeen = false →
    s.ldr.ended = false → s.ldr.head = true →
    let p := s.ldr.seg
    let drains := fun (o : Host.Outcome State Fault Refusal) (code : Nat) => ∃ t, o = .next t ∧ t.ldSt = ldDrain ∧
      t.ldr.refused = some (code, 0) ∧ t.ldr.passed = false
    (s.ldSt = ldReceive → s.ldr.segLen = none → 64 ≤ p.length →
      let sound := prefixSound p = true ∧ at_ p 8 8 = s.drw.serial.toNat
      (¬sound → drains (exec .segmentPrefix s) 8) ∧
      (sound → s.slotKey (at_ p 36 1) = none → drains (exec .segmentPrefix s) 4) ∧
      (∀ k, sound → s.slotKey (at_ p 36 1) = some k →
        ∃ u, exec .segmentPrefix s = .next (settle (u.withLdr { s.ldr with segLen := some (at_ p 16 8), key := k })) ∧
          s.regsBut u [regKey ldrPg 0x44, regKey ldrPg 0x4c] ∧ u.ldSt = ldReceive ∧ u.ldPos = at_ p 37 1 % 256 ∧
          u.ldLen = at_ p 38 1 % 256 ∧ u.reg ldrPg 0x4c = BitVec.ofNat 32 (at_ p 40 4))) ∧
    (s.ldSt = ldReceive → s.ldr.segLen = some p.length →
      let body := (p.drop 64).take (p.length - 80)
      let key := keyBytesFirst s.ldr.key
      let plain := gcmCrypt key ((p.drop 24).take 12) body
      let right := gcmTag key ((p.drop 24).take 12) (p.take 64) body = p.drop (p.length - 16)
      (¬right → drains (exec .tagVerify s) 3) ∧
      (right → (vnrWriteRun s .loader s.workBase plain).1 = 0 →
        ∃ t, exec .tagVerify s = .next t ∧ t.ldSt = ldCheck ∧ t.ldr.plain = plain)) ∧
    (∀ i u, s.ldSt = ldCheck → s.ldr.passed = false →
      vnrReadRun s .loader s.workBase s.ldr.plain.length = (0, s.ldr.plain, u) →
      u = s.withRegs u.regs → (∀ p o, p.ty ≠ .ring → u.reg p o = s.reg p o) →
      let cls := at_ s.ldr.plain 0 4
      (cls ≠ 0x7264 → cls ≠ 0x5132 → drains (exec .checkEnd s) 2) ∧
      (cls = 0x7264 → s.ldr.image = some i → i.sound s.ldLen = true → i.chainSerial s.ldPos = s.drw.serial.toNat →
        contentCheck u i s.ldLen = none → s.ldLen = 1 →
        exec .checkEnd s = .next (settle ((u.withLdr { s.ldr with passed := true }).setLdSt ldCommitWait))))

/-- The commit (R121, R144, R184, R241, R242, R244, R249, R552). It begins when the CYC_ page is OFF, or for a partial
image while HOST_HOLD holds; a full image takes IMAGE to 0 meanwhile. Where no Panel is marked, nothing else changes: that
every write comes at COMMIT_END is the model's choice (log entry 23). It ends in IDLE with LD_OK and LOAD_DONE. What it
writes: into each Panel that is or becomes bound, the items that the image supplies, the Value Store with its shadow bank,
and for a full image all of Panel RAM. A full image has IMAGE 1; it writes rows 0 to N-1 of the routing tables, CYC_LEN,
and the bindings, the p-th Panel of a die that is not retired for logical Panel p, with EN of the PNL_ pages and EN of
each DVT_ page whose group needs a crossbar. This is shown for one with no queue layout and no Gauge programming, where
the rings reach every page and what is written is not locked. -/
def Obligations.ImageCommit : Prop :=
  ∀ (s : State) (i : Image), s.ldr.image = some i →
    (s.ldSt = ldCommitWait →
      let may := s.snapBusy = false ∧
        (s.cycOff = true ∨ i.full = false ∧ s.f cycPg 0x44 1 1 = 1 ∧ s.f clpPg 0x48 0 0 = 1)
      (¬may → exec .commitBegin s = .next (settle s)) ∧
      (may → i.full = false → exec .commitBegin s = .next (settle (s.setLdSt ldCommit))) ∧
      (may → i.full = true → (∀ d p, d < 4 → p < 132 → s.marked d p = false) →
        exec .commitBegin s = .next (settle ((s.setF ldrPg 0x44 4 4 0).setLdSt ldCommit)))) ∧
    (s.ldSt = ldCommit →
      ∃ t, exec .commitEnd s = .next t ∧ t.ldSt = ldIdle ∧ t.reg ldrPg 0x48 = 0 ∧ t.f ldrPg 0x10 8 8 = 1 ∧
        t.wrPtr = t.rdPtr ∧ t.ldr.passed = false ∧
        (let loaded := fun (g p ph : Nat) =>
           let x := s.panel g ph
           let y := t.panel g ph
           y.is = putAll (zeroAt 80) x.is (i.panelWords g p) ∧ y.egress = putAll (zeroAt 6) x.egress (i.panelEgress g p) ∧
             y.ram = putAll (zeroAt 64) (if i.full then [] else x.ram) (i.panelRam g p) ∧
             (∀ es, i.panelSlots g p = some es → y.vs = putAll (fun _ => false) [] es ∧ y.sh = y.vs) ∧
             (i.panelSlots g p = none → y.vs = x.vs ∧ y.sh = x.sh)
         (i.full = false → (∀ g p ph, g < 4 → p < s.ldr.counts.getD g 0 → s.phys g p = some ph → ph < 132) → ∀ g p ph, g < 4 →
           p < s.ldr.counts.getD g 0 → s.phys g p = some ph →
           (∀ p', p' < s.ldr.counts.getD g 0 → s.phys g p' = some ph → p' = p) → loaded g p ph) ∧
         (i.full = true → i.ofTy 9 = [] → t.f ldrPg 0x44 4 4 = 1 ∧ t.f ldrPg 0x44 5 5 = bit i.fore) ∧
         (i.full = true → i.ofTy 8 = [] → i.ofTy 9 = [] → s.aheadOf 10 2 = none →
           (∀ p, pageExists p = true →
             (s.route 10 (nodeOfPage p)).isSome = true ∧ (s.route (nodeOfPage p) 10).isSome = true) →
           (∀ g, g < 4 → s.locked (dvtPg g) = false ∧
             ∀ ph, ph < 132 → s.retired g ph = false → s.locked (pnlPg g ph) = false) →
           let good := fun (g : Nat) => (List.range 132).filter (fun ph => !s.retired g ph)
           t.nLen = i.n % 2 ^ 13 ∧ t.sLen = i.s % 2 ^ 10 ∧
             t.fab.xbar = putAll noSource (keepRows s.fab.xbar 6144 i.n) i.xbarEntries ∧
             t.fab.slots = putAll noSource (keepRows s.fab.slots 4736 i.n) i.slotEntries ∧
             (∀ g p ph, g < 4 → p < 128 → p < i.pg g → (good g)[p]? = some ph →
               t.reg (pnlPg g ph) 0x40 = BitVec.ofNat 32 (2 ^ 31 + p) ∧ t.phys g p = some ph ∧ t.en (pnlPg g ph) = true ∧
               loaded g p ph) ∧
             (∀ g ph, g < 4 → ph < 132 → (∀ p, p < i.pg g → (good g)[p]? ≠ some ph) →
               t.reg (pnlPg g ph) 0x40 = 0 ∧ (s.retired g ph = false → t.en (pnlPg g ph) = false)) ∧
             ∀ g, g < 4 → (t.en (dvtPg g) = true ↔ i.pg g ≠ 0 ∨
               ∃ e ∈ t.fab.xbar, e.1 / 6144 / 4096 = g ∧ e.1 / 6144 % 4096 < i.n))))

/-- The messages of a chained load (R231-R240, R551): each, on a bundle that takes it, moves the load of a device that is
in the state it is for. `taken` is the state that has counted the message's two units (R310). COMMIT, and ABORT, with
another LOAD_ID than the load's are ignored: the model's choice (log entry 45). -/
def Obligations.LoadChain : Prop :=
  ∀ (s : State),
    let up := s.ldr.up
    let down := s.ldr.down
    (∀ b pos id, s.accepts b →
      (s.on ldrPg = true → s.ldSt = ldIdle → s.ldSrc = false → s.allAreasOk = true →
        ∃ t, exec (.chainStart b pos id) s = .next (settle t) ∧ t = ((s.taken b 2).withRegs t.regs).withLdr t.ldr ∧
          t.ldSt = ldReceive ∧ t.ldr.head = false ∧ t.ldr.up = b ∧ t.ldr.startPos = pos ∧ t.ldr.startId = id ∧
          t.reg ldrPg 0x4c = id) ∧
      (s.ldSt ≠ ldIdle → exec (.chainStart b pos id) s =
        .next (settle (sendPacket (s.taken b 2) b (.chain (.fail pos 0xd 0)))))) ∧
    (s.accepts up → s.ldr.head = false →
      (s.ldSt = ldCheck → s.ldr.passed = false → s.ldr.ended = false → s.wrPtr = s.rdPtr → s.ldr.part.length < 16 →
        exec .chainEnd s = .next (settle ((s.taken up 2).withLdr { s.ldr with ended := true, endSeen := true }))) ∧
      (∀ id, s.ldSt = ldReady →
        (id = s.reg ldrPg 0x4c → ∃ t, exec (.chainCommit id) s = .next t ∧ t.ldSt = ldCommitWait ∧ t.ldr.timer = false) ∧
        (id ≠ s.reg ldrPg 0x4c → exec (.chainCommit id) s = .next (settle (s.taken up 2)))) ∧
      (∀ pos, s.ldSt = ldReady →
        (∃ t, exec (.chainAbort pos (s.reg ldrPg 0x4c)) s = .next t ∧ t.ldSt = ldIdle ∧
          t.reg ldrPg 0x48 = loadResult 7 0 pos 0xf) ∧
        ∀ id, id ≠ s.reg ldrPg 0x4c → exec (.chainAbort pos id) s = .next (settle (s.taken up 2)))) ∧
    (s.accepts down →
      (s.ldSt = ldForward → ∃ t, exec .chainReady s = .next (settle t) ∧ t.ldr.timer = false ∧
        t.ldSt = (if s.ldr.head then ldCommitWait else ldReady) ∧
        (s.ldr.head = false → s.bup up = true → Packet.chain .ready ∈ (t.bundle up).tx.queue)) ∧
      (∀ pos code check, s.ldSt = ldForward →
        ∃ t, exec (.chainFail pos code check) s = .next t ∧ t.ldSt = ldIdle ∧
          t.reg ldrPg 0x48 = loadResult 7 0 pos code ∧ t.f ldrPg 0x10 9 9 = 1 ∧
          (s.ldr.head = false → s.bup up = true → Packet.chain (.fail pos code check) ∈ (t.bundle up).tx.queue)) ∧
      (∀ pos, pos < 64 →
        (s.ldr.head = true → exec (.chainDone pos) s = .next (settle ((s.taken down 2).setReg64 ldrPg 0xc0
          ((BitVec.ofNat 64 (s.reg64 ldrPg 0xc0) ||| BitVec.ofNat 64 (2 ^ pos)).toNat)))) ∧
        (s.ldr.head = false → s.bup up = true → ∃ t, exec (.chainDone pos) s = .next (settle t) ∧
          Packet.chain (.done pos) ∈ (t.bundle up).tx.queue))) ∧
    (s.ldr.timer = true → s.ldSt = ldForward →
      ∃ t, exec .chainTimeout s = .next t ∧ t.ldSt = ldIdle ∧ t.reg ldrPg 0x48 = loadResult 7 0 (s.ldPos + 1) 0xe) ∧
    (s.ldr.timer = false → exec .chainTimeout s = .next (settle s))

/-- The key slots (R217, R219, R220, R221). BURN programs a fuse slot once, where the loader is IDLE and the input voltage
suffices, and else records KEY_FAIL; RETIRE is for good; the battery slot is written, cleared, and lost at a tamper or a
low battery, which the next power-on reports; every write of a command clears LDR_KEY_DATA. That BURN goes by the last
reading in PWR_VIN, and RETIRE of a slot never programmed, are as the model reads R219 (log entry 25). -/
def Obligations.KeySlots : Prop :=
  ∀ (s : State),
    (∀ (rq : Requester) (slot : BitVec 2), s.serves rq → s.locked ldrPg = false →
      let may := Tab.get (fun _ => none) s.ldr.fuses slot.toNat = none ∧ s.ldSt = ldIdle ∧ 11400 ≤ s.f pwrPg 0x60 15 0
      (may → ∃ u, exec (.burn rq slot) s = .next (settle (u.withLdr { s.ldr with
          fuses := Tab.set (fun _ => none) s.ldr.fuses slot.toNat (some s.ldr.keyData), keyData := 0 })) ∧
        s.regsBut u [regKey ldrPg 0x74]) ∧
      (¬may → ∃ t, exec (.burn rq slot) s = .next t ∧ t.ldr = { s.ldr with keyData := 0 } ∧ t.f ldrPg 0x10 10 10 = 1) ∧
      (∃ u, exec (.retire rq slot) s = .next (settle (u.withLdr { s.ldr with
          retired := s.ldr.retired ||| BitVec.ofNat 4 (2 ^ slot.toNat), keyData := 0 })) ∧
        s.regsBut u [regKey ldrPg 0x74])) ∧
    (∀ rq : Requester, s.serves rq →
      (∃ u, exec (.battWrite rq) s = .next (settle (u.withLdr { s.ldr with batt := some s.ldr.keyData, keyData := 0 })) ∧
        s.sameRegs u) ∧
      (∃ u, exec (.battClear rq) s = .next (settle (u.withLdr { s.ldr with batt := none, keyData := 0 })) ∧
        s.sameRegs u)) ∧
    exec .tamper s = .next (settle (s.withLdr { s.ldr with batt := none, tamper := true })) ∧
    exec .vbatLow s = .next (settle (s.withLdr { s.ldr with batt := none, tamper := true }))

/-! ### Veneer (R252-R274, R553) -/

/-- A line access (R225, R254, R257, R258, R260, R271, R553), by the first check that fails: no region or page, the ACCESS
bit, the key's state, the seal's state, poison, the line's own error. Each answers its class with zeros, sets the class's
sticky bit, and leaves memory and the counters as they were; one of the loader sets its VENEER_ERR as well. An access that
passes answers the line's plain bytes, or stores the bytes of a whole Tweaked line encrypted at the line's address; and
changes nothing else. -/
def Obligations.LineAccess : Prop :=
  ∀ (s : State) (who : VRequester) (line : Nat) (wr : Option (BitVec 512 × BitVec 64)), s.refRuns = true →
    let a := 64 * line
    let k := stackOf a
    let run := exec (.lineAccess who line wr) s
    let fails := fun (cls sticky : Nat) => ∃ t, run = .next t ∧ .lineReply who cls (List.replicate 64 0) ∈ t.out ∧
      t.f (vnrPg k) 0x10 sticky sticky = 1 ∧ (who ≠ .loader → t.hbm = s.hbm ∧ t.vnr = s.vnr) ∧
      (who = .loader → t.f ldrPg 0x10 11 11 = 1)
    let answers := fun (bs : List Nat) => run = .next (settle (s.withOut (.lineReply who 0 bs :: s.out)))
    (hbmEnd ≤ a ∨ s.on (vnrPg k) = false ∨ s.regionOf k a = none → fails 1 8) ∧
    (∀ i, a < hbmEnd → s.on (vnrPg k) = true → s.regionOf k a = some i →
      let r := s.region k i
      let keyed := s.keySt r.key = 1 ∨ s.keySt r.key = 2
      let l := (a - r.base) / 64
      (r.access.testBit (accessBit who) = false → fails 2 8) ∧
      (r.access.testBit (accessBit who) = true → ¬keyed → fails 3 8) ∧
      (r.access.testBit (accessBit who) = true → keyed →
        (r.mode ≠ 2 → wr = none → s.hbmUe.contains a = true → fails 5 9) ∧
        (r.mode ≠ 2 → wr = none → s.hbmUe.contains a = false →
          answers (xtsUnit false (s.keys r.key).xts1 (s.keys r.key).xts2 line (s.hbmBytes a 64))) ∧
        (∀ v : BitVec 512, r.mode ≠ 2 → wr = some (v, BitVec.allOnes 64) →
          run = .next (settle ((s.hbmWrite a (xtsUnit true (s.keys r.key).xts1 (s.keys r.key).xts2 line
            (bytesLE 64 v.toNat))).withOut (.lineReply who 0 [] :: s.out)))) ∧
        (r.mode = 2 → r.state ≠ 2 → fails 4 8) ∧
        (r.mode = 2 → r.state = 2 → poisoned s k i l = true → fails 0xb 11) ∧
        (r.mode = 2 → r.state = 2 → poisoned s k i l = false → walkFail s k i r l = none → wr = none →
          let ctr := lineCtr s r l
          ctr ≠ 0 → s.hbmUe.contains a = false →
          sealTag (s.keys r.key).ctr a r.gen ctr (s.hbmBytes a 64) = numLE (s.hbmBytes (r.lineTagAddr l) 8) →
          answers (sealCrypt (s.keys r.key).ctr a r.gen ctr (s.hbmBytes a 64)))))

/-- Regions and keys (R255, R256, R259, R265, R266, R267). A write of EN enables a region whose entry is as the rules ask,
and else leaves it disabled with CFG_ERR. The commands of VNR_KEY_CTL move a key identifier among EMPTY 0, ACTIVE 1,
FLUSHING 2 and RETIRING 3, and are refused with CFG_ERR in another state; GENERATE takes fresh keys with GEN 0 (their
values are free: log entry 5), and the end of a retire erases them; no other identifier's keys change. -/
def Obligations.VeneerKeys : Prop :=
  ∀ (s : State) (rq : Requester), s.serves rq →
    (∀ k i, k < 2 → i < 16 → s.locked (vnrPg k) = false → (s.region k i).en = false →
      let r := s.region k i
      ∃ t, exec (.regionEnable rq k i) s = .next t ∧ t.vnr = s.vnr ∧ t.hbm = s.hbm ∧
        (regionOk s k i r = true → t.region k i = { r with en := true, state := if r.mode = 1 then 2 else 1 }) ∧
        (regionOk s k i r = false → (t.region k i).en = false ∧ t.f (vnrPg k) 0x10 13 13 = 1)) ∧
    (∀ id : BitVec 4,
      let n := id.toNat
      let st := s.keySt n
      let only := fun (t : State) => ∀ j, j < 16 → j ≠ n → t.keySt j = s.keySt j ∧ t.keys j = s.keys j
      let refused := fun (o : Host.Outcome State Fault Refusal) => ∃ t, o = .next t ∧ t.f (vnrPg 0) 0x10 13 13 = 1 ∧
        t.vnr = s.vnr ∧ ∀ j, j < 16 → t.keySt j = s.keySt j
      (st = 0 → ∃ t, exec (.generate rq id) s = .next t ∧ t.keySt n = 1 ∧ (t.keys n).gen = 0 ∧ t.free = s.free + 1 ∧ only t) ∧
      (st ≠ 0 → refused (exec (.generate rq id) s)) ∧
      (st = 1 → (∃ t, exec (.flush rq id) s = .next t ∧ t.keySt n = 2 ∧ t.vnr = s.vnr ∧ only t) ∧
        ∃ t, exec (.vnrRetire rq id) s = .next t ∧ t.keySt n = 3 ∧ t.vnr = s.vnr ∧ only t) ∧
      (st ≠ 1 → refused (exec (.flush rq id) s) ∧ refused (exec (.vnrRetire rq id) s)) ∧
      (st = 2 → ∃ t, exec (.flushEnd n) s = .next t ∧ t.keySt n = 1 ∧ t.vnr = s.vnr ∧ only t) ∧
      (st = 3 → ∃ t, exec (.retireEnd n) s = .next t ∧ t.keySt n = 0 ∧ t.keys n = ⟨0, 0, 0, 0⟩ ∧ only t))

/-- SEAL (R263, R264): an enabled Sealed region whose key is ACTIVE takes the key's next GEN, is SEALING, and its poison
is forgotten; else CFG_ERR. The end of the seal leaves the region READY, its root counters 1, and the stack free for the
next seal. That a seal is written whole at its end, and that one whose region has gone meanwhile leaves nothing, is the
model's choice (log entry 27). -/
def Obligations.VeneerSeal : Prop :=
  ∀ (s : State) (k : Nat), k < 2 →
    (∀ (rq : Requester) (i : BitVec 4) zero, s.serves rq →
      let n := i.toNat
      let r := s.region k n
      let may := r.en = true ∧ r.mode = 2 ∧ s.keySt r.key = 1 ∧ s.f (vnrPg k) 0x4c 0 0 = 0 ∧
        (s.keys r.key).gen < 0x7fffffff
      (may → ∃ t, exec (.seal rq k i zero) s = .next t ∧ (t.region k n).state = 3 ∧
        (t.region k n).gen = (s.keys r.key).gen + 1 ∧ (t.keys r.key).gen = (s.keys r.key).gen + 1 ∧
        t.f (vnrPg k) 0x4c 0 0 = 1 ∧ Tab.get (fun _ => none) t.vnr.sealing k = some (n, zero) ∧
        (∀ l, poisoned t k n l = false) ∧ t.hbm = s.hbm) ∧
      ((s.keys r.key).gen ≤ 0x7fffffff → ¬may →
        ∃ t, exec (.seal rq k i zero) s = .next t ∧ t.vnr = s.vnr ∧ t.f (vnrPg k) 0x10 13 13 = 1)) ∧
    (∀ n zero, n < 16 → Tab.get (fun _ => none) s.vnr.sealing k = some (n, zero) →
      ((s.region k n).en = true → (s.region k n).state = 3 →
        ∃ t, exec (.sealEnd k) s = .next t ∧ (t.region k n).state = 2 ∧ t.f (vnrPg k) 0x4c 0 0 = 0 ∧
          Tab.get (fun _ => none) t.vnr.sealing k = none ∧ ∀ j, j < 8 → t.root k n j = 1) ∧
      ((s.region k n).en = false ∨ (s.region k n).state ≠ 3 →
        ∃ t, exec (.sealEnd k) s = .next t ∧ t.hbm = s.hbm ∧ t.f (vnrPg k) 0x4c 0 0 = 0 ∧
          Tab.get (fun _ => none) t.vnr.sealing k = none))

/-! ### Bundles and lanes (R287-R331) -/

/-- Frames (R298, R300-R303, R310, R320), at the count in hand. A frame that decodes without an error, with the header
that is due and an EMPTY control unit, delivers its Dovetail slots in an execution, 0 where VALID is 0, and changes
nothing in a hold. In a hold, a vote unit is held with its count; a RESUME, and a packet of one unit, act as their
commands do; a unit of a reserved KIND is asked for again. A frame that does not decode is counted, recorded, and asked
for again, and in a row that is poisoned raises REPLAY. A loss of alignment takes an UP bundle to DETECT, degraded with
FAULT while the CYC_ page is ON. -/
def Obligations.BundleFrames : Prop :=
  ∀ (s : State) (b : Nat), b < 6 →
    (∀ (cnt : BitVec 64) (raw : BitVec 531), s.cyc.csc = cnt.toNat → s.stepAhead s.cyc.csc = true → bsAlign ≤ s.bst b →
      s.bst b ≤ bsUp →
      let frame := exec (.bundleFrame b cnt raw) s
      let x := (s.bundle b).rx
      (∀ f, rsDecode raw.toNat = some (0, f) → frameHeaderOk s b (cnt.toNat - s.cyc.t0) cnt.toNat f = true →
        fld f 482 480 ≠ 2 →
        let u := fld f 479 448
        (fld u 31 29 = 0 →
          (s.executing = false → frame = .next (settle s)) ∧
          (s.executing = true → s.bup b = true → frame = .next (settle (s.withFab { s.fab with
            bgot := Tab.set (zeroAt 448) s.fab.bgot (b * 8192 + s.step)
              (if f.testBit 480 then BitVec.ofNat 448 f else 0) })))) ∧
        (s.executing = false →
          (fld u 31 29 = 1 → frame = .next (settle (s.setRx b { x with votes := ((cnt.toNat, u) :: x.votes).take 16 }))) ∧
          (fld u 31 29 = 2 → u.testBit 28 = true → x.cur = none →
            (fld u 27 24 = 6 → frame = exec (.retry b (BitVec.ofNat 24 u)) s) ∧
            (fld u 27 24 = 8 → frame = exec (.state b (u.testBit 0)) s) ∧
            (fld u 27 24 = 7 → frame = exec (.lanemap b (fld u 3 0) (fld u 7 4) (BitVec.ofNat 16 (fld u 23 8))) s)) ∧
          (fld u 31 29 = 4 → frame = exec (.resume b (BitVec.ofNat 24 u)) s) ∧
          (5 ≤ fld u 31 29 → s.bst b ≠ bsAlign → x.gap = none →
            ∃ t, frame = .next t ∧ (t.bundle b).rx.gap = some x.next ∧ Packet.retry x.next ∈ (t.bundle b).tx.queue))) ∧
      (rsDecode raw.toNat = none → s.bst b ≠ bsAlign → x.gap = none →
        ∃ t, frame = .next t ∧ t.f (bndPg b) 0x10 14 14 = 1 ∧
          (s.reg (bndPg b) 0x58 ≠ 0xffffffff → t.reg (bndPg b) 0x58 = s.reg (bndPg b) 0x58 + 1) ∧
          (t.bundle b).rx.gap = some x.next ∧ Packet.retry x.next ∈ (t.bundle b).tx.queue ∧
          (s.executing = true → 32 ≤ s.step → s.step < s.nLen → t.cyc.replay = true))) ∧
    (s.bup b = true → ∃ t, exec (.lossOfAlignment b) s = .next t ∧ t.bst b = bsDetect ∧ t.f (bndPg b) 0x10 10 10 = 1 ∧
      (s.cycOn = true → t.f (bndPg b) 0x44 5 5 = 1 ∧ t.cyc.fault = true))

/-- Units and retries (R303, R310, R311). A unit of data that is due is counted, and goes to the loader where it is that
load's stream; one that is not due is discarded. A RETRY has RESUME sent, and every unit from the one it names again,
ahead of anything new (while the RESUME of an earlier RETRY still waits, the unit may be one that waits to go again), or,
where that is kept no more, has the bundle train again, one in IDENT only while the CYC_ page is OFF (R319; it stays in
IDENT else); a STATE that goes again is not told any more; an outstanding RETRY is sent again; RESUME names the unit that
comes next, and ends the RETRY for it. A frame carries a vote unit that is due, or else RESUME, or else the next unit of a
packet begun, which is numbered and kept; in load mode 60 bytes that wait. -/
def Obligations.DataUnits : Prop :=
  ∀ (s : State) (b : Nat), b < 6 →
    let linked := s.bup b = true ∨ s.bst b = bsIdent
    (∀ bytes : List (BitVec 8),
      let bs := bytes.map BitVec.toNat
      let n := if s.heardLoad b (s.cyc.csc - 32) then (bytes.length + 3) / 4 else (bytes.length + 2) / 3
      (linked → (s.bundle b).rx.due = false → exec (.dataUnit b bytes) s = .next (settle (s.taken b n))) ∧
      (linked → (s.bundle b).rx.due = true → s.ldr.head = true ∨ s.ldr.up ≠ b ∨ s.ldSt = ldIdle ∨ s.ldSrc = true →
        exec (.dataUnit b bytes) s = .next (settle (s.taken b n))) ∧
      (linked → (s.bundle b).rx.due = true → s.ldr.head = false → s.ldr.up = b → s.ldSrc = false → s.ldSt = ldReceive →
        s.ldr.endSeen = false → s.wrPtr = s.rdPtr → s.ldr.part.length + bytes.length < 16 →
        exec (.dataUnit b bytes) s =
          .next (settle ((s.taken b n).withLdr { s.ldr with part := s.ldr.part ++ bs })))) ∧
    (∀ unit : BitVec 24, linked → (s.bundle b).rx.due = true →
      let x := (s.bundle b).tx
      let n := unit.toNat
      let d := (x.next + 2 ^ 24 - n) % 2 ^ 24
      let e := (n + 2 ^ 24 - x.next) % 2 ^ 24
      let sendsFrom := fun (y : BundleTx) => ∃ u,
        exec (.retry b unit) s = .next (settle (u.setBundle b { u.bundle b with
          tx := y
          told := (s.bundle b).told.drop (statesIn (x.kept.take (x.kept.length - y.kept.length))) })) ∧
        (s.taken b 1).regsBut u [regKey (bndPg b) 0x64] ∧
        u.f (bndPg b) 0x64 31 16 = min (2 ^ 16 - 1) (s.f (bndPg b) 0x64 31 16 + 1)
      (d ≤ x.kept.length → sendsFrom
        { x with resume := some n, next := n, kept := x.kept.drop d, resend := (x.kept.take d).reverse ++ x.resend }) ∧
      (x.kept.length < d → x.resume ≠ none → e ≤ x.resend.length → sendsFrom
        { x with resume := some n, next := n, kept := ((x.resend.take e).reverse ++ x.kept).take 65536,
                 resend := x.resend.drop e }) ∧
      (x.kept.length < d → x.resume = none ∨ x.resend.length < e →
        ∃ t, exec (.retry b unit) s = .next t ∧ t.f (bndPg b) 0x10 10 10 = 1 ∧
          t.bst b = if s.bup b = true ∨ s.cycOff = true then bsDetect else s.bst b)) ∧
    (∀ n, (s.bundle b).rx.gap = some n → exec (.retryResend b) s = .next (settle (sendPacket s b (.retry n)))) ∧
    ((s.bundle b).rx.gap = none → exec (.retryResend b) s = .next (settle s)) ∧
    (∀ unit : BitVec 24,
      let x := (s.bundle b).rx
      (linked → exec (.resume b unit) s = .next (settle (s.setRx b
        { x with number := unit.toNat, gap := if x.gap = some unit.toNat then none else x.gap }))) ∧
      (¬linked → exec (.resume b unit) s = .next (settle s))) ∧
    (∀ (cnt : Nat) (first fresh : Packet → Packet),
      let x := (s.bundle b).tx
      let pick := fun (load : Bool) => x.pick load cnt first fresh
      (∀ v, x.votes.find? (fun v => v.1 == cnt) = some v → (pick false).1 = .vote v.2 ∧ (pick false).2.next = x.next) ∧
      (x.votes = [] → ∀ load,
        (∀ n, x.resume = some n → (pick load).1 = .resume n ∧ (pick load).2.next = n ∧ (pick load).2.resume = none) ∧
        (x.resume = none → x.resend = [] →
          (∀ p k, load = false → x.cur = some (p, k) → (pick load).1 = .unit p k ∧
            (pick load).2.next = (x.next + 1) % 2 ^ 24 ∧
            (pick load).2.kept = (TxItem.unit p k :: x.kept).take 65536 ∧
            (pick load).2.cur = if k + 1 < p.units then some (p, k + 1) else none) ∧
          (load = true → 60 ≤ x.data.length → x.startWaits = false → (pick load).1 = .load (x.data.take 60) ∧
            (pick load).2.data = x.data.drop 60 ∧ (pick load).2.next = (x.next + 15) % 2 ^ 24))))

/-- The packets between partners (R309, R312, R315, R318, R321, R326, R329), each on a bundle that takes it; and what
waits to be sent. A TIME takes its SEQ, time and echo in the step in which its first unit leaves. -/
def Obligations.LinkPackets : Prop :=
  ∀ (s : State) (b : Nat), b < 6 →
    (s.accepts b →
      (∀ failed spare (sw : BitVec 16),
        let ahead := (sw - BitVec.ofNat 16 s.cyc.csc).toNat
        (64 ≤ ahead → ahead < 2 ^ 15 → failed < 9 → spare < 9 → exec (.lanemap b failed spare sw) s =
          .next (settle ((s.taken b 1).setBundle b
            { (s.taken b 1).bundle b with txSwitch := some (s.cyc.csc + ahead, failed, spare) }))) ∧
        (ahead < 64 ∨ 2 ^ 15 ≤ ahead → exec (.lanemap b failed spare sw) s = .next (settle (s.taken b 1)))) ∧
      (∀ seq tx echoSeq echoRx, ∃ t, exec (.time b seq tx echoSeq echoRx) s = .next t ∧
        (t.bundle b).timeRx = (seq.toNat, s.timeStamp) ∧
        (s.f (bndPg b) 0x100 24 24 = 0 → t.reg64 (bndPg b) 0xe8 = s.timeStamp.toNat ∧
          t.reg64 (bndPg b) 0xf0 = tx.toNat ∧ t.reg64 (bndPg b) 0xf8 = echoRx.toNat ∧
          t.f (bndPg b) 0x100 15 8 = seq.toNat ∧ t.f (bndPg b) 0x100 23 16 = echoSeq.toNat ∧
          t.f (bndPg b) 0x100 24 24 = 1 ∧ t.f (bndPg b) 0x10 21 21 = 1) ∧
        (s.f (bndPg b) 0x100 24 24 = 1 → t.reg64 (bndPg b) 0xf0 = s.reg64 (bndPg b) 0xf0 ∧
          t.f (bndPg b) 0x100 31 28 = min 15 (s.f (bndPg b) 0x100 31 28 + 1))) ∧
      (∀ off, ((s.bundle b).partnerOff = off → exec (.state b off) s = .next (settle (s.taken b 1))) ∧
        ((s.bundle b).partnerOff ≠ off → exec (.state b off) s = .next (settle ((s.taken b 1).setBundle b
          { ((s.taken b 1).bundle b).changed s.cyc.csc with partnerOff := off })))) ∧
      (∀ pk : TopoEntry,
        (pk.serial = s.drw.serial → exec (.topo b pk) s = .next (settle (s.taken b 18))) ∧
        (pk.serial ≠ s.drw.serial → (∀ e ∈ s.topo.held, e.serial ≠ pk.serial) →
          ∃ t, exec (.topo b pk) s = .next t ∧
            (∀ e, e ∈ t.topo.held ↔ (e = pk ∨ e ∈ s.topo.held) ∧ (e.serial ∈ t.topo.reach ∨ e.serial ∉ s.topo.reach)) ∧
            ∀ c, c < 6 → c ≠ b → s.bup c = true → Packet.topo pk ∈ (t.bundle c).tx.queue)) ∧
      (∀ tag data,
        ((s.bundle b).mesh.length < 8 → exec (.mesh b tag data) s = .next (settle ((s.taken b 5).setBundle b
          { (s.taken b 5).bundle b with mesh := (s.bundle b).mesh ++ [(tag, data)] }))) ∧
        (8 ≤ (s.bundle b).mesh.length → ∃ t, exec (.mesh b tag data) s = .next t ∧ (t.bundle b).mesh = (s.bundle b).mesh ∧
          t.f (bndPg b) 0x10 20 20 = 1))) ∧
    (∀ pk : IdentPacket, s.bst b = bsIdent → (s.bundle b).rx.due = true → s.mayTrain b = true → s.follows = false →
      pk.at_.toNat ≤ s.cyc.csc →
      let bad := if pk.serial = s.drw.serial then 7 else if pk.cabId ≠ s.reg bnd0 0x84 then 4
        else if pk.bundle.toNat ≠ b ^^^ 1 then 5 else 0
      (bad ≠ 0 → ∃ t, exec (.ident b pk) s = .next t ∧ t.reg64 (bndPg b) 0x48 = pk.serial.toNat ∧ t.bst b = bsFailed ∧ t.f (bndPg b) 0x44 15 12 = bad ∧
        t.f (bndPg b) 0x10 12 12 = 1) ∧
      (bad = 0 → s.clkLocked = false ∨ pk.locked = false →
        ∃ t, exec (.ident b pk) s = .next t ∧ t.reg64 (bndPg b) 0x48 = pk.serial.toNat ∧
          t.f (bndPg b) 0x44 22 20 = pk.bundle.toNat ∧
          t.bst b = if pk.seen = true ∧ pk.locked = true then bsUp else bsIdent) ∧
      (bad = 0 → s.clkLocked = true → pk.locked = true →
        (pk.count.toNat + 32 = pk.at_.toNat → ∃ t, exec (.ident b pk) s = .next t ∧
          t.bst b = if pk.seen = true then bsUp else bsIdent) ∧
        (pk.count.toNat + 32 ≠ pk.at_.toNat → ∃ t, exec (.ident b pk) s = .next t ∧ t.bst b = bsFailed ∧
          t.f (bndPg b) 0x44 15 12 = 6 ∧ t.f (bndPg b) 0x10 12 12 = 1))) ∧
    (s.bst b = bsIdent → exec (.identResend b) s = .next (settle (sendPacket s b (.ident (s.identPacket b))))) ∧
    (s.bup b = true →
      (∃ t, exec .stateTimer s = .next t ∧ Packet.state s.cycOff ∈ (t.bundle b).tx.queue) ∧
      (∃ t, exec .topoTimer s = .next t ∧ Packet.topo s.ownTopo ∈ (t.bundle b).tx.queue) ∧
      (s.f bnd0 0x88 0 0 = 1 → ∃ t, exec .timeTimer s = .next t ∧ Packet.time 0 0 0 0 ∈ (t.bundle b).tx.queue)) ∧
    (let x := (s.bundle b).tx
     x.queue = [.time 0 0 0 0] → x.cur = none → x.votes = [] → x.resume = none → x.resend = [] → x.data = [] →
     s.loadMode b = false → ∀ cnt,
     let t := sendFrame s cnt b
     let seq := (s.f (bndPg b) 0x100 7 0 + 1) % 256
     t.f (bndPg b) 0x100 7 0 = seq ∧ t.reg64 (bndPg b) 0xe0 = s.timeStamp.toNat ∧ (t.bundle b).tx.queue = [] ∧
       (t.bundle b).tx.cur = some (.time seq s.timeStamp (s.bundle b).timeRx.1 (s.bundle b).timeRx.2, 1)) ∧
    (s.f bnd0 0x88 0 0 = 0 → exec .timeTimer s = .next (settle s)) ∧
    exec .topoStable s = .next (settle (s.setF bnd0 0x188 16 16 1))

/-- Training (R293, R313, R316, R317, R318): from DETECT through LANE_TRAIN, LOCK and ALIGN to IDENT, each state left by
its event; failures end in FAILED with their reason, and FAILED starts again at DETECT. The device's own lane check is
shown to the partner, with DONE, once it is done; the partner's mask counts where its own blocks show DONE (that
LANE_VERDICT gives both is the model's choice, log entry 30). A step clock that locks takes the partner's frequency, and
every lane that is ON the equalization entry of it. -/
def Obligations.BundleTraining : Prop :=
  ∀ (s : State) (b : Nat), b < 6 →
    let fails := fun (o : Host.Outcome State Fault Refusal) (reason : Nat) => ∃ t, o = .next t ∧ t.bst b = bsFailed ∧
      t.f (bndPg b) 0x44 15 12 = reason ∧ t.f (bndPg b) 0x10 12 12 = 1
    let counted := fun (own : List LaneCheck) => (List.range 9).filter (fun k => s.lanePasses b k (own.getD k ⟨false, 0⟩))
    (s.mayTrain b = true →
      (∀ lanes, s.bst b = bsDetect →
        (8 ≤ (lanesOf lanes).length → ∃ t, exec (.attach b lanes) s = .next t ∧ t.bst b = bsLaneTrain ∧
          t.f (bndPg b) 0x10 8 8 = 1 ∧ ∀ k, k < 9 → t.f (lnPg b k) 0x44 12 12 = bit (lanes.getLsbD k)) ∧
        ((lanesOf lanes).length < 8 → exec (.attach b lanes) s = .next (settle s))) ∧
      (∀ own partner clock, s.bst b = bsLaneTrain → (s.bundle b).verdicts = false →
        let run := exec (.laneVerdict b own partner clock) s
        let mapped := fun (t : State) => t.f (bndPg b) 0x44 11 8 = (if (counted own).length = 9 then 8 else 15) ∧
          ∀ i, i < 8 → t.f (lnPg b ((counted own).getD i 0)) 0x44 1 0 = 0 ∧
            t.f (lnPg b ((counted own).getD i 0)) 0x44 5 2 = i
        let on := fun (t : State) => (t.bundle b).verdicts = true ∧
          (t.bundle b).partnerLocked = clock.locked ∧ (t.bundle b).partnerMhz = clock.mhz ∧
          t.bst b = (if s.follows = true ∧ s.upstream = b then bsLock
            else if s.follows = true ∧ s.clkLocked = false then bsLaneTrain else bsAlign)
        (clock.done = true → (lanesOf partner).length < 8 → fails run 1) ∧
        ((s.bundle b).checked = false →
          (∃ t block levels, run = .next t ∧ .trainingBlock b block levels ∈ t.out ∧ block.getLsbD 41 = true ∧
            ∀ k, k < 9 → block.getLsbD (32 + k) = decide (k ∈ counted own)) ∧
          ((counted own).length < 8 → fails run 1) ∧
          (8 ≤ (counted own).length → clock.done = false → ∃ t, run = .next t ∧ (t.bundle b).checked = true ∧
            (t.bundle b).verdicts = false ∧ t.bst b = bsLaneTrain ∧ mapped t) ∧
          (8 ≤ (counted own).length → clock.done = true → 8 ≤ (lanesOf partner).length →
            ∃ t, run = .next t ∧ mapped t ∧ on t)) ∧
        ((s.bundle b).checked = true →
          (clock.done = false → run = .next (settle s)) ∧
          (clock.done = true → 8 ≤ (lanesOf partner).length → ∃ t, run = .next t ∧ on t))) ∧
      (∀ flight, s.bst b = bsAlign →
        (flight ≤ 16 → ∃ t, exec (.alignDone b flight) s = .next (settle t) ∧ s.regsBut t [regKey (bndPg b) 0x44] ∧
          t.bst b = bsIdent ∧ t.f (bndPg b) 0x44 29 24 = 16 - flight) ∧
        (16 < flight → fails (exec (.alignDone b flight) s) 8)) ∧
      (∀ flight,
        (s.bst b = bsLaneTrain → (s.bundle b).verdicts = false → fails (exec (.trainingTimeout b flight) s) 1) ∧
        (s.bst b = bsLock → (s.bundle b).partnerLocked = true → fails (exec (.trainingTimeout b flight) s) 2) ∧
        (s.bst b = bsAlign → fails (exec (.trainingTimeout b flight) s) (if 16 < flight then 8 else 3)) ∧
        (s.bst b = bsIdent → fails (exec (.trainingTimeout b flight) s) 9)) ∧
      (s.bst b = bsFailed → ∃ t block levels, exec (.failedRestart b) s = .next (settle t) ∧
        t = (((s.withRegs t.regs).withOut t.out).withFree t.free).withBundles t.bundles ∧
        s.regsBut (s.withRegs t.regs) [regKey (bndPg b) 0x44] ∧ .trainingBlock b block levels ∈ t.out ∧
        (∀ c, c ≠ b → t.bundle c = s.bundle c) ∧ t.bst b = bsDetect ∧ t.f (bndPg b) 0x44 15 12 = 0)) ∧
    (s.follows = true → s.cycOff = true → s.upstream = b → s.bst b = bsLock → (s.bundle b).partnerLocked = true →
      let m := (s.bundle b).partnerMhz
      ∃ t, exec .clockLock s = .next t ∧ t.cyc = { s.cyc with mhz := m } ∧ t.clkLocked = true ∧ t.f bnd0 0x80 9 9 = 0 ∧
        t.bst b = bsAlign ∧
        (∀ c, c < 6 → c ≠ b → t.bst c =
          if s.bst c = bsLaneTrain ∧ (s.bundle c).verdicts = true then bsAlign else s.bst c) ∧
        ∀ l, l < 54 → s.on ⟨.ln, l⟩ = true →
          let es := Tab.get (fun _ => (none, none)) (s.bundle (l / 9)).eqs (l % 9)
          let e : Option (BitVec 64) := if 1200 ≤ m then es.1 else es.2
          t.reg64 ⟨.ln, l⟩ 0x4c = (match e with | some v => v.toNat | none => defaultEq))

/-- Lanes and bundles lost, and failover (R320, R325, R326, R327). Signal lost on two lanes takes an UP bundle to DETECT,
degraded with FAULT while the CYC_ page is ON. An active lane that fails raises REPLAY, and is replaced by the spare, once
that has been found clean and the device holds, at a count that LANEMAP names, once it has been reached and in a hold (a
switch commanded later acts at the count in hand: the model's choice, log entry 43); the spare is then in use, and neither
direction has one left. Without a spare, or with a failover already in hand even though a spare is shown, the bundle is
degraded; and the spare is clean where its last check was: both as the model reads R326 and R327 (log entry 29). -/
def Obligations.LaneFailover : Prop :=
  ∀ (s : State) (b : Nat), b < 6 → s.bup b = true →
    let degraded := fun (o : Host.Outcome State Fault Refusal) => ∃ t, o = .next t ∧ t.bst b = bsDetect ∧
      t.f (bndPg b) 0x44 5 5 = 1 ∧ t.f (bndPg b) 0x10 17 17 = 1 ∧ t.cyc.fault = true
    (∀ l : LanesLoss, 2 ≤ (lanesOf (l.lanes ||| l.signal)).length → ∃ t, exec (.detach b l) s = .next t ∧ t.bst b = bsDetect ∧
      t.f (bndPg b) 0x10 9 9 = 1 ∧ (s.cycOn = true → t.f (bndPg b) 0x44 5 5 = 1 ∧ t.cyc.fault = true)) ∧
    (∀ k signal, k < 9 → s.f (lnPg b k) 0x44 1 0 = 0 → s.rxSpare b ≠ k →
      (s.rxSpare b = 15 ∨ (s.bundle b).fail.isSome = true → degraded (exec (.laneFail b ⟨k, signal⟩) s)) ∧
      (s.rxSpare b ≠ 15 → (s.bundle b).fail = none → ∃ t, exec (.laneFail b ⟨k, signal⟩) s = .next t ∧ t.bup b = true ∧
        t.f (lnPg b k) 0x44 1 0 = 2 ∧ t.f (bndPg b) 0x10 15 15 = 1 ∧
        (t.bundle b).fail =
          some ⟨k, s.f (lnPg b k) 0x44 5 2, s.rxSpare b, if (s.bundle b).spareOk then .wait else .check, 0, s.cycOn⟩ ∧
        t.cyc = if s.cycOn then { s.cyc with lane := some s.cyc.csc } else s.cyc)) ∧
    (∀ k signal, k < 9 → s.f (lnPg b k) 0x44 1 0 = 1 → (s.bundle b).fail = none →
      ∃ t, exec (.laneFail b ⟨k, signal⟩) s = .next t ∧ t.bup b = true ∧ t.rxSpare b = 15 ∧ t.f (bndPg b) 0x10 19 19 = 1) ∧
    (∀ f, (s.bundle b).fail = some f →
      let sent := fun (o : Host.Outcome State Fault Refusal) =>
        let sw := (s.cyc.csc + 1024 + 63) / 64 * 64
        ∃ t, o = .next t ∧ (t.bundle b).fail = some { f with stage := .sent, sw := sw } ∧
          Packet.lanemap f.lane f.spare (sw % 2 ^ 16) ∈ (t.bundle b).tx.queue
      let held := s.executing = false ∨ s.cycOn = false
      (∀ c : LaneCheck, s.rxSpare b < 9 → s.f (lnPg b (s.rxSpare b)) 0x44 1 0 = 1 → f.stage = .check →
        (c.locked = false ∨ 16 < c.errors → degraded (exec (.spareCheckEnd b ⟨s.rxSpare b, c⟩) s)) ∧
        (c.locked = true → c.errors ≤ 16 → ∃ t, exec (.spareCheckEnd b ⟨s.rxSpare b, c⟩) s = .next t ∧ t.bup b = true ∧
          (t.bundle b).fail = some { f with stage := .wait })) ∧
      (f.stage = .wait → held → sent (exec (.failoverLanemap b) s)) ∧
      (f.stage = .wait → ¬held → exec (.failoverLanemap b) s = .next (settle s)) ∧
      (f.stage = .sent ∨ f.stage = .switched → held → sent (exec (.lanemapResend b) s)) ∧
      (f.stage = .sent → ¬held → exec (.lanemapSwitch b true) s = .next (settle s)) ∧
      (f.stage = .sent → held → f.sw + 32 ≤ s.cyc.csc → f.spare < 9 → ∃ t, exec (.lanemapSwitch b true) s = .next t ∧
        (t.bundle b).fail = some { f with stage := .switched } ∧ t.f (bndPg b) 0x44 4 4 = 1 ∧ t.rxSpare b = 15 ∧
        t.f (lnPg b f.spare) 0x44 1 0 = 0 ∧ t.f (lnPg b f.spare) 0x44 5 2 = f.logical % 16) ∧
      (f.stage = .switched → ∃ t, exec (.failoverEnd b) s = .next t ∧ (t.bundle b).fail = none ∧ t.bup b = true ∧
        t.rxSpare b = s.rxSpare b ∧ t.f (bndPg b) 0x10 16 16 = 1) ∧
      degraded (exec (.failoverTimeout b) s)) ∧
    (∀ at_ failed spare, failed < 9 → spare < 9 → failed ≠ spare → (s.bundle b).txSwitch = some (at_, failed, spare) →
      at_ ≤ s.cyc.csc →
      ∃ t, exec (.lanemapSwitch b false) s = .next t ∧ (t.bundle b).txSwitch = none ∧ t.f (bndPg b) 0x44 7 7 = 1 ∧
        t.f (bndPg b) 0x44 19 16 = 15 ∧ t.f (lnPg b spare) 0x44 7 6 = 0 ∧ t.f (lnPg b failed) 0x44 7 6 = 2 ∧
        (s.f (lnPg b failed) 0x44 7 6 = 0 → t.f (lnPg b spare) 0x44 11 8 = s.f (lnPg b failed) 0x44 11 8) ∧
        (s.f (lnPg b failed) 0x44 7 6 ≠ 0 → s.f (lnPg b spare) 0x44 7 6 = 0 →
          t.f (lnPg b spare) 0x44 11 8 = s.f (lnPg b spare) 0x44 11 8))

/-- The registers of bundles and lanes (R313, R316, R319, R323, R324, R325, R329): RETRAIN, FAILOVER, TRAIN_EN, the
injection of errors, MESH packets, the time stamp's acknowledgement, the clock's source, and the lane tests, in which a
far-end loop sends what the lane receives. RETRAIN, a new clock source and a lane test are refused where R319, R313 and
R324 bar them. That a bundle with a lane under test stays in TEST where TRAIN_EN is 0 is the model's choice (log entry
43). -/
def Obligations.BundleRegisters : Prop :=
  ∀ (s : State) (rq : Requester) (b : Nat), s.serves rq → b < 6 →
    let seqFail := fun (o : Host.Outcome State Fault Refusal) (p : PageId) => ∃ t, o = .next t ∧ t.f p 0x10 2 2 = 1
    (s.cycOff = true → s.bup b = true → ∃ t, exec (.bndRetrain rq b) s = .next t ∧ t.bst b = bsDetect) ∧
    (s.cycOff = true → s.bup b = false → ∃ u, exec (.bndRetrain rq b) s = .next (settle u) ∧ s.sameRegs u) ∧
    (s.cycOff = false → seqFail (exec (.bndRetrain rq b) s) (bndPg b)) ∧
    (∀ lane : BitVec 4,
      (9 ≤ lane.toNat ∨ s.executing = true ∧ s.cycOn = true → seqFail (exec (.failover rq b lane) s) (bndPg b)) ∧
      (lane.toNat < 9 → s.executing = false ∨ s.cycOn = false →
        ∃ u, exec (.failover rq b lane) s = .next (settle (failLane u b lane.toNat)) ∧
          s.regsBut u [regKey (bndPg b) 0x40] ∧ u.f (bndPg b) 0x40 7 4 = lane.toNat)) ∧
    (s.locked (bndPg b) = false → s.f (bndPg b) 0x40 8 8 = 0 → s.on (bndPg b) = true → s.bst b = bsDown →
      s.lnTesting b = false → s.stepRuns = true →
      (s.cycOff = true → ∃ t block levels, exec (.trainEn rq b true) s = .next (settle t) ∧
        t = (((s.withRegs t.regs).withOut t.out).withFree t.free).withBundles t.bundles ∧
        s.regsBut (s.withRegs t.regs) (regKey (bndPg b) 0x40 :: regKey (bndPg b) 0x44 ::
          (List.range 9).map (fun k => regKey (lnPg b k) 0x44)) ∧ .trainingBlock b block levels ∈ t.out ∧
        (∀ c, c ≠ b → t.bundle c = s.bundle c) ∧ t.bst b = bsDetect ∧ t.f (bndPg b) 0x40 8 8 = 1) ∧
      (s.cycOff = false → ∃ t, exec (.trainEn rq b true) s = .next (settle t) ∧ s.regsBut t [regKey (bndPg b) 0x40] ∧
        t.f (bndPg b) 0x40 8 8 = 1)) ∧
    (s.locked (bndPg b) = false → s.f (bndPg b) 0x40 8 8 = 1 → ∃ t, exec (.trainEn rq b false) s = .next t ∧
      t.bst b = (if s.on (bndPg b) = true ∧ s.lnTesting b = true then bsTest else bsDown) ∧
      t.f (bndPg b) 0x44 5 5 = 0 ∧ t.f (bndPg b) 0x40 8 8 = 0) ∧
    (∀ symbols : BitVec 3, ∃ t, exec (.bndInjArm rq b symbols) s =
        .next (settle (t.setTx b { (s.bundle b).tx with corrupt := some symbols.toNat })) ∧
      s.regsBut t [regKey (bndPg b) 0x5c] ∧ t.f (bndPg b) 0x5c 2 0 = symbols.toNat) ∧
    (∀ tag : BitVec 4,
      (s.bup b = true → s.meshBusy b = false → ∃ u, exec (.meshSend rq b tag) s = .next (settle (sendPacket u b (.mesh tag
          (BitVec.ofNat 128 (s.reg64 (bndPg b) 0x70 + 2 ^ 64 * s.reg64 (bndPg b) 0x78))))) ∧
        s.regsBut u [regKey (bndPg b) 0xc0] ∧ u.f (bndPg b) 0xc0 3 0 = tag.toNat) ∧
      (s.bup b = false ∨ s.meshBusy b = true → seqFail (exec (.meshSend rq b tag) s) (bndPg b))) ∧
    (∃ u, exec (.meshPop rq b) s = .next (settle (u.setBundle b
        { s.bundle b with mesh := (s.bundle b).mesh.drop 1 })) ∧ s.sameRegs u) ∧
    (∃ u, exec (.bndTsAck rq b) s = .next (settle u) ∧ s.regsBut u [regKey (bndPg b) 0x100] ∧
      u.f (bndPg b) 0x100 24 24 = 0) ∧
    (∀ mode (upstream : BitVec 3), s.locked bnd0 = false →
      let same := s.follows = mode ∧ s.upstream = upstream.toNat
      (s.cycOff = true → same → ∃ u, exec (.bndClkWrite rq mode upstream) s = .next (settle u) ∧ s.sameRegs u) ∧
      (s.cycOff = true → ¬same → ∃ t, exec (.bndClkWrite rq mode upstream) s = .next t ∧ t.follows = mode ∧
        t.upstream = upstream.toNat ∧
        ∀ c, c < 6 → t.bst c = if s.bst c = bsDown ∨ s.bst c = bsTest then s.bst c else bsDetect) ∧
      (s.cycOff = false → ¬same → seqFail (exec (.bndClkWrite rq mode upstream) s) bnd0)) ∧
    (∀ k, k < 9 →
      (let n := Tab.get (fun _ => 0) (s.bundle b).inj k + 1
       (s.sendsPrbs b k = false → ∃ u, exec (.lnInj rq (9 * b + k)) s = .next (settle (u.setBundle b { s.bundle b with
          inj := Tab.set (fun _ => 0) (s.bundle b).inj k n })) ∧ s.sameRegs u) ∧
       (s.sendsPrbs b k = true → ∃ t, exec (.lnInj rq (9 * b + k)) s = .next t ∧
          .prbsInverted (9 * b + k) n ∈ t.out ∧ Tab.get (fun _ => 0) (t.bundle b).inj k = 0 ∧
          Tab.get (fun _ => 0) (t.bundle b).sentInj k = Tab.get (fun _ => 0) (s.bundle b).sentInj k + n)) ∧
      (∀ (loop prbs : BitVec 2) on, loop ≠ 0 ∨ on = true → s.f (lnPg b k) 0x40 1 0 = 0 → s.f (lnPg b k) 0x40 6 6 = 0 →
        let may := s.bup b = false ∧ (s.cycOff = true ∨ s.f (bndPg b) 0x44 5 5 = 1)
        (may → s.on (bndPg b) = true → ∃ t, exec (.lnTestWrite rq (9 * b + k) loop prbs on) s = .next t ∧
          t.bst b = bsTest ∧ t.f (lnPg b k) 0x40 1 0 = loop.toNat ∧ t.f (lnPg b k) 0x40 5 4 = prbs.toNat ∧
          t.f (lnPg b k) 0x40 6 6 = bit on ∧ (loop = 3 → .laneEcho (9 * b + k) ∈ t.out) ∧
          (on = true → loop ≠ 1 → loop ≠ 3 → ∃ head levels, .prbsPattern (9 * b + k) head levels ∈ t.out)) ∧
        (¬may → ∃ t, exec (.lnTestWrite rq (9 * b + k) loop prbs on) s = .next t ∧
          t.f (lnPg b k) 0x40 1 0 = 0 ∧ t.f (lnPg b k) 0x40 6 6 = 0 ∧ t.bup b = s.bup b ∧ t.f (lnPg b k) 0x10 2 2 = 1)))

/-! ### Gauges (R332-R366) -/

/-- The reference tick (R333, R334, R337, R342). Whatever was written to a Gauge's page before the tick takes effect at
it: none of its registers is in force as it was before, INV is the one written, a disarm cuts the pulse, and where GAU_CTL
was written PPS or TCLK begins in holdover, and LOCAL in the place of another ends it (R341, R346). A Gauge whose page is
ON advances by the increment in force, in 2^-16 of its unit; a pending SET replaces the value and clears the fraction,
else a pending ADJ is added; LOCAL takes GAU_INC as its increment, whether or not its page is ON. An edge of the line that
a PPS Gauge names is captured with the new value and the tick's number. A Gauge that is not ON stands still. Without a
reference clock no Gauge moves. -/
def Obligations.GaugeTick : Prop :=
  ∀ (s : State) (lv : TargetLevels),
    (s.refRuns = false →
      let u := (s.withPwr { s.pwr with justForced := false }).withHst { s.hst with conds := s.vectorConds, rearms := 0 }
      let buffer := s.drw.buffer.map (fun _ => captureWords u)
      exec (.referenceTick lv) s = .next (settle ((if s.drw.fresh = true then
        u.withDrw { s.drw with buffer := buffer, fresh := false } else u).withRecent []))) ∧
    (s.refRuns = true → ∃ t, exec (.referenceTick lv) s = .next t ∧ t.ticks = s.ticks + 1 ∧ t.pins.edl4 = s.pins.edl3 ∧
      ∀ k, k < 16 →
        let g := s.gauge k
        let src := s.f (gauPg k) 0x40 1 0
        let inc := if src = 0 then s.reg64 (gauPg k) 0x50 % 2 ^ 40 else s.reg64 (gauPg k) 0x58 % 2 ^ 40
        let n := g.value.toNat * 2 ^ 16 + g.resid.toNat + inc
        let level := s.pins.edl3.getLsbD (s.f (gauPg k) 0x40 8 4)
        let rises := level ≠ s.pins.edl4.getLsbD (s.f (gauPg k) 0x40 8 4) ∧ level ≠ (s.f (gauPg k) 0x40 9 9 == 1)
        t.gauSrc k = src ∧ (t.gauge k).chosen = false ∧
        (g.chosen = false → (∀ b, b < 32 → t.fresh (gauPg k) b = false) ∧ t.holdover k = s.holdover k) ∧
        (g.chosen = true → src ≠ 0 → t.holdover k = true ∧ t.f (gauPg k) 0x44 6 4 = 0 ∧ t.f (gauPg k) 0x10 8 8 = 1 ∧
          (t.gauge k).ref = none ∧ (t.gauge k).lost = false) ∧
        (g.chosen = true → src = 0 → s.gauSrc k ≠ 0 → t.holdover k = false ∧ t.f (gauPg k) 0x10 8 8 = 1) ∧
        (s.on (gauPg k) = true → src = 1 →
          (rises → (t.gauge k).edge = some ((t.gauge k).value, s.ticks)) ∧
          (¬rises → (t.gauge k).edge = if g.chosen then none else g.edge)) ∧
        (src = 0 → t.reg64 (gauPg k) 0x58 = inc) ∧
        (t.gauge k).stale = [] ∧ (t.gauge k).inv = (s.f (gauPg k) 0xc0 8 8 == 1) ∧ (t.gauge k).cut = false ∧
        (t.gauge k).pulse = (if g.cut then none else g.pulse) ∧
        (t.gauge k).winOn = (g.winOn && !g.cut && s.on (gauPg k) && s.on (gauPg (s.f (gauPg k) 0xc0 7 4))) ∧
        (s.on (gauPg k) = false → (t.gauge k).value = g.value ∧ (t.gauge k).resid = g.resid ∧
          (t.gauge k).set_ = g.set_ ∧ (t.gauge k).adj = g.adj) ∧
        (s.on (gauPg k) = true → (t.gauge k).set_ = none ∧ (t.gauge k).adj = none ∧
          (∀ x, g.set_ = some x → (t.gauge k).value = x ∧ (t.gauge k).resid = 0) ∧
          (g.set_ = none → (t.gauge k).resid = BitVec.ofNat 16 n ∧
            (t.gauge k).value = BitVec.ofNat 64 (n / 2 ^ 16) + g.adj.getD 0)))

/-- A Gauge's registers and sources (R335, R336, R341, R343-R347). A write of an upper register takes effect with the
lower half last written: GAU_INC at once, GAU_ADJ and GAU_SET at the next tick, each recorded; the lower halves of these
two stay for the next one. GAU_CTL is written at once and the source that it names is selected at the next tick, also
where it is written as it stands; the reserved one is refused. A PPS edge after the reference edge is rejected where it
comes early, and outside holdover sets the increment where it comes in time; a window of TCLK does the same by its count.
A source that is lost enters holdover, once. The period and the window are those in force in the tick. -/
def Obligations.GaugeSources : Prop :=
  ∀ (s : State) (k : Nat), k < 16 →
    let p := gauPg k
    let g := s.gauge k
    (∀ (rq : Requester) (v : BitVec 32), s.serves rq →
      let half := fun off => BitVec.ofNat 64 (v.toNat * 2 ^ 32 + (s.heldLow p off).toNat)
      (v &&& ~~~0xff = 0 → ∃ t, exec (.gauInc rq k v) s = .next (settle t) ∧ t = (s.withRegs t.regs).withLows t.lows ∧
        t.reg64 p 0x50 = v.toNat * 2 ^ 32 + (s.heldLow p 0x50).toNat ∧
        ∀ q o, regKey q o ≠ regKey p 0x50 → regKey q o ≠ regKey p 0x54 → t.reg q o = s.reg q o) ∧
      (∃ t, exec (.gauAdj rq k v) s = .next t ∧ t.f p 0x10 11 11 = 1 ∧ t.heldLow p 0x60 = s.heldLow p 0x60 ∧
        t.gauge k = { g with adj := some (g.adj.getD 0 + half 0x60) }) ∧
      (∃ t, exec (.gauSet rq k v) s = .next t ∧ t.f p 0x10 11 11 = 1 ∧ t.heldLow p 0x68 = s.heldLow p 0x68 ∧
        t.gauge k = { g with set_ := some (half 0x68) })) ∧
    (∀ (rq : Requester) (src : BitVec 2) (edge : BitVec 5) fall, s.serves rq → s.locked p = false → k ≠ 0 →
      (src = 3 → ∃ t, exec (.gauCtlSrc rq k src edge fall) s = .next t ∧ t.reg p 0x40 = s.reg p 0x40 ∧
        t.f p 0x10 13 13 = 1) ∧
      (src ≠ 3 → ∃ t, exec (.gauCtlSrc rq k src edge fall) s = .next t ∧ t.f p 0x40 1 0 = src.toNat ∧
        t.f p 0x40 8 4 = edge.toNat ∧ t.f p 0x40 9 9 = bit fall ∧ t.gauSrc k = s.gauSrc k ∧
        t.holdover k = s.holdover k ∧ t.gauge k = { g with chosen := true, stale := (t.gauge k).stale })) ∧
    (s.on p = true → s.gauSrc k = 1 →
      let period := (s.gin k 0x70).toNat
      (∀ v at_, g.edge = some (v, at_) →
        (g.ref = none → exec (.ppsEdge k) s = 
          .next (settle (s.setGauge k { g with edge := none, ref := some at_, lost := false }))) ∧
        (∀ r, g.ref = some r →
          (at_ - r + period / 1024 < period → ∃ t, exec (.ppsEdge k) s = .next t ∧ t.f p 0x10 10 10 = 1 ∧
            t.gauge k = { g with edge := none, stale := (t.gauge k).stale } ∧ t.reg64 p 0x58 = s.reg64 p 0x58 ∧
            t.ginF k 0x8c 31 0 = min (2 ^ 32 - 1) (s.ginF k 0x8c 31 0 + 1)) ∧
          (period ≤ at_ - r + period / 1024 → at_ - r ≤ period + period / 1024 → s.holdover k = false →
            ∃ t, exec (.ppsEdge k) s = .next (settle t) ∧ t = (s.withRegs t.regs).withGauges t.gauges ∧
              t.reg64 p 0x58 = ppsIncrement v.toNat period (at_ - r) ∧ t.reg64 p 0x80 = v.toNat ∧
              t.gauge k = { g with edge := none, ref := some at_, lost := false }))) ∧
      (∀ r, g.ref = some r →
        (r + 2 * period ≤ s.ticks → g.lost = false → ∃ t, exec (.ppsLost k) s = .next t ∧ t.holdover k = true ∧
          t.f p 0x10 8 8 = 1 ∧ (t.gauge k).ref = (if s.holdover k then some r else none)) ∧
        (s.ticks < r + 2 * period ∨ g.lost = true → exec (.ppsLost k) s = .next (settle s)))) ∧
    (s.on p = true → s.gauSrc k = 2 → ∀ e v, g.closed = some (e, v) →
      let w := s.ginF k 0x7c 4 0
      let ns := s.gin64 k 0x74 % 2 ^ 40
      let good := (e * ns - 2 ^ (w + 32)) * 1024 ≤ 2 ^ (w + 32) ∧ (2 ^ (w + 32) - e * ns) * 1024 ≤ 2 ^ (w + 32)
      (good → s.holdover k = false → ∃ t, exec (.tclkWindowEnd k) s = .next (settle t) ∧
        t = (s.withRegs t.regs).withGauges t.gauges ∧ t.reg64 p 0x58 = e * ns / 2 ^ w % 2 ^ 40 ∧
        t.gauge k = { g with closed := none }) ∧
      (¬good → ∃ t, exec (.tclkWindowEnd k) s = .next t ∧ t.holdover k = true ∧ t.f p 0x10 10 10 = 1))

/-- The event units (R350-R354, R356). A unit that acts, is armed and due fires: a one-shot unit without a width is
disarmed at once, else its pulse lasts to A + WIDTH; a periodic one goes on to the first A + n * B that is not due; a
window's output follows the window. The end of a pulse disarms a one-shot unit that acts. ARM is refused where the times
are not as R354 asks; what is written to ARM is in force from the next tick on. -/
def Obligations.GaugeEvents : Prop :=
  ∀ (s : State) (k : Nat), k < 16 →
    let p := gauPg k
    let g := s.gauge k
    let acts := s.on p = true ∧ s.on (gauPg (s.ginF k 0xc0 7 4)) = true ∧ s.ginF k 0xc0 0 0 = 1
    let written := armOk (s.f p 0xc0 2 1) (s.reg64 p 0xc8) (s.reg64 p 0xd0) (s.reg p 0xd8).toNat
    let waits := fun (t : State) => t = (s.withRegs t.regs).withGauges t.gauges ∧ t.evtArmed k = s.evtArmed k ∧
      t.evtMode k = s.evtMode k ∧ t.evtG k = s.evtG k
    let due := (s.evtG k + 2 ^ 64 - s.evtA k) % 2 ^ 64 < 2 ^ 63
    (∀ rq : Requester, s.serves rq →
      (s.evtArm k = false → written = true → ∃ t, exec (.gauEvtArm rq k true) s = .next (settle t) ∧
        waits t ∧ t.evtArm k = true ∧ t.gauge k = { g with stale := (t.gauge k).stale }) ∧
      (s.evtArm k = false → written = false →
        ∃ t, exec (.gauEvtArm rq k true) s = .next t ∧ t.evtArm k = false ∧ t.f p 0x10 13 13 = 1) ∧
      (s.evtArm k = true → ∃ t, exec (.gauEvtArm rq k false) s = .next (settle t) ∧
        waits t ∧ t.evtArm k = false ∧ t.gauge k = { g with cut := true, stale := (t.gauge k).stale })) ∧
    (acts → s.evtMode k = 0 → g.pulse = none →
      (due → s.evtWidth k = 0 →
        (g.stale = [] → exec (.oneShotFire k) s = .next (settle ((s.setF p 0xc4 0 0 1).setF p 0xc0 0 0 0))) ∧
        ∃ t, exec (.oneShotFire k) s = .next t ∧ t.f p 0xc4 0 0 = 1 ∧ t.evtArmed k = false) ∧
      (due → s.evtWidth k ≠ 0 → exec (.oneShotFire k) s = .next (settle ((s.setF p 0xc4 0 0 1).setGauge k
        { g with pulse := some (BitVec.ofNat 64 (s.evtA k + s.evtWidth k)) }))) ∧
      (¬due → exec (.oneShotFire k) s = .next (settle s))) ∧
    (acts → s.evtMode k = 1 → s.evtB k ≠ 0 → due → ∃ t n, exec (.periodicFire k) s = .next t ∧
      t.evtA k = (s.evtA k + (n + 1) * s.evtB k) % 2 ^ 64 ∧
      2 ^ 63 ≤ (s.evtG k + 2 ^ 64 - t.evtA k) % 2 ^ 64 ∧
      (∀ m, m < n → (s.evtG k + 2 ^ 64 - (s.evtA k + (m + 1) * s.evtB k) % 2 ^ 64) % 2 ^ 64 < 2 ^ 63) ∧
      t.f p 0xc4 0 0 = 1 ∧ t.gauge k = { g with
        stale := (t.gauge k).stale
        pulse := if s.evtWidth k = 0 then none else some (BitVec.ofNat 64 (s.evtA k + s.evtWidth k)) } ∧
      (n ≠ 0 → t.f p 0x10 12 12 = 1)) ∧
    (acts → s.evtMode k = 2 →
      let now := inside64 (s.evtG k) (s.evtA k) (s.evtB k)
      (g.winOn = now → exec (.windowFire k) s = .next (settle s)) ∧
      (g.winOn = false → now = true → exec (.windowFire k) s =
        .next (settle ((s.setGauge k { g with winOn := true }).setF p 0xc4 0 0 1))) ∧
      (g.winOn = true → now = false → exec (.windowFire k) s =
        .next (settle (s.setGauge k { g with winOn := false })))) ∧
    (∀ e : BitVec 64, g.pulse = some e →
      let past := (s.evtG k + 2 ^ 64 - e.toNat) % 2 ^ 64 < 2 ^ 63
      (past → s.unitActs k = true → s.evtMode k = 0 →
        (g.stale = [] → exec (.pulseEnd k) s =
          .next (settle ((s.setGauge k { g with pulse := none }).setF p 0xc0 0 0 0))) ∧
        ∃ t, exec (.pulseEnd k) s = .next t ∧ (t.gauge k).pulse = none ∧ t.evtArmed k = false) ∧
      (past → s.unitActs k = true → s.evtMode k ≠ 0 →
        exec (.pulseEnd k) s = .next (settle (s.setGauge k { g with pulse := none }))) ∧
      (¬past ∨ s.unitActs k = false → exec (.pulseEnd k) s = .next (settle s)))

/-! ### Trigger, measurement, capture and snapshots (R367-R394) -/

/-- The record of a committed cycle (R368, R375, R376, R382, R384, R387-R389). It is taken once Q is past, by step Q+3,
which the device reaches with it (the model's reading, log entry 31); else, and without one, nothing happens, and with
every unit off it is only used up. The armed sequencer takes its branch on the input vector: NEXT becomes the state, and
the first TRIGGER is recorded with its cycle. A measurement unit follows its bit, and gives the result of its mode with
the cycle, or none. The averager counts the record in its block, and the one that completes it gives each die its average
and places the crossing that DIR selects. Capture, in PRE with its gate open, gives the record the next slot, to be
written, or drops it where 64 wait. A waiting record is written through Veneer once a response buffer is free; a bus error
puts capture in ERROR. Each unit is shown with the others off, the sequencer without auto mode. -/
def Obligations.CycleRecords : Prop :=
  ∀ (s : State),
    (s.trg.record = none → exec .cycleRecord s = .next (settle s)) ∧
    (∀ c rep, s.trg.record = some (c, rep) → s.cyc.phase ≠ .settled ∨ s.qStep + 3 < s.step →
      exec .cycleRecord s = .next (settle s)) ∧
    (∀ c rep, s.trg.record = some (c, rep) → s.cyc.phase = .settled → s.step ≤ s.qStep + 3 →
      let u := moveStep s (s.qStep + 3)
      let r := assemble u c rep
      let unmeasured := ∀ k, k < 8 → u.on (measPg k) = false
      (unmeasured → u.on trgPg = false → u.on capPg = false →
        exec .cycleRecord s = .next (settle (u.withTrg { u.trg with record := none }))) ∧
      (unmeasured → u.on trgPg = true → u.f trgPg 0x40 0 0 = 1 → u.f trgPg 0x800 16 16 = 0 → u.f trgPg 0x50 0 0 = 0 →
        u.on capPg = false → c < 2 ^ 64 →
        let br := u.branchCtl (u.f trgPg 0x44 3 0) (u.inputVector r [false, false, false, false])
        (br = none → ∃ t, exec .cycleRecord s = .next t ∧ t.f trgPg 0x44 3 0 = u.f trgPg 0x44 3 0 ∧
          t.triggered = u.triggered ∧ t.cyc = u.cyc) ∧
        (∀ w : BitVec 32, br = some w → ∃ t, exec .cycleRecord s = .next t ∧ t.f trgPg 0x44 3 0 = w.toNat / 16 % 16 ∧
          t.cyc.trigStop = (u.cyc.trigStop || w.getLsbD 9) ∧
          (w.getLsbD 8 = true → u.triggered = false → t.triggered = true ∧ t.reg64 trgPg 0x48 = c ∧
            t.f trgPg 0x10 8 8 = 1) ∧
          (w.getLsbD 8 = false ∨ u.triggered = true → t.triggered = u.triggered ∧ t.reg64 trgPg 0x48 = u.reg64 trgPg 0x48) ∧
          ∀ i, i < 4 → t.reg trgPg (0xa0 + 4 * i) =
            let n := if w.getLsbD (20 + i) then 0 else u.reg trgPg (0xa0 + 4 * i)
            if w.getLsbD (16 + i) = true ∧ n ≠ 0xffffffff then n + 1 else n)) ∧
      (∀ k, k < 8 → (∀ j, j < 8 → j ≠ k → u.on (measPg j) = false) → u.on trgPg = false → u.on capPg = false →
        u.on (measPg k) = true → u.f (measPg k) 0x40 0 0 = 1 → c < 2 ^ 64 →
        let p := measPg k
        let m := u.measUnit k
        let g := probeGroup (if u.f p 0x40 4 4 = 1 then r.trig else r.probe) (u.f p 0x40 13 8)
        let b := g.testBit (u.f p 0x40 21 16)
        let field := g / 2 ^ u.f p 0x40 21 16 % 2 ^ (u.f p 0x40 29 24 + 1)
        let mode := u.f p 0x40 3 1
        let n := min (2 ^ 64 - 1) (u.reg64 p 0x60 + 1)
        let rises := m.prev = some false ∧ b = true
        let falls := m.prev = some true ∧ b = false
        let gives := fun (t : State) (last time at_ mn mx : Nat) => t.reg64 p 0x48 = last ∧ t.reg64 p 0x68 = time ∧
          t.reg64 p 0x60 = n ∧ t.reg64 p 0x70 = at_ ∧ t.reg64 p 0x50 = mn ∧ t.reg64 p 0x58 = mx ∧
          t.f p 0x44 0 0 = 1 ∧ t.f p 0x10 8 8 = 1
        ∃ t, exec .cycleRecord s = .next t ∧ (t.measUnit k).prev = some b ∧
          (∀ c0 t0, m.rise = some (c0, t0) → mode = 0 ∧ rises ∨ mode = 1 ∧ falls →
            let l := (c + 2 ^ 64 - c0) % 2 ^ 64
            gives t l ((u.recTime 0 + 2 ^ 64 - t0) % 2 ^ 64) c (min (u.reg64 p 0x50) l) (max (u.reg64 p 0x58) l)) ∧
          (mode = 2 → rises → gives t (min (2 ^ 64 - 1) (m.since + 1)) 0 c (u.reg64 p 0x50) (u.reg64 p 0x58)) ∧
          (mode = 3 → gives t field 0 (if field < u.reg64 p 0x50 ∨ n = 1 then c else u.reg64 p 0x70)
            (min (u.reg64 p 0x50) field) (u.reg64 p 0x58)) ∧
          (mode = 4 → gives t field 0 (if u.reg64 p 0x58 < field ∨ n = 1 then c else u.reg64 p 0x70)
            (u.reg64 p 0x50) (max (u.reg64 p 0x58) field)) ∧
          (mode ≤ 2 → ¬(mode = 0 ∧ rises ∧ m.rise ≠ none) → ¬(mode = 1 ∧ falls ∧ m.rise ≠ none) → ¬(mode = 2 ∧ rises) →
            t.regs = u.regs) ∧
          (rises → (t.measUnit k).rise = some (c, u.recTime 0)) ∧
          (¬rises → (t.measUnit k).rise = if mode = 1 ∧ falls then none else m.rise)) ∧
      (unmeasured → u.on trgPg = true → u.f trgPg 0x40 0 0 = 0 → u.f trgPg 0x800 16 16 = 1 → u.on capPg = false →
        let n := u.trg.blockN + 1
        let full := 2 ^ u.f trgPg 0x800 4 0
        let now := u.recTime (u.f trgPg 0x800 15 12)
        let sum := fun d => u.trg.sums.getD d 0 + r.toggles.getD d 0
        (n < full → exec .cycleRecord s = .next (settle (u.withTrg { u.trg with
          record := none, sums := (List.range 4).map sum, blockN := n }))) ∧
        (full ≤ n → ∃ t, exec .cycleRecord s = .next t ∧ t.trg.blockN = 0 ∧ t.trg.sums = [0, 0, 0, 0] ∧
          ∀ d, d < 4 →
            let pg := u.ldr.counts.getD d 0
            let a := sum d * 32 / (full * pg) % 2 ^ 24
            (pg = 0 → t.reg trgPg (0x820 + 4 * d) = 0) ∧
            (pg ≠ 0 → (t.reg trgPg (0x820 + 4 * d)).toNat = 2 ^ 31 + a) ∧
            (u.trg.prevBlock.length = 4 → t.trg.prevBlock.getD d none = if pg = 0 then none else some (a, now)) ∧
            (pg = 0 ∨ u.trg.prevBlock.getD d none = none → t.reg trgPg (0x830 + 4 * d) = u.reg trgPg (0x830 + 4 * d)) ∧
            (∀ a0 t0, pg ≠ 0 → u.trg.prevBlock.getD d none = some (a0, t0) →
              let thr := u.f trgPg (0x810 + 4 * d) 23 0
              let dir := u.f trgPg 0x800 9 8
              let up := a0 < thr ∧ thr ≤ a ∧ dir % 2 = 1
              let down := thr ≤ a0 ∧ a < thr ∧ 2 ≤ dir
              let f := (256 * ((thr : Int) - a0)).fdiv ((a : Int) - a0)
              let dt := (BitVec.ofNat 64 (now + 2 ^ 64 - t0 % 2 ^ 64)).toInt
              (up ∨ down → ((t.reg trgPg (0x830 + 4 * d)).toNat : Int) = 2 ^ 31 + (if a < a0 then 2 ^ 16 else 0) + f ∧
                (t.reg64 trgPg (0x840 + 8 * d) : Int) = ((t0 : Int) + (f * dt).fdiv 256) % 2 ^ 64 ∧
                t.f trgPg 0x10 11 11 = 1) ∧
              (¬up → ¬down → t.reg trgPg (0x830 + 4 * d) = u.reg trgPg (0x830 + 4 * d) ∧
                t.reg64 trgPg (0x840 + 8 * d) = u.reg64 trgPg (0x840 + 8 * d))))) ∧
      (unmeasured → u.on trgPg = false → u.on capPg = true → u.f capPg 0x40 0 0 = 1 → u.f capPg 0x40 1 1 = 0 →
        u.f capPg 0x44 2 0 = capPre → u.f capPg 0x44 4 4 = 1 →
        let n := (u.reg capPg 0x70).toNat
        let flags := 8 * bit rep + 16 * bit u.cap.gap + 2 ^ 8 * u.f trgPg 0x44 3 0
        ∃ t, exec .cycleRecord s = .next t ∧ t.cap.k = u.cap.k + 1 ∧ t.f capPg 0x44 2 0 = capPre ∧
          (u.cap.waiting.length < 64 → t.cap.waiting = u.cap.waiting ++
            [(u.capBase + u.capLen * (u.cap.k % n), u.captureBytes r flags)] ∧ t.cap.gap = false) ∧
          (64 ≤ u.cap.waiting.length → t.cap.waiting = u.cap.waiting ∧ t.cap.gap = true ∧ t.f capPg 0x10 9 9 = 1))) ∧
    (s.cap.waiting = [] ∨ s.bufferFree 15 = false → exec .captureWrite s = .next (settle s)) ∧
    (∀ a bs rest, s.bufferFree 15 = true → s.cap.waiting = (a, bs) :: rest →
      let v := vnrWriteRun (s.withCap { s.cap with waiting := rest }) .capture a bs
      (v.1 = 0 → exec .captureWrite s = .next (settle v.2)) ∧
      (v.1 ≠ 0 → ∃ t, exec .captureWrite s = .next t ∧ t.cap.waiting = [] ∧ t.f capPg 0x44 2 0 = capError ∧
        t.f capPg 0x10 10 10 = 1))

/-- Arming (R377, R380, R386, R387, R388). Each unit begins afresh when ARM goes from 0 to 1 with a configuration that its
rule allows, and else stays disarmed with CFG_ERR; ARM = 0 changes nothing else. -/
def Obligations.UnitArms : Prop :=
  ∀ (s : State) (rq : Requester), s.serves rq →
    (s.f trgPg 0x40 0 0 = 0 → ∃ t, exec (.trgCtlArm rq true) s = .next (settle t) ∧
      t = (s.withRegs t.regs).withTrg { s.trg with prev := [], deadline := [], autoAt := none } ∧ t.f trgPg 0x40 0 0 = 1 ∧
      t.reg trgPg 0x44 = 0 ∧ t.f trgPg 0x60 23 16 = 0 ∧ ∀ i, i < 4 → t.reg trgPg (0xa0 + 4 * i) = 0) ∧
    (∃ t, exec (.trgCtlArm rq false) s = .next (settle t) ∧ s.regsBut t [regKey trgPg 0x40] ∧ t.f trgPg 0x40 0 0 = 0) ∧
    (s.f capPg 0x40 0 0 = 0 →
      let n := 2 ^ s.f capPg 0x50 5 0 / s.capLen
      let may := 16 ≤ s.f capPg 0x50 5 0 ∧ s.f capPg 0x50 5 0 ≤ 34 ∧ s.capBase % 2 ^ s.f capPg 0x50 5 0 = 0 ∧
        s.withinRegion s.capBase (2 ^ s.f capPg 0x50 5 0) .capture s.writable = true ∧ s.capGroups ≠ [] ∧
        (s.reg capPg 0x60).toNat < n
      (may → ∃ t, exec (.capCtlArm rq true) s = .next (settle t) ∧
        t = (s.withRegs t.regs).withCap { s.cap with k := 0, postLeft := 0, gap := false } ∧ t.f capPg 0x40 0 0 = 1 ∧
        t.f capPg 0x44 2 0 = capPre ∧ t.f capPg 0x44 4 4 = 1 - s.f capPg 0x40 1 1 ∧ t.reg capPg 0x64 = 0 ∧
        t.reg capPg 0x70 = BitVec.ofNat 32 n) ∧
      (¬may → ∃ t, exec (.capCtlArm rq true) s = .next t ∧ t.f capPg 0x40 0 0 = 0 ∧ t.f capPg 0x10 11 11 = 1 ∧
        t.cap = s.cap)) ∧
    (∃ t, exec (.capCtlArm rq false) s = .next (settle t) ∧ s.regsBut t [regKey capPg 0x40] ∧ t.f capPg 0x40 0 0 = 0) ∧
    (∀ k, k < 8 →
      let may := s.f (measPg k) 0x40 21 16 + s.f (measPg k) 0x40 29 24 + 1 ≤ 64 ∧ s.f (measPg k) 0x40 3 1 ≤ 4
      (s.f (measPg k) 0x40 0 0 = 0 → may → ∃ t, exec (.measCtlArm rq k true) s = .next t ∧ t.f (measPg k) 0x40 0 0 = 1 ∧
        t.measUnit k = ⟨none, none, 0⟩ ∧ t.reg64 (measPg k) 0x60 = 0 ∧ t.reg64 (measPg k) 0x50 = 2 ^ 64 - 1 ∧
        t.reg64 (measPg k) 0x58 = 0 ∧ t.f (measPg k) 0x44 0 0 = 0) ∧
      (s.f (measPg k) 0x40 0 0 = 0 → ¬may → ∃ t, exec (.measCtlArm rq k true) s = .next t ∧
        t.f (measPg k) 0x40 0 0 = 0 ∧ t.f (measPg k) 0x10 9 9 = 1) ∧
      (∃ t, exec (.measCtlArm rq k false) s = .next t ∧ t.f (measPg k) 0x40 0 0 = 0 ∧ t.meas = s.meas)) ∧
    (∀ v : BitVec 32, v &&& ~~~0x1f31f = 0 →
      (v.toNat % 32 ≤ 16 → ∃ t, exec (.trgActCtlWrite rq v) s = .next (settle t) ∧
        t = (s.withRegs t.regs).withTrg { s.trg with
          blockN := 0, sums := [0, 0, 0, 0], prevBlock := [none, none, none, none] } ∧
        t.f trgPg 0x800 16 16 = bit (v.getLsbD 16) ∧ t.f trgPg 0x800 4 0 = v.toNat % 32) ∧
      (16 < v.toNat % 32 → ∃ t, exec (.trgActCtlWrite rq v) s = .next t ∧ t.reg trgPg 0x800 = s.reg trgPg 0x800 ∧
        t.trg = s.trg ∧ t.f trgPg 0x10 12 12 = 1))

/-- Snapshot and restore (R390-R394). SNAP and RESTORE begin where their rules allow, and show their BUSY bit, and are
otherwise ignored with CFG_ERR. A snapshot that meets no bus error leaves in memory what its writes leave, and ends with
SNAP_DONE and its length; one that meets one ends with SNAP_FAIL and the class. The first pass of a restore writes
nothing, and goes on to the second where the header fits the committed image, its extents may be read and every line
reads; it ends with RESTORE_FAIL otherwise. The second leaves the Panels and the memory that its reads and writes leave,
and RESTORE_DONE, or else RESTORE_FAIL and RESTORE_BAD; a Panel's block gives its Value Store and shadow bank, with fresh
parity. None of the three comes before a response buffer is free (R434). A waiting write of 0 to CLP_HOST_HOLD takes
effect at the end. What is read and written is so at the ends, line by line (the model's choice, log entry 32). -/
def Obligations.Snapshots : Prop :=
  ∀ (s : State),
    let released := fun (t : State) => s.ldr.holdOff = true → s.cycOff = true ∨ s.ldSt ≠ ldCommit → t.f clpPg 0x48 0 0 = 0
    let info := fun (u t : State) (b c : Nat) => u.f capPg 0x18 31 31 = 0 → t.reg capPg 0x18 = captureWord b (clsInfo c)
    (∀ rq : Requester, s.serves rq →
      let base := s.reg64 capPg 0x80 % 2 ^ 36
      let maySnap := s.imageCommitted = true ∧ (s.cycOff = true ∨ s.executing = false ∧ s.f clpPg 0x48 0 0 = 1) ∧
        s.snapBusy = false ∧ s.ldSt ≠ ldCommit ∧ s.snapArea base (snapLen s.panelSum s.snapExts) = true ∧
        s.snapExts.all s.extentOk = true
      let mayRestore := s.cycOff = true ∧ s.imageCommitted = true ∧ s.snapBusy = false ∧ s.ldSt ≠ ldCommit ∧
        s.snapArea base 64 = true
      (maySnap → ∃ t, exec (.snap rq) s = .next (settle t) ∧
        t = (s.withRegs t.regs).withCap { s.cap with base := base, exts := s.snapExts } ∧ t.f capPg 0x44 8 8 = 1) ∧
      (¬maySnap → ∃ t, exec (.snap rq) s = .next t ∧ t.reg capPg 0x44 = s.reg capPg 0x44 ∧ t.f capPg 0x10 11 11 = 1) ∧
      (mayRestore → ∃ t, exec (.restore rq) s = .next (settle t) ∧
        t = (s.withRegs t.regs).withCap { s.cap with base := base, exts := [], second := false } ∧
        t.f capPg 0x44 9 9 = 1) ∧
      (¬mayRestore → ∃ t, exec (.restore rq) s = .next t ∧ t.reg capPg 0x44 = s.reg capPg 0x44 ∧
        t.f capPg 0x10 11 11 = 1)) ∧
    (s.f capPg 0x44 8 8 = 0 ∨ s.bufferFree 15 = false → exec .snapEnd s = .next (settle (endHoldWait s))) ∧
    (s.f capPg 0x44 9 8 = 1 → s.bufferFree 15 = true →
      let v := copyAll s s.snapOps
      (v.1 = 0 → ∃ t, exec .snapEnd s = .next t ∧ t.f capPg 0x44 9 8 = 0 ∧ t.f capPg 0x10 12 12 = 1 ∧ t.hbm = v.2.hbm ∧
        t.reg capPg 0x88 = BitVec.ofNat 32 (up64k (snapLen v.2.panelSum v.2.cap.exts) / 65536) ∧ released t) ∧
      (v.1 ≠ 0 → ∃ t, exec .snapEnd s = .next t ∧ t.f capPg 0x44 9 8 = 0 ∧ t.f capPg 0x10 13 13 = 1 ∧ t.hbm = v.2.hbm ∧
        info v.2 t 13 v.1 ∧ released t)) ∧
    (s.f capPg 0x44 9 9 = 0 ∨ s.cap.second = true ∨ s.bufferFree 15 = false → exec .restorePassEnd s = .next (settle (endHoldWait s))) ∧
    (s.f capPg 0x44 9 8 = 2 → s.cap.second = false → s.bufferFree 15 = true →
      let v := vnrReadRun s .capture s.cap.base 256
      let h := v.2.1
      let at_ := fun o n => numLE ((h.drop o).take n)
      let fits := at_ 0 4 = 0x50414E53 ∧ at_ 4 2 = 1 ∧ at_ 24 2 = v.2.2.nLen ∧ at_ 26 2 = v.2.2.sLen ∧
        (∀ g, g < 4 → at_ (28 + g) 1 = v.2.2.ldr.counts.getD g 0) ∧ at_ 32 1 % 2 = v.2.2.f ldrPg 0x44 5 5 ∧ at_ 6 2 ≤ 8 ∧
        ∀ e ∈ headerExts h, v.2.2.extentOk e = true
      let w := copyAll v.2.2 (v.2.2.passOps (snapLen v.2.2.panelSum (headerExts h)))
      let fails := fun (u : State) (c : Nat) => ∃ t, exec .restorePassEnd s = .next t ∧ t.f capPg 0x44 9 8 = 0 ∧
        t.f capPg 0x10 15 15 = 1 ∧ info u t 15 c ∧ t.panels = s.panels ∧ t.hbm = s.hbm ∧ released t
      (v.1 ≠ 0 → fails v.2.2 v.1) ∧ (v.1 = 0 → ¬fits → fails v.2.2 0) ∧ (v.1 = 0 → fits → w.1 ≠ 0 → fails w.2 w.1) ∧
      (v.1 = 0 → fits → w.1 = 0 → ∃ t, exec .restorePassEnd s = .next t ∧ t.f capPg 0x44 9 8 = 2 ∧ t.panels = s.panels ∧
        t.hbm = s.hbm ∧ t.cap.second = true ∧ t.cap.exts = headerExts h)) ∧
    (s.f capPg 0x44 9 9 = 0 ∨ s.cap.second = false ∨ s.bufferFree 15 = false → exec .restoreEnd s = .next (settle (endHoldWait s))) ∧
    (s.f capPg 0x44 9 8 = 2 → s.cap.second = true → s.bufferFree 15 = true →
      let v := copyAll s s.restoreOps
      (v.1 = 0 → ∃ t, exec .restoreEnd s = .next t ∧ t.f capPg 0x44 9 8 = 0 ∧ t.f capPg 0x44 10 10 = 0 ∧
        t.f capPg 0x10 14 14 = 1 ∧ t.cap.second = false ∧ t.panels = v.2.panels ∧ t.hbm = v.2.hbm ∧ released t) ∧
      (v.1 ≠ 0 → ∃ t, exec .restoreEnd s = .next t ∧ t.f capPg 0x44 9 8 = 0 ∧ t.f capPg 0x44 10 10 = 1 ∧
        t.f capPg 0x10 15 15 = 1 ∧ info v.2 t 15 v.1 ∧ t.panels = v.2.panels ∧ t.hbm = v.2.hbm ∧ released t)) ∧
    ∀ die ph a, let v := vnrReadRun s .capture a 32768
      v.1 = 0 →
        let x := (restoreVs s die ph a).2.panel die ph
        x.sh = x.vs ∧ x.vsBad = [] ∧ x.shBad = [] ∧
          ∀ i, i < 8 * v.2.1.length → Tab.get (fun _ => false) x.vs i = (v.2.1.getD (i / 8) 0).testBit (i % 8)

/-! ### Trace units, control cores and the work dispatcher (R395-R430) -/

/-- The trace unit of a core (R395, R396, R398-R401, R550). RUN starts a run with SYNC and TIMESTAMP where R395 allows it,
whatever the core and the page do (as the model reads it, log entry 33), and else stays 0 with CFG_ERR; RUN = 0 ends it
with STOP, whether or not the page is ON; the STOP of TRC_POST is written at once (the model's choice, log entry 33). TRIG
acts with TRIG_SRC 3, once in a run. TRC_AUTH takes a write from a core in machine mode only. SYNC, TIMESTAMP, STOP and
OVERFLOW follow what is in hand. The packets are given for a unit with nothing to emit before them, but that SYNC comes
before STOP where 4,096 bytes have passed. -/
def Obligations.TraceCommands : Prop :=
  ∀ (s : State) (c : Nat), c < 8 →
    let p := trcPg c
    let k := s.core c
    let tr := s.tr c
    let g := s.gval 0
    let sync := [1] ++ bytesLE 4 k.pc.toNat ++ [s.traceMode c k.machine]
    let stamp := [2] ++ bytesLE 8 g
    (∀ rq : Requester, s.serves rq →
      let lg := s.f p 0x60 5 0
      let may := (s.f p 0x40 3 3 = 0 ∨ 16 ≤ lg ∧ lg ≤ 30 ∧ s.trcBase c % 2 ^ lg = 0 ∧
          s.withinRegion (s.trcBase c) (2 ^ lg) .capture (fun _ => true) = true) ∧
        (s.f p 0x40 5 4 = 2 → (s.reg p 0xb0).toNat < (s.reg p 0xb4).toNat)
      (s.f p 0x40 0 0 = 0 → may → ∃ t, exec (.trcCtlRun rq c true) s = .next t ∧ t.f p 0x40 0 0 = 1 ∧ t.reg p 0x44 = 0 ∧
        t.reg p 0x64 = 0 ∧
        t.tr c = ⟨[], 15, sync ++ stamp, 15, BitVec.ofNat 64 g, [], k.pc, 0, none, true, s.ccSts c 0⟩) ∧
      (s.f p 0x40 0 0 = 0 → ¬may → ∃ t, exec (.trcCtlRun rq c true) s = .next t ∧ t.f p 0x40 0 0 = 0 ∧
        t.f p 0x10 14 14 = 1 ∧ t.traces = s.traces) ∧
      (s.f p 0x40 0 0 = 1 → tr.running = false → ∃ t, exec (.trcCtlRun rq c false) s = .next t ∧
        t.f p 0x40 0 0 = 0 ∧ t.traces = s.traces) ∧
      (s.f p 0x40 0 0 = 1 → tr.running = true → ∃ t, exec (.trcCtlRun rq c false) s = .next t ∧
        t.f p 0x40 0 0 = 0 ∧ (t.tr c).running = false ∧ (tr.branches = [] → tr.dropped = 0 →
          (tr.sinceSync < 4096 → tr.held.length < 1024 → (t.tr c).held = tr.held ++ [8]) ∧
          (4096 ≤ tr.sinceSync → tr.trigAt = none → tr.held.length + 7 ≤ 1024 → (t.tr c).held = tr.held ++ sync ++ [8]))) ∧
      (s.f p 0x40 5 4 ≠ 3 ∨ s.tracing c = false ∨ tr.trigAt ≠ none → ∃ u, s.sameRegs u ∧
        exec (.trcCtlTrig rq c) s = .next (settle u)) ∧
      (s.f p 0x40 5 4 = 3 → s.tracing c = true → tr.trigAt = none → tr.dropped = 0 → tr.branches = [] →
        tr.sinceSync < 4096 → tr.held.length < 1024 → ∃ t, exec (.trcCtlTrig rq c) s = .next t ∧
        (t.tr c).held = tr.held ++ [7] ∧ (t.tr c).trigAt = some (tr.total + 1) ∧ t.f p 0x44 0 0 = 1 ∧
        t.f p 0x10 8 8 = 1 ∧ t.reg p 0x68 = BitVec.ofNat 32 (tr.total % s.trcSize c)) ∧
      (∀ m : Bool, let may := ∃ d, rq = .core d ∧ (s.core d).machine = true
        (may → ∃ t, exec (.trcAuth rq c m) s = .next (settle t) ∧ s.regsBut t [regKey p 0x48] ∧ t.f p 0x48 0 0 = bit m) ∧
        (¬may → ∃ t, exec (.trcAuth rq c m) s = .next t ∧ t.reg p 0x48 = s.reg p 0x48 ∧ t.f p 0x10 12 12 = 1))) ∧
    (tr.sinceSync < 4096 ∨ s.tracing c = false → exec (.traceSync c) s = .next (settle s)) ∧
    (4096 ≤ tr.sinceSync → s.tracing c = true → s.stopDue c = false → tr.dropped = 0 → tr.branches = [] →
      tr.held.length + 6 ≤ 1024 → ∃ t, exec (.traceSync c) s = .next t ∧ t.regs = s.regs ∧
      t.tr c = { tr with total := tr.total + 6, held := tr.held ++ sync, sinceSync := 6, lastAddr := k.pc }) ∧
    (let n := s.reg64 p 0x50
      let due := n ≠ 0 ∧ s.tracing c = true ∧ reached64 g (tr.lastTs.toNat + n) = true
      (¬due → exec (.traceTimestamp c) s = .next (settle s)) ∧
      (due → s.stopDue c = false → tr.dropped = 0 → tr.branches = [] → tr.sinceSync < 4096 → tr.held.length + 9 ≤ 1024 →
        ∃ t, exec (.traceTimestamp c) s = .next t ∧ t.regs = s.regs ∧
        t.tr c = { tr with total := tr.total + 9, held := tr.held ++ stamp, sinceSync := tr.sinceSync + 9,
                           lastTs := BitVec.ofNat 64 g })) ∧
    (s.tracing c = false ∨ s.stopDue c = false → exec (.traceStop c) s = .next (settle s)) ∧
    (s.tracing c = true → s.stopDue c = true → tr.dropped = 0 → tr.held.length < 1024 → ∃ t, exec (.traceStop c) s = .next t ∧
      (t.tr c).running = false ∧ (t.tr c).held = tr.held ++ [8] ∧ t.f p 0x44 1 1 = 1 ∧ t.f p 0x10 9 9 = 1) ∧
    (s.tracing c = false ∨ tr.dropped = 0 ∨ 1024 < tr.held.length + 18 → exec (.traceOverflow c) s = .next (settle s)) ∧
    (s.tracing c = true → 0 < tr.dropped → tr.held.length + 18 ≤ 1024 → tr.branches = [] → tr.trigAt = none → ∃ t, exec (.traceOverflow c) s = .next t ∧
      (t.tr c).held = tr.held ++ ([4] ++ bytesLE 2 (min tr.dropped 65535)) ++ sync ++ stamp ∧ (t.tr c).dropped = 0 ∧
      t.f p 0x10 10 10 = 1)

/-- The control cores (R408, R409, R412, R414, R416-R418), shown with the trace unit off, and for a sleep and its end
without a run. The instructions' encodings and results and the trap's state are those of the RISC-V manuals, and mtval the
model's choice (log entry 34). An instruction that the core has fetched, over the ring where it lies in shared SRAM or the
boot ROM (at node 8: the model's choice, log entry 35), has its effect on the core alone; an interrupt that is enabled and
pending comes before it, a late store fault before both; a reserved encoding is illegal. WFI sleeps unless an interrupt
enabled in mie is pending; CORE_WAKE ends the sleep. MSIP, the interrupt source selected and the alarm latch follow their
writes. -/
def Obligations.ControlCores : Prop :=
  ∀ (s : State) (c : Nat), c < 8 →
    let k := s.core c
    let trapped := fun (cause : Nat) (irq : Bool) (tval : Word) =>
      ({ k with mepc := k.pc &&& ~~~1, mcause := BitVec.ofNat 32 (cause + bit irq * 2 ^ 31), mtval := tval, mpie := k.mie_,
                mie_ := false, mpp := k.machine, machine := true, wait := none, fetched := [],
                pc := (k.mtvec &&& ~~~3) + (if irq && k.mtvec.getLsbD 0 then BitVec.ofNat 32 (4 * cause) else 0) } : Core)
    (s.coreRuns c = false → exec (.coreInstruction c) s = .next (settle s)) ∧
    (s.coreRuns c = true → s.tracing c = false →
      (∀ a, k.fault = some a → ∃ t, exec (.coreInstruction c) s = .next t ∧ t.regs = s.regs ∧
        t.core c = { trapped 7 false a with fault := none }) ∧
      (k.fault = none → ∀ n, s.takes c = some n →
        exec (.coreInstruction c) s = .next (settle (s.setCore c (trapped n true 0)))) ∧
      (s.takes c = some 7 → exec (.machineTimerInterrupt c) s =
        .next (settle (s.setCore c (trapped 7 true 0)))) ∧
      (s.takes c ≠ some 7 → exec (.machineTimerInterrupt c) s = .next (settle s)) ∧
      (s.takes c = some 11 → exec (.machineExternalInterrupt c) s =
        .next (settle (s.setCore c (trapped 11 true 0)))) ∧
      (s.takes c ≠ some 11 → exec (.machineExternalInterrupt c) s = .next (settle s)) ∧
      (k.fault = none → s.takes c = none →
        let u := fetchedUsed s c
        let k := u.core c
        (∀ p off, (p = .shared off ∨ p = .rom off) → s.place c k.pc.toNat = some p → k.pmpOk k.machine 2 k.pc.toNat = true →
          (s.core c).fetched = [] → exec (.coreInstruction c) s = .next (settle
            (coreSend s c 1 (ringTarget p).1 ((ringTarget p).2 / 4 * 4) 4 [] 0 1 k.pc.toNat
              (coreWaits c (.fetch k.pc.toNat))))) ∧
        (∀ raw len, fetch s c = .inl (none, raw, len) → fetchEvents u c k.pc.toNat len = u →
          exec (.coreInstruction c) s = .next (settle (u.setCore c (trapped 2 false (BitVec.ofNat 32 raw))))) ∧
        (∀ w raw len, fetch s c = .inl (some w, raw, len) → fetchEvents u c k.pc.toNat len = u →
          let next := k.pc + BitVec.ofNat 32 len
          let rd := fld w 11 7
          let a := k.get (fld w 19 15)
          let b := k.get (fld w 24 20)
          (fld w 6 0 = 0x13 → fld w 14 12 = 0 → exec (.coreInstruction c) s =
            .next (settle (u.setCore c ((k.put rd (a + sx 12 (fld w 31 20))).retire next)))) ∧
          (fld w 6 0 = 0x33 → fld w 31 25 = 1 → fld w 14 12 = 0 → exec (.coreInstruction c) s =
            .next (settle (u.setCore c ((k.put rd (a * b)).retire next)))) ∧
          (fld w 6 0 = 0x33 → fld w 31 25 = 1 → fld w 14 12 = 5 → exec (.coreInstruction c) s = .next (settle (u.setCore c
            ((k.put rd (if b = 0 then -1 else BitVec.ofNat 32 (a.toNat / b.toNat))).retire next)))) ∧
          (fld w 6 0 = 0x63 → fld w 14 12 = 0 → exec (.coreInstruction c) s = .next (settle (u.setCore c
            (k.retire (if a = b then
              k.pc + sx 13 (fld w 31 31 * 2 ^ 12 + fld w 30 25 * 2 ^ 5 + fld w 11 8 * 2 + fld w 7 7 * 2 ^ 11)
              else next))))) ∧
          (fld w 6 0 = 0x03 → fld w 14 12 = 2 →
            let x := (a + sx 12 (fld w 31 20)).toNat
            x % 4 = 0 → x < 0x10000 → k.pmpOk k.dataMachine 0 x = true →
            Tab.get (fun _ => EccClass.clean) k.sramErr (x / 4) = .clean →
            exec (.coreInstruction c) s = .next (settle (u.setCore c
              { (k.put rd (Tab.get (zeroAt 32) k.sram (x / 4))).retire next with wait := none }))) ∧
          (fld w 6 0 = 0x23 → fld w 14 12 = 2 →
            let x := (a + sx 12 (fld w 31 25 * 32 + rd)).toNat
            x % 4 = 0 → x < 0x10000 → k.pmpOk k.dataMachine 1 x = true →
            ∃ t, exec (.coreInstruction c) s = .next t ∧ (t.core c).pc = next ∧ t.regs = s.regs ∧ t.hbm = s.hbm ∧
              t.shared = s.shared ∧
              ∀ i, Tab.get (zeroAt 32) (t.core c).sram i = if i = x / 4 then b else Tab.get (zeroAt 32) k.sram i) ∧
          (w = 0x73 → raw = 0x73 → exec (.coreInstruction c) s =
            .next (settle (u.setCore c (trapped (if k.machine then 11 else 8) false 0)))) ∧
          (w = 0x10500073 → raw = w → k.machine = true ∨ k.tw = false →
            let v := u.setCore c (k.retire next)
            (s.mip c &&& k.mie.toNat ≠ 0 → exec (.wfi c) s = .next (settle v)) ∧
            (s.mip c &&& k.mie.toNat = 0 → (s.tr c).running = false →
              exec (.wfi c) s = .next (settle (v.setCcSts c 0 true)))) ∧
          (w ≠ 0x10500073 → exec (.wfi c) s = .next (settle s))))) ∧
    (let wakes := s.ccSts c 0 = true ∧ s.coreLive c = true ∧ s.f pwrPg 0x44 2 0 < 3 ∧ s.mip c &&& k.mie.toNat ≠ 0
     (wakes → (s.tr c).running = false → exec (.coreWake c) s = .next (settle (s.setCcSts c 0 false))) ∧
     (¬wakes → exec (.coreWake c) s = .next (settle s))) ∧
    (∀ rq : Requester, s.serves rq →
      (∀ v : Bool, ∃ t, exec (.ccMsip rq c v) s = .next (settle t) ∧ s.regsBut t [regKey (ccPg c) 0x50] ∧
        t.f (ccPg c) 0x50 0 0 = bit v) ∧
      (∀ n : BitVec 6, ∃ t, exec (.ccIrqLocSelect rq c n) s = .next (settle t) ∧ s.regsBut t [regKey (ccPg c) 0x70] ∧
        t.f (ccPg c) 0x70 5 0 = n.toNat)) ∧
    (s.refRuns = true → ∃ u, s.sameRegs u ∧
      (s.recent.contains alarmMark = true → exec (.ccAlarmAck c) s = .next (settle u)) ∧
      (s.recent.contains alarmMark = false → exec (.ccAlarmAck c) s =
        .next (settle (u.withAlarms (Tab.set (fun _ => false) u.alarms c false)))))

/-- The work dispatcher (R419-R428). A commit of a post window is refused, or waits with BUSY; a waiting post that has
room goes to the end of its ready list, numbered in its flow. A decision gives the head of the list of greatest urgency to
the lowest idle core named. An item that ends leaves its core, and its outcome goes to its flow's reorder buffer; the flow
releases outcomes in ascending number, and a result with its turn. An item with a DELAY goes to its delay list, behind
those that are due no later. Delay lists count their ticks, and the head that is due, or that drains, goes to its ready
list and flow, or, without room, stays, recorded as a stall; a list that drains goes on until it is empty. Each action is
taken at most once in a period, in its place among them (the model's reading of R423, log entry 44). -/
def Obligations.WorkDispatch : Prop :=
  ∀ (s : State),
    let passed := fun (place : Nat) => s.withWd { s.wd with turn := place + 1 }
    let enters := fun (i : WorkItem) (t : State) =>
      let j := i.withSeq (if i.flow < 16 then (s.flowNext i.flow + s.flowOut i.flow) % 65536 else 0)
      ∀ l, t.wdList l = if l = i.list then s.wdList l ++ [(j, s.ticks)] else s.wdList l
    let placed := fun (i : WorkItem) (t : State) =>
      t.poolFree = s.poolFree - 1 ∧
      (i.delay = 0 → t.wd.delays = s.wd.delays ∧ enters i t) ∧
      (i.delay ≠ 0 → t.wd.lists = s.wd.lists ∧ (∀ k, k ≠ i.dlist → t.wdDelay k = s.wdDelay k) ∧
        let due := ((s.reg wdPg (0x410 + 0x20 * i.dlist)).toNat + i.delay) % 2 ^ 32
        ∃ front back, s.wdDelay i.dlist = front ++ back ∧
          t.wdDelay i.dlist = front ++ (due, i.withSeq 0) :: back ∧
          (∀ e ∈ front, reached32 due e.1 = true) ∧ ∀ e, back.head? = some e → reached32 due e.1 = false)
    let stays := fun (t : State) => t.wd.lists = s.wd.lists ∧ t.wd.delays = s.wd.delays
    (∀ v : BitVec 32, s.refRuns = true →
      let i : WorkItem := ⟨s.reg wdPg 0x60, s.reg wdPg 0x64, s.reg wdPg 0x68, v⟩
      (s.f wdPg 0x70 0 0 = 1 → ∃ t, exec (.post .host v) s = .next t ∧ t.reg wdPg 0x6c = s.reg wdPg 0x6c ∧
        t.f wdPg 0x10 2 2 = 1) ∧
      (s.f wdPg 0x70 0 0 = 0 → s.on wdPg = true → s.postBad i = true → ∃ t, exec (.post .host v) s = .next t ∧
        t.f wdPg 0x70 0 0 = 0 ∧ t.f wdPg 0x10 8 8 = 1 ∧ t.wd.lists = s.wd.lists) ∧
      (s.f wdPg 0x70 0 0 = 0 → s.on wdPg = true → s.postBad i = false → exec (.post .host v) s =
        .next (settle ((s.setReg wdPg 0x6c v).setF wdPg 0x70 0 0 1)))) ∧
    (∀ c (v : BitVec 32), c < 8 → s.refRuns = true → s.ccSts c 3 = false → s.on wdPg = true →
      s.postBad ⟨s.reg (ccPg c) 0xa0, s.reg (ccPg c) 0xa4, s.reg (ccPg c) 0xa8, v⟩ = false →
      exec (.post (.core c) v) s = .next (settle ((s.setReg (ccPg c) 0xac v).setCcSts c 3 true))) ∧
    (∀ p : PlaceFrom, (∀ c, p = .window (.core c) ∨ p = .slot c → c < 8) →
      let waits := fun (u : State) => match p with
        | .window w => if windowBusy u w then some (windowItem u w) else none
        | .slot c => u.resultSlot c
      (s.mayAct (placeOf p) = false → exec (.postPlace p) s = .next (settle s)) ∧
      (∀ i, s.mayAct (placeOf p) = true → waits s = some i →
        (s.postBad i = true → ∃ t, exec (.postPlace p) s = .next t ∧ waits t = none ∧ t.f wdPg 0x10 8 8 = 1 ∧
          stays t ∧ t.wd.turn = placeOf p + 1) ∧
        (s.postBad i = false → s.postRoom i = false → ∃ t, exec (.postPlace p) s = .next t ∧ waits t = some i ∧ stays t) ∧
        (s.postBad i = false → s.postRoom i = true → ∃ t, exec (.postPlace p) s = .next t ∧ waits t = none ∧
          placed i t))) ∧
    (let ready := fun l => ∃ i t rest, s.wdList l = (i, t) :: rest ∧ t < s.ticks ∧
        ∃ c, c < 8 ∧ s.listNames l c = true ∧ s.coreIdle c = true
     (s.mayAct 41 = false → exec .dispatch s = .next (settle s)) ∧
     (s.mayAct 41 = true → (∀ l, l < 64 → ¬ready l) → exec .dispatch s = .next (settle (passed 41))) ∧
     (∀ l c i t0 rest, s.mayAct 41 = true → l < 64 → ready l → s.wdList l = (i, t0) :: rest →
       (∀ m, m < 64 → ready m → s.urgency m < s.urgency l ∨ s.urgency m = s.urgency l ∧ l ≤ m) →
       c < 8 → s.listNames l c = true → s.coreIdle c = true →
       (∀ d, d < c → s.listNames l d = false ∨ s.coreIdle d = false) →
       ∃ t, exec .dispatch s = .next t ∧ t.itemAt (ccPg c) 0x90 = i ∧ t.ccSts c 1 = true ∧ t.mayAct 41 = false ∧
         ∀ m, t.wdList m = if m = l then rest else s.wdList m)) ∧
    (∀ (rq : Requester) c, s.serves rq → c < 8 →
      let i := s.itemAt (ccPg c) 0x90
      (s.ccSts c 1 = true → ∃ u, s.sameRegs u ∧ exec (.ccWdDone rq c 0) s = .next (settle u)) ∧
      (∀ v : BitVec 3, s.ccSts c 1 = false → ∃ t, exec (.ccWdDone rq c v) s = .next t ∧ t.wd = s.wd ∧
        t.f (ccPg c) 0x10 2 2 = 1) ∧
      (∀ v : BitVec 3, v.getLsbD 0 = true → s.ccSts c 1 = true → i.flow < 16 → ∃ t,
        exec (.ccWdDone rq c v) s = .next t ∧ t.ccSts c 1 = false ∧ t.itemAt (ccPg c) 0x90 = ⟨0, 0, 0, 0⟩ ∧
        t.f (ccPg c) 0x80 1 1 = (if v.getLsbD 2 then 1 else s.f (ccPg c) 0x80 1 1) ∧ t.wd.lists = s.wd.lists ∧
        Tab.get (fun _ => none) t.wd.reorder (i.flow * 65536 + i.seq) =
          some (c, if v.getLsbD 1 then some (s.itemAt (ccPg c) 0xb0) else none)) ∧
      (s.ccSts c 1 = true → 16 ≤ i.flow → ∃ t, exec (.ccWdDone rq c 1) s = .next t ∧ t.ccSts c 1 = false ∧
        t.wd.reorder = s.wd.reorder ∧ t.wd.slots = s.wd.slots ∧ t.wd.lists = s.wd.lists) ∧
      (s.ccSts c 1 = true → 16 ≤ i.flow → s.on wdPg = false ∨ s.postBad (s.itemAt (ccPg c) 0xb0) = false →
        ∃ t, exec (.ccWdDone rq c 3) s = .next t ∧ t.ccSts c 1 = false ∧ t.wd.reorder = s.wd.reorder ∧
        t.wd.lists = s.wd.lists ∧ t.resultSlot c = some (s.itemAt (ccPg c) 0xb0) ∧ t.ccSts c 2 = true) ∧
      (s.ccSts c 1 = true → 16 ≤ i.flow → s.on wdPg = true → s.postBad (s.itemAt (ccPg c) 0xb0) = true →
        ∃ t, exec (.ccWdDone rq c 3) s = .next t ∧ t.ccSts c 1 = false ∧ t.f wdPg 0x10 8 8 = 1 ∧
        t.wd.slots = s.wd.slots ∧ t.wd.lists = s.wd.lists)) ∧
    (∀ f, f < 16 →
      let n := s.flowNext f
      (s.mayAct (8 + f) = false → exec (.flowRelease f) s = .next (settle s)) ∧
      (s.mayAct (8 + f) = true → Tab.get (fun _ => none) s.wd.reorder (f * 65536 + n) = none →
        exec (.flowRelease f) s = .next (settle (passed (8 + f)))) ∧
      (∀ c, s.mayAct (8 + f) = true → Tab.get (fun _ => none) s.wd.reorder (f * 65536 + n) = some (c, none) →
        ∃ t, exec (.flowRelease f) s = .next t ∧ t.flowNext f = (n + 1) % 65536 ∧ t.flowOut f = s.flowOut f - 1 ∧
          Tab.get (fun _ => none) t.wd.reorder (f * 65536 + n) = none ∧ t.wd.lists = s.wd.lists) ∧
      (∀ c i, s.mayAct (8 + f) = true → Tab.get (fun _ => none) s.wd.reorder (f * 65536 + n) = some (c, some i) →
        let goesOn := fun (t : State) => t.flowNext f = (n + 1) % 65536 ∧
          Tab.get (fun _ => none) t.wd.reorder (f * 65536 + n) = none
        (s.postBad i = true → ∃ t, exec (.flowRelease f) s = .next t ∧ goesOn t ∧ t.flowOut f = s.flowOut f - 1 ∧
          t.f wdPg 0x10 8 8 = 1 ∧ stays t) ∧
        (s.postBad i = false → s.postRoom i = false → ∃ t, exec (.flowRelease f) s = .next t ∧ t.flowNext f = n ∧
          t.wd.reorder = s.wd.reorder ∧ stays t ∧ (s.wd.waits.contains (16 + f) = false → t.f wdPg 0x10 12 12 = 1)) ∧
        (s.postBad i = false → s.postRoom i = true → ∃ t, exec (.flowRelease f) s = .next t ∧ goesOn t ∧ placed i t ∧
          t.flowOut f = if i.delay = 0 ∧ i.flow = f then s.flowOut f else s.flowOut f - 1))) ∧
    (∀ k, k < 4 →
      let o := 0x400 + 0x20 * k
      let gk := s.f wdPg o 3 0
      let due := s.gauOn gk && reached64 (s.gval gk) (s.nextX k)
      let now := if due then s.reg wdPg (o + 0x10) + 1 else s.reg wdPg (o + 0x10)
      let counts := fun (t : State) => t.reg wdPg (o + 0x10) = now ∧ t.mayAct (2 * k) = false ∧
        t.nextX k = if due then (s.nextX k + s.reg64 wdPg (o + 8)) % 2 ^ 64 else s.nextX k
      let room := fun (i : WorkItem) => s.poolFree ≠ 0 ∧ s.listFull i.list = false ∧ (i.flow < 16 → s.flowOut i.flow < 64)
      let stalls := fun (t : State) => stays t ∧ (s.wd.waits.contains (32 + k) = false → t.f wdPg 0x10 10 10 = 1)
      (s.mayAct (2 * k) = false → exec (.delayTick k) s = .next (settle s)) ∧
      (s.mayAct (2 * k) = true → s.dlyEn k = false → exec (.delayTick k) s = .next (settle (passed (2 * k)))) ∧
      (s.mayAct (2 * k) = true → s.dlyEn k = true → s.wdDelay k = [] →
        ∃ t, exec (.delayTick k) s = .next t ∧ counts t ∧ stays t) ∧
      (∀ at_ i rest, s.mayAct (2 * k) = true → s.dlyEn k = true → s.wdDelay k = (at_, i) :: rest →
        let expires := s.draining k = false ∧ reached32 now.toNat at_ = true
        (expires → room i → ∃ t, exec (.delayTick k) s = .next t ∧ counts t ∧ t.wdDelay k = rest ∧ enters i t) ∧
        (expires → ¬room i → ∃ t, exec (.delayTick k) s = .next t ∧ counts t ∧ stalls t) ∧
        (¬expires → ∃ t, exec (.delayTick k) s = .next t ∧ counts t ∧ stays t)) ∧
      (∀ at_ i rest, s.mayAct (2 * k + 1) = true → s.draining k = true → s.wdDelay k = (at_, i) :: rest →
        (room i → ∃ t, exec (.delayListDrain k) s = .next t ∧ t.wdDelay k = rest ∧ (rest = [] → t.draining k = false) ∧
          enters i t) ∧
        (¬room i → ∃ t, exec (.delayListDrain k) s = .next t ∧ stalls t)) ∧
      (s.mayAct (2 * k + 1) = false ∨ s.draining k = false → exec (.delayListDrain k) s = .next (settle s)) ∧
      (s.mayAct (2 * k + 1) = true → s.draining k = true → s.wdDelay k = [] →
        exec (.delayListDrain k) s = .next (settle (passed (2 * k + 1)))) ∧
      (∀ (rq : Requester) (g : BitVec 4), s.serves rq →
        (s.reg64 wdPg (0x408 + 0x20 * k) ≠ 0 → ∃ t, exec (.delayListEnable rq k true g) s = .next t ∧ t.dlyEn k = true ∧
          t.f wdPg o 3 0 = g.toNat ∧ t.draining k = s.draining k ∧ t.reg wdPg (0x410 + 0x20 * k) = 0 ∧
          t.nextX k = (s.gval g.toNat + s.reg64 wdPg (0x408 + 0x20 * k)) % 2 ^ 64) ∧
        (s.reg64 wdPg (0x408 + 0x20 * k) = 0 → ∃ t, exec (.delayListEnable rq k true g) s = .next t ∧
          t.dlyEn k = s.dlyEn k ∧ t.reg wdPg (0x410 + 0x20 * k) = s.reg wdPg (0x410 + 0x20 * k) ∧ t.wd = s.wd ∧
          t.f wdPg 0x10 2 2 = 1) ∧
        (∃ t, exec (.delayListEnable rq k false g) s = .next t ∧ t.dlyEn k = false ∧
          t.draining k = (s.draining k || !(s.wdDelay k).isEmpty)))) ∧
    (∀ l, ∃ t, exec (.listHeadAging l) s = .next t ∧ t.wd.lists = s.wd.lists ∧ t.wd.delays = s.wd.delays ∧
      (s.on wdPg = true → s.wd.preempt ≠ 0 ∨ s.wd.lists ≠ [] → ∀ c, c < 8 →
        (t.wd.preempt.getLsbD c = true ↔ ∃ m, m < 64 ∧ s.preemptBy m = some c)))

/-! ### The ring network and the target pins (R431-R468) -/

/-- Requests on the ring (R411, R412, R433-R437, R54, R56): the oldest that waits at its source for its node is performed
there and gets its answer, or is lost to a parity error, recorded on the ring where it was met; any other stays. A
response goes by the answering node's own route; it completes the access at its core and frees the buffer, is lost to a
parity error, or is discarded in quarantine; a timeout is STATUS 4 and puts the buffer in quarantine. Request and answer
have each their own urgency, which rises by one to 7, where the ring records it. The model's choices: an answer from an
SRAM carries the error class of its word (log entry 36); the boot ROM is read at node 8 (log entry 35); a row for a buffer
of the host interface, the loader, the dispatcher or the trace and capture units tells what the next access that takes the
buffer will meet (log entry 36). Shown with the core's trace unit off. -/
def Obligations.RingRequests : Prop :=
  ∀ (s : State) (src tag : Nat), src < 8 →
    let k := s.core src
    let put := fun (u : State) (a : RingStage) => u.setRequest src tag (fun q => { q with stage := a })
    let flitErr := fun (t : State) (a b hub ring : Nat) => t.f (ringPg (if crosses a b hub ring then ring else hub)) 0x10 8 8 = 1
    (s.request src tag = none → ∀ fault answer ring stop,
      exec (.read src tag fault) s = .next (settle s) ∧ exec (.write src tag fault) s = .next (settle s) ∧
      exec (.bcastWrite src tag fault) s = .next (settle s) ∧ exec (.bcastRead src tag fault) s = .next (settle s) ∧
      exec (.amo src tag fault) s = .next (settle s) ∧ exec (.rspData src ⟨tag, fault⟩) s = .next (settle s) ∧
      exec (.rspAck src ⟨tag, fault⟩) s = .next (settle s) ∧ exec (.rspErr src ⟨tag, fault⟩) s = .next (settle s) ∧
      exec (.ringTimeout src tag) s = .next (settle s) ∧ exec (.bufferQuarantineEnd src tag) s = .next (settle s) ∧
      exec (.urgencyRise src ⟨tag, answer⟩ ring stop) s = .next (settle s)) ∧
    (∀ r, s.request src tag = some r →
      let at_ := bar0At r.addr
      (r.stage = .sent → s.isOldest r = true → s.ringsOn r = true →
        (∀ ring stop, r.op = 1 → ∃ t, exec (.read src tag (.parity ring stop)) s = .next t ∧
          t.request src tag = some { r with stage := .lost } ∧ flitErr t r.src r.dst r.ring ring) ∧
        (r.op = 1 → r.dst < 8 → let w := s.sramWord r.dst r.addr
          exec (.read src tag .none) s = .next (settle (put s (.answered 0 0 w.2
            (if w.2 = .uncorrectable then [] else bytesLE r.bytes (wordBytes w.1 r.addr r.bytes)))))) ∧
        (r.op = 1 → r.dst = 8 → r.addr < 0x400000 → let w := s.sharedWord r.addr
          exec (.read src tag .none) s = .next (settle (put s (.answered 0 0 w.2
            (if w.2 = .uncorrectable then [] else bytesLE r.bytes (wordBytes w.1 r.addr r.bytes)))))) ∧
        (r.op = 1 → r.dst = 8 → 0x400000 ≤ r.addr → ∃ bs, bs.length = r.bytes ∧
          (∀ i, i < r.bytes → bs.getD i 0 = (Config.bootRom (r.addr - 0x20000000 + i)).toNat) ∧
          exec (.read src tag .none) s = .next (settle (put s (.answered 0 0 .clean bs)))) ∧
        (r.op = 1 → r.dst = 12 ∨ r.dst = 13 →
          let v := vnrRead s (.core r.src) r.addr r.bytes
          exec (.read src tag .none) s = .next (settle (put v.2.2
            (if v.1 = 0 then .answered 0 0 .clean v.2.1 else .answered 1 v.1 .clean [])))) ∧
        (∀ p off, r.op = 1 → 13 < r.dst → at_ = .page p off →
          let v := readBy s r.rq p (off / 4 * 4)
          exec (.read src tag .none) s = .next (settle (put v.2
            (.answered 0 0 .clean (bytesLE r.bytes (wordBytes v.1 off r.bytes)))))) ∧
        (r.op = 2 → r.dst = 8 → r.bytes = 4 → r.addr % 4 = 0 → ∃ t, exec (.write src tag .none) s = .next t ∧
          t.request src tag = some { r with stage := .answered 0 0 .clean [] } ∧ t.regs = s.regs ∧
          ∀ i, Tab.get (zeroAt 32) t.shared i =
            if i = r.addr / 4 then BitVec.ofNat 32 (numLE r.data) else Tab.get (zeroAt 32) s.shared i) ∧
        (∀ p off, r.op = 2 → 13 < r.dst → at_ = .page p off → exec (.write src tag .none) s = .next (settle (put
          (writeReg s r.rq p off (accessBe off r.bytes) (accessWord off (numLE r.data)) r.machine)
          (.answered 0 0 .clean [])))) ∧
        (∀ code off, r.op = 3 → at_ = .bcast code off → exec (.bcastWrite src tag .none) s = .next (settle (put
          (writeAll s r.rq code off (accessBe off r.bytes) (accessWord off (numLE r.data)) r.machine)
          (.answered 0 0 .clean [])))) ∧
        (∀ code off, r.op = 4 → at_ = .bcast code off → exec (.bcastRead src tag .none) s = .next (settle (put s
          (.answered 0 0 .clean (bytesLE r.bytes (wordBytes (s.readAll r.rq code (off / 4 * 4)) off r.bytes)))))) ∧
        (r.op = 5 → r.amo = 0 → r.addr % 4 = 0 → s.sharedWord r.addr = ((s.sharedWord r.addr).1, .clean) →
          let w := (s.sharedWord r.addr).1
          ∃ t, exec (.amo src tag .none) s = .next t ∧
            t.request src tag = some { r with stage := .answered 0 0 .clean (bytesLE 4 (wordBytes w r.addr 4)) } ∧
            ∀ i, Tab.get (zeroAt 32) t.shared i =
              if i = r.addr / 4 then w + BitVec.ofNat 32 (numLE r.data) else Tab.get (zeroAt 32) s.shared i)) ∧
      (∀ status cls e data ring, r.stage = .answered status cls e data → s.refRuns = true → s.route r.dst src = some ring →
        (r.quar = false → r.live = true → s.tracing src = false →
          (∀ rd n signed a len, status = 0 → e ≠ .uncorrectable → r.op = 1 → k.wait = some (.load rd n signed a len) →
            ∃ t, exec (.rspData src ⟨tag, .none⟩) s = .next t ∧ t.request src tag = none ∧ t.core src =
              { (k.put rd (loadValue n signed (numLE data))).retire (k.pc + BitVec.ofNat 32 len) with wait := none }) ∧
          (∀ a, status = 0 → e ≠ .uncorrectable → r.op = 1 → k.wait = some (.fetch a) →
            ∃ t, exec (.rspData src ⟨tag, .none⟩) s = .next t ∧ t.request src tag = none ∧ t.core src =
              { k with wait := none, fetched := (a / 4, BitVec.ofNat 32 (numLE data)) :: k.fetched }) ∧
          (status = 0 → e = .clean → r.op = 2 → exec (.rspAck src ⟨tag, .none⟩) s =
            .next (settle ((countFlits s r.dst src ring (flitsOf data.length)).dropRequest src tag))) ∧
          (∀ rd n signed a len, status = 1 ∨ status = 3 ∨ status = 0 ∧ e = .uncorrectable → r.op = 1 →
            k.wait = some (.load rd n signed a len) →
            ∃ t, exec (.rspErr src ⟨tag, .none⟩) s = .next t ∧ t.request src tag = none ∧ (t.core src).mcause = 5 ∧
              (t.core src).mtval = BitVec.ofNat 32 a ∧ (t.core src).mepc = k.pc &&& ~~~1 ∧ (t.core src).wait = none ∧
              (status ≠ 0 → t.f (ccPg src) 0x10 8 8 = 1) ∧ (status = 0 → t.f (ccPg src) 0x10 11 11 = 1))) ∧
        (∀ rg stop, status = 0 → e ≠ .uncorrectable → r.op = 1 →
          ∃ t, exec (.rspData src ⟨tag, .parity rg stop⟩) s = .next t ∧ t.cores = s.cores ∧
            t.request src tag = some { r with stage := .lost } ∧ flitErr t r.dst src ring rg) ∧
        (r.quar = true → status = 0 → e ≠ .uncorrectable → r.op = 2 ∨ r.op = 3 →
          ∃ t, exec (.rspAck src ⟨tag, .none⟩) s = .next t ∧ t.cores = s.cores ∧
            t.request src tag = some { r with stage := .lost } ∧ t.f (ringPg r.ring) 0x10 12 12 = 1)) ∧
      (r.quar = true → exec (.ringTimeout src tag) s = .next (settle s) ∧
        exec (.bufferQuarantineEnd src tag) s = .next (settle (s.dropRequest src tag))) ∧
      (r.quar = false → exec (.bufferQuarantineEnd src tag) s = .next (settle s)) ∧
      (r.quar = false → s.refRuns = true → r.op = 1 → ∃ t, exec (.ringTimeout src tag) s = .next t ∧
        t.request src tag = some { r with quar := true, live := false } ∧ t.f (ringPg r.ring) 0x10 9 9 = 1 ∧
        (r.live = true → r.src = src → t.f (ccPg src) 0x10 9 9 = 1 ∧ (k.wait ≠ none → (t.core src).wait = none))) ∧
      (∀ answer ring stop, ring < 6 → r.stage ≠ .lost →
        let n := r.urgency answer
        let rises := exec (.urgencyRise src ⟨tag, answer⟩ ring stop) s
        (n < 6 → rises = .next (settle (s.setRequest src tag (RingReq.rises answer)))) ∧
        (n < 7 → ∃ t, rises = .next t ∧ (n = 6 → t.f (ringPg ring) 0x10 11 11 = 1) ∧
          t.request src tag = some (if r.atAnswer answer then { r with backUrg := n + 1 } else { r with urg := n + 1 })) ∧
        (7 ≤ n → rises = .next (settle s)))) ∧
    (∀ n ring stop, n = 9 ∨ n = 10 ∨ n = 11 ∨ n = 15 → tag < 32 → s.request n tag = none →
      let next := fun (op urg back : Nat) (o b : RingFault) (late : Bool) => s.withNet (s.net ++
        [⟨n, tag, op, 64, 0, 0, [], 0, .host, true, 0, urg, 0, false, false, .ahead o b late, back⟩])
      let told := fun (op : Nat) => next op 0 0
      let lost := RingFault.parity ring stop
      exec (.read n tag .none) s = .next (settle s) ∧
      exec (.read n tag lost) s = .next (settle (told 1 lost .none false)) ∧
      exec (.write n tag lost) s = .next (settle (told 2 lost .none false)) ∧
      exec (.rspAck n ⟨tag, lost⟩) s = .next (settle (told 0 .none lost false)) ∧
      exec (.ringTimeout n tag) s = .next (settle (told 0 .none .none true)) ∧
      ∀ r, r < 6 →
        exec (.urgencyRise n ⟨tag, false⟩ r stop) s = .next (settle (next 0 1 0 .none .none false)) ∧
        exec (.urgencyRise n ⟨tag, true⟩ r stop) s = .next (settle (next 0 0 1 .none .none false))) ∧
    (∀ dst, let held := ∃ r, r ∈ s.outstanding src ∧ r.dst = dst
      (held → exec (.routeTableUpdate src dst) s = .next (settle s)) ∧
      (¬held → ∃ t, exec (.routeTableUpdate src dst) s = .next t ∧ t.regs = s.regs ∧
        t.routeEntry src dst = s.routeWritten src dst))

/-- Setting pins up (R442-R444, R455, R461, R463): VSEL while the bank is off and no pin of it is locked, a pin's PIN_CFG
half where FUNC and SEL are permitted and the pin is not locked, in force at once while the CYC_ page is not ON and at the
next step 0 while it is; the times of Gauge timing while CYC_ is OFF; and the pin lock by its key, which serves once, in
its own period of the reference clock and 64 more, or until LOCK_KEY_EXPIRY says that they have passed (the model's
choice, log entry 45). -/
def Obligations.PinSetUp : Prop :=
  ∀ (s : State) (rq : Requester) (p : Nat), s.serves rq → p < 12 →
    let g := portPg p
    (∀ v : BitVec 2, s.locked g = false →
      (s.st g = stOff → s.reg g 0xfc = 0 → ∃ t, exec (.pinBankVsel rq p v) s = .next (settle t) ∧
        s.regsBut t [regKey g 0x40] ∧ t.f g 0x40 1 0 = v.toNat) ∧
      (s.st g ≠ stOff ∨ s.reg g 0xfc ≠ 0 → s.f g 0x40 1 0 ≠ v.toNat → ∃ t, exec (.pinBankVsel rq p v) s = .next t ∧
        t.f g 0x40 1 0 = s.f g 0x40 1 0 ∧ t.f g 0x10 8 8 = 1)) ∧
    (∀ (n : BitVec 5) (half : BitVec 16), s.locked g = false → half.toNat < 2048 →
      let pin := 32 * p + n.toNat
      (s.f g 0xfc n.toNat n.toNat = 0 → fnOk half.toNat = true → ∃ t, exec (.pinCfgWrite rq p n half) s = .next t ∧
        t.pinHalf pin % 2048 = half.toNat ∧
        (s.on cycPg = false → half.toNat % 256 ≠ s.pinHalf pin % 256 ∨ s.pinFn pin = s.pinHalf pin % 256 →
          t.pinFn pin = half.toNat % 256) ∧ (s.on cycPg = true → t.pinFn pin = s.pinFn pin)) ∧
      (s.f g 0xfc n.toNat n.toNat = 0 → fnOk half.toNat = false → ∃ t, exec (.pinCfgWrite rq p n half) s = .next t ∧
        t.pinHalf pin = s.pinHalf pin ∧ t.f g 0x10 8 8 = 1) ∧
      (s.f g 0xfc n.toNat n.toNat = 1 → ∃ t, exec (.pinCfgWrite rq p n half) s = .next t ∧
        t.pinHalf pin = s.pinHalf pin)) ∧
    (∀ (n : BitVec 2) (hi : BitVec 32),
      let off := 0x100 + 8 * n.toNat
      let v := hi.toNat * 2 ^ 32 + (s.heldLow g off).toNat
      (s.cycOff = true → n.toNat % 2 = 1 → 0x50000 ≤ v → ∃ t, exec (.pinTimeWrite rq p n hi) s = .next t ∧
        t.reg64 g off = v) ∧
      (s.cycOff = true → n.toNat % 2 = 0 → ∃ t, exec (.pinTimeWrite rq p n hi) s = .next t ∧ t.reg64 g off = v) ∧
      (s.cycOff = true → n.toNat % 2 = 1 → v < 0x50000 → ∃ t, exec (.pinTimeWrite rq p n hi) s = .next t ∧
        t.reg64 g off = s.reg64 g off ∧ t.f g 0x10 8 8 = 1) ∧
      (s.cycOff = false → v ≠ s.reg64 g off → ∃ t, exec (.pinTimeWrite rq p n hi) s = .next t ∧
        t.reg64 g off = s.reg64 g off ∧ t.f g 0x10 8 8 = 1)) ∧
    (∀ v : BitVec 32, ∃ u, s.sameRegs u ∧ exec (.pinLockKey rq p v) s = .next (settle
      (if v = 0x4c4b then
        u.withPins { u.pins with keys := Tab.set (zeroAt 7) u.pins.keys (keyNum rq p) 65 } else u))) ∧
    (let left := fun (u : State) i => (Tab.get (zeroAt 7) u.pins.keys i).toNat
     (∀ m : BitVec 32,
       (0 < left s (keyNum rq p) → ∃ t, exec (.pinLock rq p m) s = .next t ∧
         t.reg g 0xfc = s.reg g 0xfc ||| m ∧ left t (keyNum rq p) = 0) ∧
       (left s (keyNum rq p) = 0 → ∃ t, exec (.pinLock rq p m) s = .next t ∧
         t.reg g 0xfc = s.reg g 0xfc ∧ t.f g 0x10 2 2 = 1)) ∧
     (∀ l : TargetLevels, ∃ t, exec (.referenceTick l) s = .next t ∧
       left t (keyNum rq p) = left s (keyNum rq p) - 1) ∧
     ∃ t, exec (.lockKeyExpiry rq p) s = .next t ∧ t.regs = s.regs ∧
       ∀ i, left t i = if i = keyNum rq p then 0 else left s i)

/-- What the pins do (R445, R450-R454, R456, R458, R459, R465). The balls are sampled for the next cycle where it is due,
or at a sample instant; the outputs of Gauge timing leave at a drive instant; a GPIO write drives its pins; the UART takes
bytes, shows each bit by bit on its line, and receives and drops bytes; the I2C controller takes a command, shows it on
its lines quarter by quarter as the I2C-bus specification has them (presumed, log entry 30), and ends it; an enabled wake
pin wakes. -/
def Obligations.PinActivity : Prop :=
  ∀ (s : State) (p : Nat), p < 12 →
    let g := portPg p
    let x := s.port p
    (∀ l : TargetLevels,
      (s.cyc.phase = .confirmed → s.cyc.outcome = 0 → s.step ≤ s.cStep → sampleStep s = some s) ∧
      (sampleStep s = none → exec (.pinSample l) s = .next (settle s)) ∧
      (∀ u, sampleStep s = some u → ∃ t, exec (.pinSample l) s = .next t ∧ t.pins.ball = ballLevels u l ∧
        (u.f g 0xf0 0 0 = 0 ∨ u.on g = false → (t.port p).staged = some (portBits (ballLevels u l) p) ∧
          (t.port p).capNew = false ∧ t.f g 0xf4 2 2 = 0) ∧
        (u.f g 0xf0 0 0 = 1 → u.on g = true → (u.port p).capNew = true → (t.port p).staged = some (u.port p).cap ∧
          (t.port p).capNew = false ∧ t.f g 0xf4 2 2 = 0) ∧
        (u.f g 0xf0 0 0 = 1 → u.on g = true → (u.port p).capNew = false → (t.port p).staged = some (u.reg g 0xec) ∧
          t.f g 0xf4 2 2 = 1 ∧ t.f g 0x10 9 9 = 1)) ∧
      (let due := s.on g = true ∧ s.f g 0xf0 0 0 = 1 ∧ reached64 (s.portG p) (s.reg64 g 0x100) = true
       (¬due → exec (.sampleInstant p l) s = .next (settle s)) ∧
       (due → ∃ t, exec (.sampleInstant p l) s = .next t ∧ (t.port p).cap = portBits (ballLevels s l) p ∧
         (t.port p).capNew = true ∧
         t.reg64 g 0x100 = advanceTime (s.portG p) (s.reg64 g 0x100) (s.reg64 g 0x108)))) ∧
    (let due := s.on g = true ∧ s.f g 0xf0 1 1 = 1 ∧ reached64 (s.portG p) (s.reg64 g 0x110) = true
     (¬due → exec (.driveInstant p) s = .next (settle s)) ∧
     (due → ∃ t, exec (.driveInstant p) s = .next (settle t) ∧ (t.port p).pend = none ∧
       t.reg64 g 0x110 = advanceTime (s.portG p) (s.reg64 g 0x110) (s.reg64 g 0x118) ∧
       (x.pend = none → t.pins.late = s.pins.late) ∧
       ∀ d e, x.pend = some (d, e) → t.pins.late = s.pins.late ++
         (s.designPins p).map (fun pin => ⟨4, pin, padOf (d.getLsbD (pin % 32)) (e.getLsbD (pin % 32)), false⟩))) ∧
    (∀ (rq : Requester), s.serves rq →
      (∀ (oe : Bool) (v : BitVec 32), ∃ t, exec (.gpioWrite rq p oe 15 v) s = .next (settle t) ∧
        t.reg g (if oe then 0xe4 else 0xe0) = v ∧ t.reg g (if oe then 0xe0 else 0xe4) = s.reg g (if oe then 0xe0 else 0xe4) ∧
        ∀ pin, pin ∈ s.fnPins p 2 → s.on g = true → s.extest = false →
          t.pad pin = padOf ((t.reg g 0xe0).getLsbD (pin % 32)) ((t.reg g 0xe4).getLsbD (pin % 32))) ∧
      (∀ b : BitVec 8, (x.tx.length < 16 → ∃ t, exec (.uartTxWrite rq p b) s = .next t ∧
          t.port p = if x.tx = [] ∧ s.uartEn p = true then { x with tx := [b], txTick := some 0, txLine := false }
            else { x with tx := x.tx ++ [b] }) ∧
        (16 ≤ x.tx.length → ∃ t, exec (.uartTxWrite rq p b) s = .next t ∧ t.port p = x ∧ t.f g 0x10 11 11 = 1)) ∧
      (∃ t, exec (.uartPop rq p) s = .next t ∧ t.port p = { x with rx := x.rx.drop 1 }) ∧
      (∀ v : BitVec 13, v.toNat / 256 ≠ 0 →
        (x.i2c ≠ none → ∃ t, exec (.i2cCmd rq p v) s = .next t ∧ t.port p = x ∧ t.f g 0x10 2 2 = 1) ∧
        (x.i2c = none → s.on g = true → s.f g 0x88 16 16 = 1 → ∃ t, exec (.i2cCmd rq p v) s = .next (settle t) ∧
          t.port p = { x with i2c := some v, wave := i2cWave v x.lines, waveTick := 0,
                              lines := (i2cWave v x.lines).headD x.lines } ∧ t.f g 0xd4 10 8 = 1 ∧ t.out = .i2cCommand p v :: s.out) ∧
        (x.i2c = none → s.on g = false ∨ s.f g 0x88 16 16 = 0 → ∃ u, s.sameRegs u ∧
          exec (.i2cCmd rq p v) s = .next (settle u)))) ∧
    (∀ (b : BitVec 8) (parity stop : Bool),
      let takes := s.uartEn p = true ∧ s.fnPins p 6 ≠ []
      let cfg := s.reg g 0x84
      let perr := cfg.getLsbD 16 && parity != xor (byteParity b) (cfg.getLsbD 17)
      (¬takes → exec (.uartRxByte p b parity stop) s = .next (settle s)) ∧
      (takes → 16 ≤ x.rx.length → ∃ t, exec (.uartRxByte p b parity stop) s = .next t ∧ t.port p = x ∧
        t.f g 0x10 11 11 = 1) ∧
      (takes → x.rx.length < 16 → ∃ t, exec (.uartRxByte p b parity stop) s = .next t ∧
        t.port p = { x with rx := x.rx ++ [BitVec.ofNat 11 (b.toNat + 2 ^ 8 + bit perr * 2 ^ 9 + bit (!stop) * 2 ^ 10)] } ∧
        (perr = true ∨ stop = false → t.f g 0x10 12 12 = 1))) ∧
    (∀ (l : TargetLevels) b rest n, s.refRuns = true → s.uartEn p = true → x.tx = b :: rest → x.txTick = some n →
      let cfg := s.reg g 0x84
      n < (uartBits cfg b).length * uartTime cfg → ∃ t, exec (.referenceTick l) s = .next t ∧ (t.port p).tx = x.tx ∧
        (t.port p).txTick = some (n + 1) ∧ (t.port p).txLine = ((uartBits cfg b)[(n + 1) / uartTime cfg]?).getD true) ∧
    (∀ (l : TargetLevels) a b rest, s.refRuns = true → x.wave = a :: b :: rest → ∃ t, exec (.referenceTick l) s = .next t ∧
      (t.port p).i2c = x.i2c ∧
      (x.waveTick < s.f g 0x88 9 0 → (t.port p).wave = x.wave ∧ (t.port p).lines = x.lines) ∧
      (s.f g 0x88 9 0 ≤ x.waveTick → (t.port p).wave = b :: rest ∧ (t.port p).lines = b)) ∧
    (s.uartEn p = false ∨ s.uartSent p = false → exec (.uartByteSent p) s = .next (settle s)) ∧
    (∀ b rest, s.uartEn p = true → s.uartSent p = true → x.tx = b :: rest → ∃ t,
      exec (.uartByteSent p) s = .next (settle t) ∧
      t.port p = { x with tx := rest, txTick := (if rest = [] then none else some 0), txLine := rest.isEmpty } ∧ t.out = .uartByte p b :: s.out) ∧
    (∀ (ack lost : Bool) (d : BitVec 8),
      (x.i2c = none → exec (.i2cCommandEnd p ack lost d) s = .next (settle s)) ∧
      (∀ v, x.i2c = some v → s.i2cEnds p v ack lost = false → exec (.i2cCommandEnd p ack lost d) s = .next (settle s)) ∧
      (∀ v, x.i2c = some v → s.i2cEnds p v ack lost = true → ∃ t, exec (.i2cCommandEnd p ack lost d) s = .next t ∧
        t.port p = { x with i2c := none, wave := [],
                            lines := if lost || (v.getLsbD 10 && !ack) || v.getLsbD 9 then 3 else x.lines } ∧
        t.f g 0xd4 8 8 = 0 ∧ (lost = true → t.f g 0xd4 10 10 = 1 ∧ t.f g 0x10 13 13 = 1) ∧
        (lost = false → v.getLsbD 10 = true → ack = false → t.f g 0xd4 9 9 = 1 ∧ t.f g 0x10 13 13 = 1) ∧
        (lost = false → v.getLsbD 10 = false ∨ ack = true → v.getLsbD 11 = true → t.f g 0xd4 7 0 = d.toNat))) ∧
    (∀ k, k < 8 → s.pwr.off = false → s.pwr.starting = false → s.pwr.target = none →
      let e := s.reg (pg .edl) (0x50 + 4 * k)
      (e.getLsbD 15 = false → exec (.wakePin k) s = .next (settle s)) ∧
      (e.getLsbD 15 = true → s.f pwrPg 0x44 2 0 = 1 → exec (.wakePin k) s =
        .next (settle (raise s (pg .edl) 9 (fld e.toNat 8 0)))) ∧
      (e.getLsbD 15 = true → s.f pwrPg 0x44 2 0 = 2 → s.f pwrPg 0x50 0 0 = 1 → ∃ t, exec (.wakePin k) s = .next t ∧
        t.f pwrPg 0x44 15 12 = 1 ∧ t.f pwrPg 0x44 3 3 = 1 ∧ t.pwr.target = some 1))

/-! ### The host link, and power and thermal supervision (R469-R511) -/

/-- The host link (R31, R469-R471, R473-R478, R481-R487, R496, R514, R515). A request that reaches its node reads or
writes as it says, and is answered Unsupported Request or Completer Abort as the rules say where it does not, or where the
ring loses it, with AER's status of it, as of what befalls it on the link; what the function sends has an ECRC where that
is generated. BAR2 goes through Veneer line by line; a request without a free response buffer waits, with what it has
still to do. In Retain and Dormant the always-on domain alone answers. A configuration request reads and writes
configuration space, or is to be retried. The resets of the link empty the MSI-X table and clear the host alarm, and
report LINK_RST at their end. A vector event is a message where it may be sent, else a PBA bit; HST_REARM makes one of a
condition that holds, or that comes back within the period. Where configuration space has its registers, and the MSI-X
masks and Memory Space Enable in it, is presumed (log entry 37); that a request, its performance and its answer fall in
one command, with their flits, and that it ends at a parity fault, is the model's choice (log entry 36). Where a state is
given whole, no ASPM L1 is enabled, or the device sleeps or starts up. -/
def Obligations.HostLink : Prop :=
  ∀ (s : State), s.pwr.off = false →
    let closed := s.hst.flr = true ∨ s.hst.linkReset = true
    let l0 := s.aspmL1 = false ∨ 3 ≤ s.pst ∨ s.pwr.starting = true
    let d0 := s.inD0 = true ∧ s.memSpace = true
    let open_ := ¬closed ∧ s.refRuns = true ∧ d0
    let sends := s.hst.waits = [] ∧ s.bufferFree 9 = true
    let logged := fun (t : State) (reg bit : Nat) => (t.cfg reg).getLsbD bit = true
    let quiet := fun (t : State) => t = ((s.withHst t.hst).withOut t.out).withFree t.free
    let stateAfter := fun t : State => if s.st hstPg = stOff ∧ t.en hstPg = true ∧ s.en hstPg = false then stStarting
      else if s.st hstPg = stOn ∧ t.en hstPg = false ∧ s.en hstPg = true then stStopping else s.st hstPg
    (l0 → closed → ∀ op addr len data span d tlp, exec (.bar0Request op addr len data) s = .next (settle s) ∧
      exec (.bar2Read addr span) s = .next (settle s) ∧ exec (.bar2Write addr d tlp) s = .next (settle s)) ∧
    (l0 → ¬closed → ¬d0 → s.refRuns = true → ∀ out back addr len data poisoned,
      let trip : HostTrip := ⟨out, back, .none⟩
      let reads := fun (o : Host.Outcome State Fault Refusal) => ∃ t, o = .next (settle t) ∧ quiet t ∧
        s.tlp (.completion 1 []) ∈ t.out ∧ logged t cfgDev 19 ∧
        ((s.cfg aerSeverity).getLsbD 20 = false → logged t aerCorStatus 13) ∧
        ((s.cfg aerSeverity).getLsbD 20 = true → logged t aerStatus 20)
      reads (exec (.bar0Request ⟨false, poisoned, trip⟩ addr len data) s) ∧
      (len ≤ 4096 → reads (exec (.bar2Read addr ⟨len, trip⟩) s)) ∧
      ∃ t, exec (.bar0Request ⟨true, poisoned, trip⟩ addr len data) s = .next (settle t) ∧ quiet t ∧ logged t aerStatus 20) ∧
    (l0 → ¬closed → ∀ trip addr len d poisoned wr data,
      let drops := fun (o : Host.Outcome State Fault Refusal) (b : Nat) => ∃ t, o = .next (settle t) ∧ quiet t ∧ logged t aerStatus b
      (4096 < len → drops (exec (.bar2Read addr ⟨len, trip⟩) s) 18) ∧
      (s.maxPayload < d.length → drops (exec (.bar2Write addr d ⟨poisoned, trip⟩) s) 18) ∧
      (d.length ≤ s.maxPayload → trip.link = .ecrc → s.ecrcChecks = true →
        drops (exec (.bar2Write addr d ⟨poisoned, trip⟩) s) 19) ∧
      (trip.link = .dlProtocol → drops (exec (.bar0Request ⟨wr, poisoned, trip⟩ addr len data) s) 4 ∧
        (len ≤ 4096 → drops (exec (.bar2Read addr ⟨len, trip⟩) s) 4) ∧
        (d.length ≤ s.maxPayload → drops (exec (.bar2Write addr d ⟨poisoned, trip⟩) s) 4)) ∧
      (open_ → trip.link = .none →
        ∃ t, exec (.bar0Request ⟨true, true, trip⟩ addr len data) s = .next (settle t) ∧ quiet t ∧
          .poisonedTlp ∈ t.out ∧ logged t aerStatus 12)) ∧
    (open_ → ∀ addr len trip b, len ≤ 4096 → (trip.link, b) ∈ [(TlpFault.receiver, 0), (TlpFault.badTlp, 6),
        (TlpFault.badDllp, 7), (TlpFault.replayRollover, 8), (TlpFault.replayTimeout, 12)] →
      ∃ t, exec (.bar2Read addr ⟨len, trip⟩) s = .next t ∧ logged t aerCorStatus b) ∧
    (open_ → sends → ∀ addr data, addr < 2 ^ 26 → addr % 4 = 0 →
      let dst := nodeOfBar0 addr
      let fails := fun (o : Host.Outcome State Fault Refusal) => ∃ t, o = .next t ∧
        s.tlp (.completion 4 []) ∈ t.out ∧ t.f hstPg 0x10 10 10 = 1
      (s.route 9 dst = none → ∀ out back, fails (exec (.bar0Request ⟨false, false, ⟨out, back, .none⟩⟩ addr 4 data) s)) ∧
      (∀ r ring stop back, s.route 9 dst = some r →
        fails (exec (.bar0Request ⟨false, false, ⟨.parity ring stop, back, .none⟩⟩ addr 4 data) s)) ∧
      (∀ r q p off, l0 → s.aheadOf 9 1 = none → s.aheadOf 9 2 = none → (s.freeTag 9).isSome = true →
        s.route 9 dst = some r → s.route dst 9 = some q → bar0At addr = .page p off →
        (let v := readBy (countFlits s 9 dst r 1) .host p off
         let u := countFlits v.2 dst 9 q 2
         exec (.bar0Request ⟨false, false, clearTrip⟩ addr 4 data) s = .next (settle
          (u.send (u.tlp (.completion 0 (bytesLE 4 v.1.toNat)))))) ∧
        (let u := writeReg (countFlits s 9 dst r 2) .host p off 15 (BitVec.ofNat 32 data.toNat)
         exec (.bar0Request ⟨true, false, clearTrip⟩ addr 4 data) s =
          .next (settle (if u.pwr.starting = true then u else countFlits u dst 9 q 1))))) ∧
    (open_ → ∀ out back addr len data, len = 0 ∨ 8 < addr % 8 + len → ∃ t,
      exec (.bar0Request ⟨false, false, ⟨out, back, .none⟩⟩ addr len data) s = .next t ∧ s.tlp (.completion 1 []) ∈ t.out ∧
      t.f hstPg 0x10 10 10 = 1) ∧
    (l0 → ¬closed → d0 → s.aoServes = true → ∀ addr data p off, addr < 2 ^ 26 → addr % 4 = 0 → bar0At addr = .page p off →
      let v := readBy s .host p off
      exec (.bar0Request ⟨false, false, clearTrip⟩ addr 4 data) s = .next (settle
        (if servedAsleep p off = true then v.2.send (v.2.tlp (.completion 0 (bytesLE 4 v.1.toNat)))
         else s.send (s.tlp (.completion 1 []))))) ∧
    (open_ → sends → ∀ addr out back, addr < 2 ^ 36 →
      let trip : HostTrip := ⟨out, back, .none⟩
      (l0 → ∀ len, len ≤ 4096 →
        let v := bar2ReadRun (len / 64 + 2) addr len trip (0, [], s)
        let u := v.2.2.2
        (v.1.2 = 0 → v.2.1 = 0 → exec (.bar2Read addr ⟨len, trip⟩) s =
          .next (settle (u.send (u.tlp (.completion 0 v.2.2.1))))) ∧
        (v.1.2 = 0 → v.2.1 ≠ 0 → ∃ t, exec (.bar2Read addr ⟨len, trip⟩) s = .next t ∧
          u.tlp (.completion 4 []) ∈ t.out ∧ t.f hstPg 0x10 8 8 = 1) ∧
        (v.1.2 ≠ 0 → exec (.bar2Read addr ⟨len, trip⟩) s =
          .next (settle (waitFirst u (.read v.1.1 v.1.2 clearTrip v.2.1 v.2.2.1))))) ∧
      (l0 → ∀ d, d.length ≤ s.maxPayload →
        let v := bar2WriteRun (d.length / 64 + 2) addr (d.map BitVec.toNat) trip (0, s)
        (v.1.2 = [] → v.2.1 = 0 → exec (.bar2Write addr d ⟨false, trip⟩) s = .next (settle v.2.2)) ∧
        (v.1.2 = [] → v.2.1 ≠ 0 → ∃ t, exec (.bar2Write addr d ⟨false, trip⟩) s = .next t ∧ t.f hstPg 0x10 9 9 = 1) ∧
        (v.1.2 ≠ [] → exec (.bar2Write addr d ⟨false, trip⟩) s =
          .next (settle (waitFirst v.2.2 (.write v.1.1 v.1.2 clearTrip v.2.1)))))) ∧
    (open_ → ∀ addr d out back, d.length ≤ s.maxPayload → ∃ t,
      exec (.bar2Write addr d ⟨true, ⟨out, back, .none⟩⟩) s = .next t ∧ .poisonedTlp ∈ t.out ∧
      t.f hstPg 0x10 9 9 = 1 ∧ t.hbm = s.hbm) ∧
    (l0 → open_ → s.bufferFree 9 = false → ∀ addr len out back, addr < 2 ^ 36 → len ≤ 4096 →
      let trip : HostTrip := ⟨out, back, .none⟩
      exec (.bar2Read addr ⟨len, trip⟩) s =
        .next (settle (s.withHst { s.hst with waits := s.hst.waits ++ [.read addr len trip 0 []] }))) ∧
    (s.configWord 0x104 = some (s.drw.serial.extractLsb' 0 32) ∧ s.configWord 0x108 = some (s.drw.serial.extractLsb' 32 32)) ∧
    (s.hst.linkReset = false → s.hst.flr = true ∨ s.pwr.fromOff = true → ∀ off enter, let o := settle (s.send (s.tlp (.completion 2 [])))
      exec (.msixUnmask (.configRead off)) s = .next o ∧ exec .functionLevelReset s = .next o ∧
      exec (.d3hot enter) s = .next o ∧ exec (.msixUnmask .function) s = .next o ∧ exec (.msixUnmask .busMaster) s = .next o) ∧
    (s.hst.linkReset = true → ∀ off enter, exec (.msixUnmask (.configRead off)) s = .next (settle s) ∧
      exec .functionLevelReset s = .next (settle s) ∧ exec (.d3hot enter) s = .next (settle s)) ∧
    (¬closed → s.pwr.fromOff = false →
      (∀ off, exec (.msixUnmask (.configRead off)) s =
        .next (settle (s.send (s.tlp (.completion 0 (bytesLE 4 ((s.configWord off).getD 0).toNat)))))) ∧
      (∀ off v, off % 4 = 0 → off < 4096 → off ≠ cfgDev ∨ v.getLsbD 15 = false → ∃ t,
        exec (.msixUnmask (.config off 15 v)) s = .next (settle t) ∧ t.tlp (.completion 0 []) ∈ t.out ∧
        let w := ((s.cfg off &&& ~~~cfgWritable off) ||| (v &&& cfgWritable off)) &&& ~~~(v &&& cfgClears off)
        t.cfg off = if off = cfgPm ∧ (v.toNat % 4 = 0 ∨ v.toNat % 4 = 3) then setFld w 1 0 (v.toNat % 4) else w) ∧
      (∃ t, exec .functionLevelReset s = .next (settle t) ∧ t.hst.flr = true ∧ t.hst.table = [] ∧ t.hst.pba = 0 ∧
        t.hst.busMaster = false ∧ t.hst.cfg = [] ∧ Tab.get (fun _ => false) t.alarms 8 = false ∧
        t.reg hstPg 0x44 = 0 ∧ t.st hstPg = stateAfter t) ∧
      (∀ enter : Bool, ∃ t, exec (.d3hot enter) s = .next t ∧ t.f hstPg 0x44 17 17 = bit enter ∧
        t.inD0 = !enter ∧ t.f hstPg 0x44 16 0 = s.f hstPg 0x44 16 0) ∧
      (∃ t, exec (.msixUnmask .function) s = .next t ∧ t.hst.fnMask = false ∧ t.hst.busMaster = s.hst.busMaster) ∧
      (∃ t, exec (.msixUnmask .busMaster) s = .next t ∧ t.hst.busMaster = true ∧ t.hst.fnMask = s.hst.fnMask)) ∧
    (∀ c, c = Instr.hotReset ∨ c = .linkDownReset ∨ c = .perst → ∃ t, exec c s = .next (settle t) ∧
      t.hst.linkReset = true ∧ t.hst.flr = false ∧ t.hst.table = [] ∧ t.hst.pba = 0 ∧ t.hst.cfg = [] ∧
      Tab.get (fun _ => false) t.alarms 8 = false ∧ t.f hstPg 0x44 16 0 = 0 ∧ t.st hstPg = stateAfter t) ∧
    (s.hst.flr = false → exec .flrComplete s = .next (settle s)) ∧
    (s.hst.flr = true → ∃ t, exec .flrComplete s = .next t ∧ t.hst.flr = false ∧ t.f hstPg 0x10 12 12 = 1 ∧
      t.f hstPg 0x44 8 0 = s.hst.link % 512 ∧ (s.hst.wasDown = true → t.f hstPg 0x10 11 11 = 1)) ∧
    (∃ t, exec .linkDown s = .next t ∧ t.f hstPg 0x44 16 0 = 0 ∧ t.f hstPg 0x10 11 11 = 1) ∧
    (∀ (speed : BitVec 4) (width : BitVec 5),
      let ok := linkRateOk speed.toNat = true ∧ linkWidthOk width.toNat = true
      (¬ok → exec (.linkRetrained speed width) s = .next (settle s)) ∧
      (ok → ∃ t, exec (.linkRetrained speed width) s = .next t ∧
        t.f hstPg 0x44 3 0 = speed.toNat ∧ t.f hstPg 0x44 8 4 = width.toNat ∧
        t.f hstPg 0x44 16 16 = bit (!s.pwr.starting && (decide (3 ≤ s.pst) || s.aspmL1)) ∧ t.hst.linkReset = false ∧
        (s.hst.linkReset = true → t.f hstPg 0x10 12 12 = 1 ∧ (s.hst.wasDown = true → t.f hstPg 0x10 11 11 = 1)))) ∧
    (∀ v, v < 128 →
      let e := { s.msixEntry v with ctl := 0 }
      let u := s.withHst { s.hst with table := Tab.set (fun _ => ⟨0, 0, 1⟩) s.hst.table v e }
      (s.refRuns = false → exec (.msixUnmask (.vector v)) s = .next (settle s)) ∧
      (open_ → s.hst.pba.getLsbD v = false ∨ s.hst.fnMask = true ∨ s.hst.busMaster = false →
        exec (.msixUnmask (.vector v)) s = .next (settle u)) ∧
      (open_ → s.hst.pba.getLsbD v = true → s.hst.fnMask = false → s.hst.busMaster = true → ∃ t,
        exec (.msixUnmask (.vector v)) s = .next (settle t) ∧ t.out = s.tlp (.msix v e.addr e.data) :: s.out ∧
        t.hst.pba.getLsbD v = false)) ∧
    (∀ rq : Requester, s.serves rq →
      (∃ u, s.sameRegs u ∧ exec (.hstAlarmAck rq) s = .next (settle (if s.recent.contains alarmMark then u
        else u.withAlarms (Tab.set (fun _ => false) u.alarms 8 false)))) ∧
      (∀ v : BitVec 7, ∃ u, s.sameRegs u ∧ exec (.hstMsixSend rq v) s =
        .next (settle (match rq with | .core _ => vectorEvent u v.toNat | _ => u))) ∧
      (∀ v : BitVec 7, ∃ u, s.sameRegs u ∧ exec (.hstRearm rq v) s = .next (settle
        (if rq ≠ .host then u
         else if u.vectorConds.getLsbD v.toNat = true then vectorEvent u v.toNat
         else if u.hst.conds.getLsbD v.toNat = true then
           u.withHst { u.hst with rearms := u.hst.rearms ||| BitVec.ofNat 128 (2 ^ v.toNat) }
         else u))) ∧
      (∀ v : BitVec 32, ∃ t, exec (.hstDoorbellSet rq v) s = .next (settle t) ∧ s.regsBut t [regKey hstPg 0x48] ∧
        t.reg hstPg 0x48 = s.reg hstPg 0x48 ||| v))

/-- Power states (R488-R500, R516, R522, R528). Power-on and a wake that waits in Dormant start the device up; the end of
start-up reaches Hold, with the step count at 0, and reports what start-up found; supply events and a forced entry go to
Dormant with their cause; requests are granted, refused or kept pending, as in a wake's start-up, too; a transition ends
in its target; a wake source that is enabled leaves Idle, waits for the end of an entry to Idle, whatever is requested in
it, and in Dormant waits for the start-up, but for a bundle's, which acts in Idle alone. The model's readings: memories
and cores are empty after Dormant, Off and power-on (log 18), of two forced entries in one period the cause of the least
code stands (log 38), and a fault of VIN in Off tells that VSTBY is back (log 45). -/
def Obligations.PowerStates : Prop :=
  ∀ (s : State),
    let pst := s.f pwrPg 0x44 2 0
    let dormantBy := fun (t : State) (cause : Nat) => t.f pwrPg 0x44 2 0 = 4 ∧ t.pwr.cause = cause ∧ t.pwr.off = false ∧
      t.pwr.target = none ∧ t.reg pwrPg 0x58 = BitVec.ofNat 32 (2 ^ 31 + cause) ∧ t.hbm = [] ∧ t.shared = []
    (∀ f, let ready := pst = 4 ∧ s.pwr.starting = false ∧ s.pwr.wake ≠ none ∧ s.pwr.vinOut = false ∧
        (s.pwr.cause = 2 → s.cool = true)
      (s.pwr.off = true → ∃ t, exec (.powerOn f) s = .next t ∧ t.pwr.starting = true ∧ t.f drwPg 0x50 3 0 = 1 ∧
        t.hbm = []) ∧
      (s.pwr.off = false → ready → ∃ t, exec (.powerOn f) s = .next t ∧ t.pwr.starting = true ∧
        t.f drwPg 0x50 3 0 = 2 ∧ t.f pwrPg 0x44 15 12 = s.pwr.wake.getD 0 % 16 ∧ t.f pwrPg 0x44 3 0 = 12) ∧
      (s.pwr.off = false → ¬ready → exec (.powerOn f) s = .next (settle s))) ∧
    (s.pwr.starting = false → exec .startupEnd s = .next (settle s)) ∧
    (s.pwr.starting = true → ∃ t, exec .startupEnd s = .next t ∧ t.pwr.starting = false ∧ t.pwr.fromOff = false ∧
      t.ticks = 0 ∧ t.cyc.csc = 0 ∧ t.f pwrPg 0x44 2 0 = 1 ∧ t.panels = s.panels ∧
      (s.f drwPg 0x44 1 1 = 1 → t.f drwPg 0x10 8 8 = 1) ∧ (s.pwr.mapBad = true → t.f rprPg 0x10 11 11 = 1) ∧
      (1 < s.pwr.cause → t.f pwrPg 0x10 11 11 = 1)) ∧
    (∃ t, exec .vstbyLoss s = .next t ∧ t.pwr.off = true ∧ t.hbm = [] ∧ t.shared = [] ∧ t.cores = []) ∧
    (s.pwr.off = true ∨ s.pwr.starting = true ∨ pst = 4 → exec .vinLow s = .next (settle s)) ∧
    (s.pwr.off = false → s.pwr.starting = false → pst ≠ 4 → exec .vinLow s = .next (settle (raise s pwrPg 10 0))) ∧
    (s.pwr.off = true ∨ pst ≠ 4 ∨ s.pwr.starting = true →
      (∃ t, exec .vinUv s = .next t ∧ dormantBy t 3 ∧ t.pwr.vinOut = true) ∧ (∃ t, exec .vinOv s = .next t ∧ dormantBy t 4) ∧
      (s.pwr.off = true → exec .overpower s = .next (settle s)) ∧
      (s.pwr.off = false → ∃ t, exec .overpower s = .next t ∧ dormantBy t 5)) ∧
    (s.pwr.off = false → pst = 4 → s.pwr.starting = false →
      (s.pwr.justForced = true → 4 < s.pwr.cause → ∃ t, exec .vinOv s = .next (settle t) ∧
        s.regsBut (t.withPwr s.pwr) [regKey pwrPg 0x58] ∧ t.pwr = { s.pwr with cause := 4 } ∧ t.f pwrPg 0x58 3 0 = 4) ∧
      (s.pwr.justForced = false ∨ s.pwr.cause ≤ 4 → exec .vinOv s = .next (settle s)) ∧
      (∃ t, exec .vinUv s = .next t ∧ t.f pwrPg 0x44 2 0 = 4 ∧ t.pwr.vinOut = true ∧ t.pwr.cause =
        if s.pwr.justForced = true ∧ 3 < s.pwr.cause then 3 else s.pwr.cause)) ∧
    (∀ m, s.pwr.off = false → s.pwr.starting = true → s.f drwPg 0x50 3 0 = 2 → s.pwr.target = some m → ∃ t,
      exec (.requestIdle .host) s = .next t ∧ t.f pwrPg 0x44 6 4 = 2 ∧ t.pwr.target = some m) ∧
    (∀ rq : Requester, s.serves rq →
      (s.pwr.target ≠ none →
        let pends := fun (c : Instr) (n : Nat) => ∃ t, exec c s = .next t ∧ t.f pwrPg 0x44 6 4 = n ∧
          t.pwr = { s.pwr with asker := match rq with | .core _ => 6 | _ => 2 }
        pends (.requestHold rq) 1 ∧ pends (.requestIdle rq) 2 ∧ pends (.requestRetain rq) 3 ∧ pends (.requestDormant rq) 4) ∧
      (s.pwr.target = none →
        let moves := fun (t : State) (n : Nat) => t.pwr.target = some n ∧ t.f pwrPg 0x44 3 3 = 1
        let refused := fun (t : State) => t.pwr = s.pwr ∧ t.f pwrPg 0x44 3 0 = s.f pwrPg 0x44 3 0 ∧ t.f pwrPg 0x10 8 8 = 1
        (pst = 1 → ∃ u, s.sameRegs u ∧ exec (.requestHold rq) s = .next (settle u)) ∧
        (pst = 2 → ∃ t, exec (.requestHold rq) s = .next t ∧ moves t 1 ∧
          t.f pwrPg 0x44 15 12 = match rq with | .core _ => 6 | _ => 2) ∧
        (pst = 1 → s.idleRefusal = 0 → ∃ t, exec (.requestIdle rq) s = .next t ∧ moves t 2) ∧
        (pst = 1 → s.idleRefusal ≠ 0 → ∃ t, exec (.requestIdle rq) s = .next t ∧ refused t) ∧
        (pst = 2 → ∃ t, exec (.requestRetain rq) s = .next t ∧ moves t 3) ∧
        (pst = 1 → ∃ t, exec (.requestRetain rq) s = .next t ∧ refused t) ∧
        (∃ t, exec (.requestDormant rq) s = .next t ∧ moves t 4))) ∧
    (s.pwr.target = none → exec .transitionEnd s = .next (settle s)) ∧
    (s.f pwrPg 0x44 6 4 = 0 → s.pwr.wake = none →
      (s.pwr.target = some 1 → ∃ t, exec .transitionEnd s = .next t ∧ t.f pwrPg 0x44 3 0 = 1 ∧ t.pwr.target = none) ∧
      (s.pwr.target = some 2 → pst = 1 → ∃ t, exec .transitionEnd s = .next t ∧ t.f pwrPg 0x44 3 0 = 2 ∧
        t.pwr.target = none) ∧
      (s.pwr.target = some 3 → ∃ t, exec .transitionEnd s = .next t ∧ t.f pwrPg 0x44 3 0 = 3 ∧ t.pwr.target = none) ∧
      (s.pwr.target = some 2 → pst = 3 → ∃ t, exec .transitionEnd s = .next t ∧ t.f pwrPg 0x44 3 0 = 10 ∧
        t.f pwrPg 0x44 15 12 = 2 ∧ t.pwr.target = some 1 ∧ t.f pwrPg 0x10 13 13 = 1) ∧
      (s.pwr.target = some 4 → ∃ t, exec .transitionEnd s = .next t ∧ dormantBy t 1)) ∧
    (s.f pwrPg 0x44 6 4 = 0 → s.pwr.wake = some 4 → s.pwr.target = some 4 →
      ∃ t, exec .transitionEnd s = .next t ∧ dormantBy t 1 ∧ t.pwr.wake = none) ∧
    (∀ c, s.pwr.off = false → s.pwr.starting = false → s.pwr.target = some 2 → pst = 1 → s.pwr.wake = some c →
      s.f pwrPg 0x44 6 4 = 0 ∨ s.f pwrPg 0x44 6 4 = 2 → ∃ t, exec .transitionEnd s = .next t ∧ t.f pwrPg 0x44 3 0 = 10 ∧
        t.f pwrPg 0x44 15 12 = c % 16 ∧ t.pwr.target = some 1 ∧ t.pwr.wake = none) ∧
    (∀ b, b < 6 → s.pwr.off = false → s.pwr.starting = false → pst = 1 → s.pwr.target = some 2 → s.pwr.wake = none →
      s.f pwrPg 0x50 2 2 = 1 → s.f (bndPg b) 0x40 8 8 = 1 →
      exec (.bundleWake b) s = .next (settle (s.withPwr { s.pwr with wake := some 4 }))) ∧
    (s.pwr.off = false → s.pwr.starting = false → s.pwr.target = none →
      let wakes := fun (t : State) (code : Nat) => t.pwr.target = some 1 ∧ t.f pwrPg 0x44 3 3 = 1 ∧ t.f pwrPg 0x44 15 12 = code
      (s.f pwrPg 0x50 1 1 = 0 ∨ s.reg pwrPg 0x54 = 0 → exec .wakeTimer s = .next (settle s)) ∧
      (s.f pwrPg 0x50 1 1 = 1 → s.reg pwrPg 0x54 ≠ 0 → pst = 2 → ∃ t, exec .wakeTimer s = .next t ∧ wakes t 3) ∧
      (∀ b, b < 6 →
        (s.f pwrPg 0x50 2 2 = 0 ∨ s.f (bndPg b) 0x40 8 8 = 0 ∨ pst ≠ 2 → exec (.bundleWake b) s = .next (settle s)) ∧
        (s.f pwrPg 0x50 2 2 = 1 → s.f (bndPg b) 0x40 8 8 = 1 → pst = 2 → ∃ t, exec (.bundleWake b) s = .next t ∧
          wakes t 4)) ∧
      (∃ t, exec .vinRestored s = .next t ∧ t.pwr.vinOut = false ∧ t.regs = s.regs ∧
        (pst = 4 → s.pwr.cause = 3 → s.f pwrPg 0x50 3 3 = 1 → s.pwr.wake = none → t.pwr.wake = some 5) ∧
        (pst ≠ 4 ∨ s.pwr.cause ≠ 3 ∨ s.f pwrPg 0x50 3 3 = 0 → t.pwr.wake = s.pwr.wake)))

/-- Telemetry and limits (R501-R510). A power sample shows the input, its average and the energy, and moves the cap part
of THROTTLE; a thermal sample shows each valid reading, moves the thermal part, and trips to Dormant where a sensor stands
at its trip temperature twice, in start-up, too, and in the period of a forced entry for another cause (R499; log 38).
Writes of the step clock and of the thermal limits take only what their rules allow; a SOURCE device's step clock takes
the frequency written. -/
def Obligations.Supervision : Prop :=
  ∀ (s : State),
    (∀ m : PowerReading, (s.refRuns = false → exec (.powerSample m) s = .next (settle s)) ∧
      (s.refRuns = true →
        let p := m.mw.toNat
        let old := (s.reg pwrPg 0x6c).toNat
        let avg := if s.pwr.sampled then
          ((old : Int) + Int.fdiv ((p : Int) - old) (2 ^ s.f pwrPg 0x4c 27 24)).toNat else p
        let limit := 1000 * s.f pwrPg 0x4c 9 0
        ∃ t, exec (.powerSample m) s = .next t ∧ t.reg pwrPg 0x60 = m.mv.setWidth 32 ∧
          t.reg pwrPg 0x64 = m.ma.setWidth 32 ∧ t.reg pwrPg 0x68 = m.mw.setWidth 32 ∧ t.reg pwrPg 0x6c = BitVec.ofNat 32 avg ∧
          t.reg64 pwrPg 0x90 = (s.reg64 pwrPg 0x90 + (s.pwr.nj + p) / 1000) % 2 ^ 64 ∧
          t.pwr.nj = (s.pwr.nj + p) % 1000 ∧ t.pwr.sampled = true ∧
          (s.f pwrPg 0x4c 31 31 = 0 → t.f pwrPg 0x44 8 8 = 0) ∧
          (s.f pwrPg 0x4c 31 31 = 1 → s.f pwrPg 0x44 8 8 = 0 → limit ≤ avg → t.f pwrPg 0x44 8 8 = 1 ∧
            t.f pwrPg 0x10 9 9 = 1) ∧
          (s.f pwrPg 0x4c 31 31 = 1 → s.f pwrPg 0x44 8 8 = 0 → avg < limit → t.f pwrPg 0x44 8 8 = 0) ∧
          (s.f pwrPg 0x4c 31 31 = 1 → s.f pwrPg 0x44 8 8 = 1 → t.f pwrPg 0x44 8 8 =
            bit (decide (1000 * (s.f pwrPg 0x4c 9 0 - s.f pwrPg 0x4c 23 16) ≤ avg))))) ∧
    (∀ l : List (Option (BitVec 16)),
      let pst := s.f pwrPg 0x44 2 0
      let noTrip := ∀ i, i < 7 → (tripping l).getD i false = true → s.pwr.tripped.getD i false = false
      let trips := ∃ i, i < 7 ∧ (tripping l).getD i false = true ∧ s.pwr.tripped.getD i false = true
      (s.pwr.off = true → exec (.thermalSample l) s = .next (settle s)) ∧
      (s.pwr.off = false → s.pwr.starting = true → noTrip →
        exec (.thermalSample l) s = .next (settle (s.withPwr { s.pwr with tripped := tripping l }))) ∧
      (s.pwr.off = false → s.pwr.starting = false → pst = 4 →
        (s.pwr.justForced = false → exec (.thermalSample l) s = .next (settle (s.withPwr { s.pwr with temps := l }))) ∧
        (s.pwr.justForced = true → noTrip → exec (.thermalSample l) s =
          .next (settle (s.withPwr { s.pwr with temps := l, tripped := tripping l }))) ∧
        (s.pwr.justForced = true → 2 < s.pwr.cause → trips → ∃ t, exec (.thermalSample l) s = .next t ∧ t.pwr.cause = 2 ∧
          t.f pwrPg 0x58 3 0 = 2 ∧ t.f thmPg 0x6c 31 31 = 1)) ∧
      (s.pwr.off = false →
        (s.pwr.starting = false → pst < 3 → noTrip →
          ∃ t, exec (.thermalSample l) s = .next t ∧ t.pwr.temps = l ∧ t.pwr.tripped = tripping l ∧
            ∀ i, i < 7 →
              (∀ v, l.getD i none = some v → t.reg thmPg (0x40 + 4 * i) = BitVec.ofNat 32 (2 ^ 31 + v.toNat)) ∧
              (l.getD i none = none → t.f thmPg (0x40 + 4 * i) 31 31 = 0 ∧
                t.f thmPg (0x40 + 4 * i) 15 0 = s.f thmPg (0x40 + 4 * i) 15 0 ∧ t.f thmPg 0x10 11 11 = 1)) ∧
        (pst ≠ 4 ∨ s.pwr.starting = true → trips → ∃ t, exec (.thermalSample l) s = .next t ∧ t.f pwrPg 0x44 2 0 = 4 ∧
          t.pwr.cause = 2 ∧ t.reg pwrPg 0x58 = BitVec.ofNat 32 (2 ^ 31 + 2) ∧ t.f thmPg 0x6c 31 31 = 1))) ∧
    (∀ (rq : Requester), s.serves rq →
      (∀ v : BitVec 11, s.locked pwrPg = false →
        let may := 800 ≤ v.toNat ∧ v.toNat ≤ 1600 ∧ v.toNat % 25 = 0
        (s.cycOff = true → may → ∃ t, exec (.pwrStepClk rq v) s = .next t ∧ t.f pwrPg 0x48 10 0 = v.toNat ∧
          (s.follows = false → v.toNat ≠ s.f pwrPg 0x48 10 0 → t.cyc.mhz = v.toNat)) ∧
        (¬may → ∃ t, exec (.pwrStepClk rq v) s = .next t ∧ t.f pwrPg 0x48 10 0 = s.f pwrPg 0x48 10 0) ∧
        (s.cycOff = false → v.toNat ≠ s.f pwrPg 0x48 10 0 → ∃ t, exec (.pwrStepClk rq v) s = .next t ∧
          t.f pwrPg 0x48 10 0 = s.f pwrPg 0x48 10 0 ∧ t.f pwrPg 0x10 12 12 = 1)) ∧
      (∀ v : BitVec 32, s.locked thmPg = false → v.toNat < 2 ^ 20 → (s.reg thmPg 0x64).toNat < 2 ^ 20 →
        let may := 60 ≤ v.toNat % 256 ∧ v.toNat % 256 ≤ 115 ∧ 60 ≤ v.toNat / 256 % 256 ∧ v.toNat / 256 % 256 ≤ 95 ∧
          1 ≤ v.toNat / 65536 ∧ v.toNat / 65536 ≤ 15
        (may → ∃ t, exec (.thmLimitWrite rq v) s = .next (settle t) ∧ s.regsBut t [regKey thmPg 0x64] ∧
          t.reg thmPg 0x64 = v) ∧
        (¬may → ∃ t, exec (.thmLimitWrite rq v) s = .next t ∧ t.reg thmPg 0x64 = s.reg thmPg 0x64 ∧
          t.f thmPg 0x10 12 12 = 1)))

/-! ### Resets, the Drawer, Panel repair and the test port (R512-R545) -/

/-- Warm resets, the Drawer and repair (R512, R513, R518-R521, R525, R529). The key starts a warm reset, which keeps HBM;
another value is SEQ_FAIL; the test port's reset begins one, in start-up, too, but not in Retain and Dormant (R545). A
commit captures the retained registers, and again at the end of its period, and ends with its snapshot good or not; the
window writes only the table and the user area; MARK marks a Panel that is neither retired nor marked. -/
def Obligations.DrawerAndRepair : Prop :=
  ∀ (s : State),
    (∀ (rq : Requester) (f : StartupFindings), s.serves rq →
      (∃ t, exec (.drwRst rq 0x57525354 f) s = .next t ∧ t.pwr.starting = true ∧ t.f drwPg 0x50 3 0 = 3 ∧
        t.f drwPg 0x50 7 4 = rqCode rq ∧ t.hbm = s.hbm ∧ t.shared = s.shared) ∧
      (∀ v : BitVec 32, v ≠ 0x57525354 → ∃ t, exec (.drwRst rq v f) s = .next t ∧ t.pwr = s.pwr ∧
        t.f drwPg 0x10 2 2 = 1)) ∧
    (∀ (f : StartupFindings), s.pwr.off = false →
      (s.pwr.starting = true ∨ s.f pwrPg 0x44 2 0 < 3 → ∃ t, exec (.warmRst true f) s = .next t ∧ t.pwr.starting = true ∧ t.f drwPg 0x50 3 0 = 4 ∧
        t.f drwPg 0x50 7 4 = 10 ∧ t.hbm = s.hbm ∧ t.tap.ir = 0x3a) ∧
      (s.pwr.starting = false → 3 ≤ s.f pwrPg 0x44 2 0 → ∃ t, exec (.warmRst true f) s = .next t ∧ t.pwr = s.pwr ∧
        t.tap.ir = 0x3a ∧ t.regs = s.regs) ∧
      (∃ t, exec (.warmRst false f) s = .next t ∧ t.pwr = s.pwr ∧ t.tap.ir = 0x3a ∧ t.regs = s.regs)) ∧
    (∀ rq : Requester, s.serves rq →
      (s.f drwPg 0x44 0 0 = 0 → s.f drwPg 0x40 8 8 = 0 → ∃ t, exec (.drawerCommit rq) s = .next t ∧
        t.f drwPg 0x44 0 0 = 1 ∧ (∃ u, s.sameRegs u ∧ t.drw.buffer = some (captureWords u)) ∧
        t.drw.fresh = true ∧ t.drw.working = s.drw.working) ∧
      (s.f drwPg 0x44 0 0 = 1 ∨ s.f drwPg 0x40 8 8 = 1 → ∃ t, exec (.drawerCommit rq) s = .next t ∧ t.drw = s.drw ∧
        t.f drwPg 0x44 0 0 = s.f drwPg 0x44 0 0 ∧ t.f drwPg 0x10 11 11 = 1) ∧
      (∀ off (v : BitVec 32), off < 0x800 → off % 4 = 0 →
        let a := s.f drwPg 0x60 11 0 * 2048 + off
        (0x51000 ≤ a ∧ a < 0x51370 ∨ 0x60000 ≤ a ∧ a < 0x800000 → ∃ t,
          exec (.drawerWindowWrite rq off 15 v) s = .next t ∧ t.regs = s.regs ∧
          ∀ i, Tab.get (zeroAt 8) t.drw.bytes i = if a ≤ i ∧ i < a + 4 then
            BitVec.ofNat 8 (fld v.toNat (8 * (i - a) + 7) (8 * (i - a))) else Tab.get (zeroAt 8) s.drw.bytes i) ∧
        (¬(0x51000 ≤ a ∧ a < 0x51370 ∨ 0x60000 ≤ a ∧ a < 0x800000) → ∃ t,
          exec (.drawerWindowWrite rq off 15 v) s = .next t ∧ t.drw = s.drw ∧ t.f drwPg 0x10 12 12 = 1)) ∧
      (∀ die panel, die < 4 →
        (panel < 132 → s.retired die panel = false → s.marked die panel = false → ∃ t,
          exec (.mark rq die panel) s = .next t ∧ t.reason die panel = 0x45 ∧ t.drw.mapWrites = s.drw.mapWrites + 1 ∧
          t.f rprPg 0x10 8 8 = 1) ∧
        (panel < 132 → s.retired die panel = true ∨ s.marked die panel = true → ∃ u, s.sameRegs u ∧
          exec (.mark rq die panel) s = .next (settle u)) ∧
        (132 ≤ panel → panel < 256 → ∃ t, exec (.mark rq die panel) s = .next t ∧ t.drw = s.drw ∧
          t.f rprPg 0x10 12 12 = 1))) ∧
    (∀ ok : Bool,
      (s.drw.buffer = none → s.drw.fresh = false → exec (.drawerCommitEnd ok) s = .next (settle s)) ∧
      (∀ x, s.drw.buffer = some x → ∃ t, exec (.drawerCommitEnd ok) s = .next t ∧
        t.drw = { s.drw with
          buffer := none, fresh := false
          working := ⟨ok, s.drw.working.commits + 1, if s.drw.fresh then captureWords s else x⟩ } ∧
        t.f drwPg 0x44 0 0 = 0 ∧ t.f drwPg 0x44 3 3 = bit ok ∧ (ok = true → t.f drwPg 0x10 10 10 = 1) ∧
        (ok = false → t.f drwPg 0x10 11 11 = 1))) ∧
    (∀ l x, s.drw.fresh = true → s.drw.buffer = some x → ∃ t, exec (.referenceTick l) s = .next t ∧
      t.drw = { s.drw with buffer := some (captureWords s), fresh := false })

/-- The test port (R542-R545). Each instruction sends what Capture-IR takes and becomes the one in force; EXTEST drives
the pads of banks that are on from the cells that SAMPLE/PRELOAD loaded, sends the cells that it captures, with the balls
at the levels that the scan brings, and then drives its own; while the CYC_ page is not OFF it is refused, and its bits go
through the bypass register. SAMPLE/PRELOAD sends the cells as they stand and loads others; IDCODE sends the
identification; BYPASS sends the 0 that the register captures, and takes a bit that no operand names (a free value, log
5); Test-Logic-Reset selects IDCODE and sends nothing. Nothing happens without power. The order of the 1,154 cells, PERST#
and TAMPER at 1152 and 1153, is the model's (log 39). -/
def Obligations.TestPort : Prop :=
  ∀ (s : State) (x : BoundaryScan) (code : BitVec 8),
    let ir := OutMsg.tdo 8 s.captureIr
    (s.pwr.off = true → exec (.extest x) s = .next (settle s) ∧ exec (.samplePreload x) s = .next (settle s) ∧
      exec .idcode s = .next (settle s) ∧ exec (.bypass code) s = .next (settle s) ∧
      exec .testLogicReset s = .next (settle s)) ∧
    (s.pwr.off = false →
      (s.cycOff = true → ∃ t v u : State, exec (.extest x) s = .next (settle t) ∧ t.regs = s.regs ∧
        t.tap = ⟨0, x.cells, false, s.tap.bypass⟩ ∧ t.out = .tdo 1154 (u.sampledCells x.perst x.tamper) :: ir :: s.out ∧
        v.regs = s.regs ∧ v.free = s.free ∧ v.pins.ball = s.pins.ball ∧
        u = (v.withFree (v.free + 1)).withPins { v.pins with tgt := x.target, ball := ballLevels v x.target } ∧
        ∀ pin, pin < 384 →
          (s.on (pinPg pin) = false → v.pad pin = s.pad pin ∧ t.pad pin = s.pad pin) ∧
          (s.on (pinPg pin) = true →
            v.pad pin = padOf (s.tap.cells.getLsbD (3 * pin + 1)) (s.tap.cells.getLsbD (3 * pin + 2)) ∧
            t.pad pin = padOf (x.cells.getLsbD (3 * pin + 1)) (x.cells.getLsbD (3 * pin + 2)))) ∧
      (s.cycOff = false → ∃ t, exec (.extest x) s = .next (settle t) ∧ t.regs = s.regs ∧
        t.tap = ⟨0xff, s.tap.cells, true, x.cells.getLsbD 1153⟩ ∧
        t.out = .tdo 1154 (x.cells.toNat * 2 % 2 ^ 1154) :: ir :: s.out) ∧
      (s.tap.ir ≠ 0 →
        let u := (((s.send ir).withTap { s.tap with ir := 1 }).withFree (s.free + 1)).withPins
          { s.pins with tgt := x.target, ball := ballLevels s x.target }
        exec (.samplePreload x) s = .next (settle ((u.send (.tdo 1154 (u.sampledCells x.perst x.tamper))).withTap
          ⟨1, x.cells, s.tap.refused, s.tap.bypass⟩)) ∧
        exec .idcode s = .next (settle (((s.send ir).withTap { s.tap with ir := 2 }).send (.tdo 32 0x172649cb))) ∧
        (code.toNat ∉ [0, 1, 2, 0x38, 0x39, 0x3a] →
          exec (.bypass code) s = .next (settle ((((s.send ir).withFree (s.free + 1)).send (.tdo 1 0)).withTap
            { s.tap with ir := code, bypass := Config.bypassIn s.free }))) ∧
        exec .testLogicReset s = .next (settle (s.withTap { s.tap with ir := 2 }))) ∧
      (s.tap.ir = 0 → ∃ t, exec .testLogicReset s = .next (settle t) ∧ t.tap = { s.tap with ir := 2 } ∧ t.out = s.out ∧
        t.regs = s.regs ∧ ∀ pin, pin < 384 → s.on (pinPg pin) = true → s.pinFn pin % 16 = 0 → t.pad pin = 0)) ∧
    s.sampledCells x.perst x.tamper / 2 ^ 1152 = bit x.perst + 2 * bit x.tamper ∧
    (∀ pin, pin < 384 →
      s.sampledCells x.perst x.tamper / 2 ^ (3 * pin) % 2 = bit (s.pins.ball.getLsbD pin) ∧
      s.sampledCells x.perst x.tamper / 2 ^ (3 * pin + 1) % 4 = (s.pad pin).toNat)

/-! ### What follows a command, the state after reset, and what lasts -/

/-- What follows a command's effect by itself (R355, R444, R457, R481, R483): the vector conditions are those of the
interrupt sources and their map, a vector whose condition rose has sent its message or has its PBA bit, and the pulse
outputs and TRIG_OUT signals are as the pads last saw them; no register and no other state changes. A condition that falls
within a reference-clock period has not fallen before the period's end, and where a HST_REARM came meanwhile its return is
an event. That all this follows at once on each command is the model's reading (log 9). -/
def Obligations.WhatFollows : Prop :=
  ∀ (s : State),
    (∀ l, ∃ t, exec (.referenceTick l) s = .next t ∧ t.hst.conds = s.vectorConds ||| t.vectorConds) ∧
    (settle s).hst.conds = s.hst.conds ||| s.vectorConds ∧ (settle s).hst.rearms = s.hst.rearms &&& ~~~s.vectorConds ∧
    (settle s).pins.trig = s.trigSignals ∧
    (settle s).pins.pulses = s.pulseOuts ∧
    (∀ v, v < 128 →
      let event := s.vectorConds.getLsbD v = true ∧ (s.hst.conds.getLsbD v = false ∨ s.hst.rearms.getLsbD v = true)
      (event → s.msixOpen v = false → (settle s).hst.pba.getLsbD v = true) ∧
      (event → s.msixOpen v = true → (settle s).hst.pba.getLsbD v = false ∧
        s.tlp (.msix v (s.msixEntry v).addr (s.msixEntry v).data) ∈ (settle s).out) ∧
      (¬event → (settle s).hst.pba.getLsbD v = s.hst.pba.getLsbD v)) ∧
    (∀ pin, s.on (pinPg pin) = true → s.extest = false → s.pinFn pin % 16 = 4 → s.pinFn pin / 16 < 3 →
      pin ∈ s.cfgPins → s.trigSignals.getLsbD (s.pinFn pin / 16) ≠ s.pins.trig.getLsbD (s.pinFn pin / 16) →
      (settle s).pad pin = padOf (s.trigSignals.getLsbD (s.pinFn pin / 16)) true) ∧
    settle s = (((s.withPins (settle s).pins).withHst (settle s).hst).withOut (settle s).out)

/-- The state after reset: what the spec gives for it (R9, R176, R488, R513, R514), and the model's own choices for what
it leaves open (log entry 3): the moment before STARTUP_END, with STATE 1; a device serial of 1; a factory snapshot that
is good, of no commit and without words; no fuse burnt, no slot retired. Every memory lists nothing, too (log entry 4). -/
def Obligations.ResetValues : Prop :=
  State.reset.pending = [] ∧ State.reset.pwr.starting = true ∧ State.reset.f pwrPg 0x44 2 0 = 1 ∧
  (∀ p : PageId, State.reset.st p = stOff ∧ State.reset.locked p = false ∧ State.reset.reg p 0x10 = 0) ∧
  (∀ p o, State.reset.reg p o = regDefault (regKey p o)) ∧
  State.reset.executing = false ∧ State.reset.cyc.csc = 0 ∧ State.reset.tap.ir = 2 ∧ State.reset.net = [] ∧
  State.reset.lasting = ⟨[], 1, ⟨true, 0, []⟩, [], 0, true⟩ ∧ State.reset.memories = ⟨[], []⟩ ∧ State.reset.memories.wf

/-- What no command, reset or loss of power changes (R217, R219, R517, R519): the commands that wait behind, the device
serial, the factory snapshot, a fuse that is burnt and a slot that is retired. A step takes one command from the queue and
keeps all of these, from any state; and memories in canonical form stay in canonical form. -/
def Obligations.WhatLasts : Prop :=
  (∀ (o : Lasting) (s t : State), Lasts { o with pending := s.pending } s.lasting → step s = .next t →
    Lasts { o with pending := s.pending.tail } t.lasting) ∧
  ∀ (s t : State), s.memories.wf → step s = .next t → t.memories.wf
end

