-- ==== Sys2Proof/Laws/State.lean ====
section
/-! SUPPORT. Every field of a state after every update: one law an update, with one equation a field. -/
namespace Sys2Proof.Machine

@[simp] theorem State.withPending_fields (s : State) (v : List Instr) :
    (s.withPending v).pending = v ∧ (s.withPending v).regs = s.regs ∧ (s.withPending v).hold = s.hold ∧
    (s.withPending v).recent = s.recent ∧ (s.withPending v).out = s.out ∧ (s.withPending v).free = s.free ∧
    (s.withPending v).panels = s.panels ∧ (s.withPending v).fab = s.fab ∧ (s.withPending v).cyc = s.cyc ∧
    (s.withPending v).drw = s.drw ∧ (s.withPending v).vnr = s.vnr ∧ (s.withPending v).hbm = s.hbm ∧
    (s.withPending v).hbmUe = s.hbmUe ∧ (s.withPending v).alarms = s.alarms ∧ (s.withPending v).queues = s.queues ∧
    (s.withPending v).winMap = s.winMap ∧ (s.withPending v).pinWin = s.pinWin ∧
    (s.withPending v).exports = s.exports ∧ (s.withPending v).ldr = s.ldr ∧ (s.withPending v).bundles = s.bundles ∧
    (s.withPending v).topo = s.topo ∧ (s.withPending v).trg = s.trg ∧ (s.withPending v).cap = s.cap ∧
    (s.withPending v).meas = s.meas ∧ (s.withPending v).traces = s.traces ∧ (s.withPending v).cores = s.cores ∧
    (s.withPending v).shared = s.shared ∧ (s.withPending v).sharedErr = s.sharedErr ∧ (s.withPending v).net = s.net ∧
    (s.withPending v).oldRoutes = s.oldRoutes ∧ (s.withPending v).wd = s.wd ∧ (s.withPending v).gauges = s.gauges ∧
    (s.withPending v).lows = s.lows ∧ (s.withPending v).ticks = s.ticks ∧ (s.withPending v).pins = s.pins ∧
    (s.withPending v).hst = s.hst ∧ (s.withPending v).pwr = s.pwr ∧ (s.withPending v).tap = s.tap :=
  ⟨rfl, rfl, rfl, rfl, rfl, rfl, rfl, rfl, rfl, rfl, rfl, rfl, rfl, rfl, rfl, rfl, rfl, rfl, rfl, rfl, 
    rfl, rfl, rfl, rfl, rfl, rfl, rfl, rfl, rfl, rfl, rfl, rfl, rfl, rfl, rfl, rfl, rfl, rfl⟩

@[simp] theorem State.withRegs_fields (s : State) (v : Tab Word) :
    (s.withRegs v).pending = s.pending ∧ (s.withRegs v).regs = v ∧ (s.withRegs v).hold = s.hold ∧
    (s.withRegs v).recent = s.recent ∧ (s.withRegs v).out = s.out ∧ (s.withRegs v).free = s.free ∧
    (s.withRegs v).panels = s.panels ∧ (s.withRegs v).fab = s.fab ∧ (s.withRegs v).cyc = s.cyc ∧
    (s.withRegs v).drw = s.drw ∧ (s.withRegs v).vnr = s.vnr ∧ (s.withRegs v).hbm = s.hbm ∧
    (s.withRegs v).hbmUe = s.hbmUe ∧ (s.withRegs v).alarms = s.alarms ∧ (s.withRegs v).queues = s.queues ∧
    (s.withRegs v).winMap = s.winMap ∧ (s.withRegs v).pinWin = s.pinWin ∧ (s.withRegs v).exports = s.exports ∧
    (s.withRegs v).ldr = s.ldr ∧ (s.withRegs v).bundles = s.bundles ∧ (s.withRegs v).topo = s.topo ∧
    (s.withRegs v).trg = s.trg ∧ (s.withRegs v).cap = s.cap ∧ (s.withRegs v).meas = s.meas ∧
    (s.withRegs v).traces = s.traces ∧ (s.withRegs v).cores = s.cores ∧ (s.withRegs v).shared = s.shared ∧
    (s.withRegs v).sharedErr = s.sharedErr ∧ (s.withRegs v).net = s.net ∧ (s.withRegs v).oldRoutes = s.oldRoutes ∧
    (s.withRegs v).wd = s.wd ∧ (s.withRegs v).gauges = s.gauges ∧ (s.withRegs v).lows = s.lows ∧
    (s.withRegs v).ticks = s.ticks ∧ (s.withRegs v).pins = s.pins ∧ (s.withRegs v).hst = s.hst ∧
    (s.withRegs v).pwr = s.pwr ∧ (s.withRegs v).tap = s.tap :=
  ⟨rfl, rfl, rfl, rfl, rfl, rfl, rfl, rfl, rfl, rfl, rfl, rfl, rfl, rfl, rfl, rfl, rfl, rfl, rfl, rfl, 
    rfl, rfl, rfl, rfl, rfl, rfl, rfl, rfl, rfl, rfl, rfl, rfl, rfl, rfl, rfl, rfl, rfl, rfl⟩

@[simp] theorem State.withHold_fields (s : State) (v : Tab (Option (Nat × Word))) :
    (s.withHold v).pending = s.pending ∧ (s.withHold v).regs = s.regs ∧ (s.withHold v).hold = v ∧
    (s.withHold v).recent = s.recent ∧ (s.withHold v).out = s.out ∧ (s.withHold v).free = s.free ∧
    (s.withHold v).panels = s.panels ∧ (s.withHold v).fab = s.fab ∧ (s.withHold v).cyc = s.cyc ∧
    (s.withHold v).drw = s.drw ∧ (s.withHold v).vnr = s.vnr ∧ (s.withHold v).hbm = s.hbm ∧
    (s.withHold v).hbmUe = s.hbmUe ∧ (s.withHold v).alarms = s.alarms ∧ (s.withHold v).queues = s.queues ∧
    (s.withHold v).winMap = s.winMap ∧ (s.withHold v).pinWin = s.pinWin ∧ (s.withHold v).exports = s.exports ∧
    (s.withHold v).ldr = s.ldr ∧ (s.withHold v).bundles = s.bundles ∧ (s.withHold v).topo = s.topo ∧
    (s.withHold v).trg = s.trg ∧ (s.withHold v).cap = s.cap ∧ (s.withHold v).meas = s.meas ∧
    (s.withHold v).traces = s.traces ∧ (s.withHold v).cores = s.cores ∧ (s.withHold v).shared = s.shared ∧
    (s.withHold v).sharedErr = s.sharedErr ∧ (s.withHold v).net = s.net ∧ (s.withHold v).oldRoutes = s.oldRoutes ∧
    (s.withHold v).wd = s.wd ∧ (s.withHold v).gauges = s.gauges ∧ (s.withHold v).lows = s.lows ∧
    (s.withHold v).ticks = s.ticks ∧ (s.withHold v).pins = s.pins ∧ (s.withHold v).hst = s.hst ∧
    (s.withHold v).pwr = s.pwr ∧ (s.withHold v).tap = s.tap :=
  ⟨rfl, rfl, rfl, rfl, rfl, rfl, rfl, rfl, rfl, rfl, rfl, rfl, rfl, rfl, rfl, rfl, rfl, rfl, rfl, rfl, 
    rfl, rfl, rfl, rfl, rfl, rfl, rfl, rfl, rfl, rfl, rfl, rfl, rfl, rfl, rfl, rfl, rfl, rfl⟩

@[simp] theorem State.withRecent_fields (s : State) (v : List Nat) :
    (s.withRecent v).pending = s.pending ∧ (s.withRecent v).regs = s.regs ∧ (s.withRecent v).hold = s.hold ∧
    (s.withRecent v).recent = v ∧ (s.withRecent v).out = s.out ∧ (s.withRecent v).free = s.free ∧
    (s.withRecent v).panels = s.panels ∧ (s.withRecent v).fab = s.fab ∧ (s.withRecent v).cyc = s.cyc ∧
    (s.withRecent v).drw = s.drw ∧ (s.withRecent v).vnr = s.vnr ∧ (s.withRecent v).hbm = s.hbm ∧
    (s.withRecent v).hbmUe = s.hbmUe ∧ (s.withRecent v).alarms = s.alarms ∧ (s.withRecent v).queues = s.queues ∧
    (s.withRecent v).winMap = s.winMap ∧ (s.withRecent v).pinWin = s.pinWin ∧ (s.withRecent v).exports = s.exports ∧
    (s.withRecent v).ldr = s.ldr ∧ (s.withRecent v).bundles = s.bundles ∧ (s.withRecent v).topo = s.topo ∧
    (s.withRecent v).trg = s.trg ∧ (s.withRecent v).cap = s.cap ∧ (s.withRecent v).meas = s.meas ∧
    (s.withRecent v).traces = s.traces ∧ (s.withRecent v).cores = s.cores ∧ (s.withRecent v).shared = s.shared ∧
    (s.withRecent v).sharedErr = s.sharedErr ∧ (s.withRecent v).net = s.net ∧
    (s.withRecent v).oldRoutes = s.oldRoutes ∧ (s.withRecent v).wd = s.wd ∧ (s.withRecent v).gauges = s.gauges ∧
    (s.withRecent v).lows = s.lows ∧ (s.withRecent v).ticks = s.ticks ∧ (s.withRecent v).pins = s.pins ∧
    (s.withRecent v).hst = s.hst ∧ (s.withRecent v).pwr = s.pwr ∧ (s.withRecent v).tap = s.tap :=
  ⟨rfl, rfl, rfl, rfl, rfl, rfl, rfl, rfl, rfl, rfl, rfl, rfl, rfl, rfl, rfl, rfl, rfl, rfl, rfl, rfl, 
    rfl, rfl, rfl, rfl, rfl, rfl, rfl, rfl, rfl, rfl, rfl, rfl, rfl, rfl, rfl, rfl, rfl, rfl⟩

@[simp] theorem State.withOut_fields (s : State) (v : List OutMsg) :
    (s.withOut v).pending = s.pending ∧ (s.withOut v).regs = s.regs ∧ (s.withOut v).hold = s.hold ∧
    (s.withOut v).recent = s.recent ∧ (s.withOut v).out = v ∧ (s.withOut v).free = s.free ∧
    (s.withOut v).panels = s.panels ∧ (s.withOut v).fab = s.fab ∧ (s.withOut v).cyc = s.cyc ∧
    (s.withOut v).drw = s.drw ∧ (s.withOut v).vnr = s.vnr ∧ (s.withOut v).hbm = s.hbm ∧
    (s.withOut v).hbmUe = s.hbmUe ∧ (s.withOut v).alarms = s.alarms ∧ (s.withOut v).queues = s.queues ∧
    (s.withOut v).winMap = s.winMap ∧ (s.withOut v).pinWin = s.pinWin ∧ (s.withOut v).exports = s.exports ∧
    (s.withOut v).ldr = s.ldr ∧ (s.withOut v).bundles = s.bundles ∧ (s.withOut v).topo = s.topo ∧
    (s.withOut v).trg = s.trg ∧ (s.withOut v).cap = s.cap ∧ (s.withOut v).meas = s.meas ∧
    (s.withOut v).traces = s.traces ∧ (s.withOut v).cores = s.cores ∧ (s.withOut v).shared = s.shared ∧
    (s.withOut v).sharedErr = s.sharedErr ∧ (s.withOut v).net = s.net ∧ (s.withOut v).oldRoutes = s.oldRoutes ∧
    (s.withOut v).wd = s.wd ∧ (s.withOut v).gauges = s.gauges ∧ (s.withOut v).lows = s.lows ∧
    (s.withOut v).ticks = s.ticks ∧ (s.withOut v).pins = s.pins ∧ (s.withOut v).hst = s.hst ∧
    (s.withOut v).pwr = s.pwr ∧ (s.withOut v).tap = s.tap :=
  ⟨rfl, rfl, rfl, rfl, rfl, rfl, rfl, rfl, rfl, rfl, rfl, rfl, rfl, rfl, rfl, rfl, rfl, rfl, rfl, rfl, 
    rfl, rfl, rfl, rfl, rfl, rfl, rfl, rfl, rfl, rfl, rfl, rfl, rfl, rfl, rfl, rfl, rfl, rfl⟩

@[simp] theorem State.withFree_fields (s : State) (v : Nat) :
    (s.withFree v).pending = s.pending ∧ (s.withFree v).regs = s.regs ∧ (s.withFree v).hold = s.hold ∧
    (s.withFree v).recent = s.recent ∧ (s.withFree v).out = s.out ∧ (s.withFree v).free = v ∧
    (s.withFree v).panels = s.panels ∧ (s.withFree v).fab = s.fab ∧ (s.withFree v).cyc = s.cyc ∧
    (s.withFree v).drw = s.drw ∧ (s.withFree v).vnr = s.vnr ∧ (s.withFree v).hbm = s.hbm ∧
    (s.withFree v).hbmUe = s.hbmUe ∧ (s.withFree v).alarms = s.alarms ∧ (s.withFree v).queues = s.queues ∧
    (s.withFree v).winMap = s.winMap ∧ (s.withFree v).pinWin = s.pinWin ∧ (s.withFree v).exports = s.exports ∧
    (s.withFree v).ldr = s.ldr ∧ (s.withFree v).bundles = s.bundles ∧ (s.withFree v).topo = s.topo ∧
    (s.withFree v).trg = s.trg ∧ (s.withFree v).cap = s.cap ∧ (s.withFree v).meas = s.meas ∧
    (s.withFree v).traces = s.traces ∧ (s.withFree v).cores = s.cores ∧ (s.withFree v).shared = s.shared ∧
    (s.withFree v).sharedErr = s.sharedErr ∧ (s.withFree v).net = s.net ∧ (s.withFree v).oldRoutes = s.oldRoutes ∧
    (s.withFree v).wd = s.wd ∧ (s.withFree v).gauges = s.gauges ∧ (s.withFree v).lows = s.lows ∧
    (s.withFree v).ticks = s.ticks ∧ (s.withFree v).pins = s.pins ∧ (s.withFree v).hst = s.hst ∧
    (s.withFree v).pwr = s.pwr ∧ (s.withFree v).tap = s.tap :=
  ⟨rfl, rfl, rfl, rfl, rfl, rfl, rfl, rfl, rfl, rfl, rfl, rfl, rfl, rfl, rfl, rfl, rfl, rfl, rfl, rfl, 
    rfl, rfl, rfl, rfl, rfl, rfl, rfl, rfl, rfl, rfl, rfl, rfl, rfl, rfl, rfl, rfl, rfl, rfl⟩

@[simp] theorem State.withPanels_fields (s : State) (v : Tab Panel) :
    (s.withPanels v).pending = s.pending ∧ (s.withPanels v).regs = s.regs ∧ (s.withPanels v).hold = s.hold ∧
    (s.withPanels v).recent = s.recent ∧ (s.withPanels v).out = s.out ∧ (s.withPanels v).free = s.free ∧
    (s.withPanels v).panels = v ∧ (s.withPanels v).fab = s.fab ∧ (s.withPanels v).cyc = s.cyc ∧
    (s.withPanels v).drw = s.drw ∧ (s.withPanels v).vnr = s.vnr ∧ (s.withPanels v).hbm = s.hbm ∧
    (s.withPanels v).hbmUe = s.hbmUe ∧ (s.withPanels v).alarms = s.alarms ∧ (s.withPanels v).queues = s.queues ∧
    (s.withPanels v).winMap = s.winMap ∧ (s.withPanels v).pinWin = s.pinWin ∧ (s.withPanels v).exports = s.exports ∧
    (s.withPanels v).ldr = s.ldr ∧ (s.withPanels v).bundles = s.bundles ∧ (s.withPanels v).topo = s.topo ∧
    (s.withPanels v).trg = s.trg ∧ (s.withPanels v).cap = s.cap ∧ (s.withPanels v).meas = s.meas ∧
    (s.withPanels v).traces = s.traces ∧ (s.withPanels v).cores = s.cores ∧ (s.withPanels v).shared = s.shared ∧
    (s.withPanels v).sharedErr = s.sharedErr ∧ (s.withPanels v).net = s.net ∧
    (s.withPanels v).oldRoutes = s.oldRoutes ∧ (s.withPanels v).wd = s.wd ∧ (s.withPanels v).gauges = s.gauges ∧
    (s.withPanels v).lows = s.lows ∧ (s.withPanels v).ticks = s.ticks ∧ (s.withPanels v).pins = s.pins ∧
    (s.withPanels v).hst = s.hst ∧ (s.withPanels v).pwr = s.pwr ∧ (s.withPanels v).tap = s.tap :=
  ⟨rfl, rfl, rfl, rfl, rfl, rfl, rfl, rfl, rfl, rfl, rfl, rfl, rfl, rfl, rfl, rfl, rfl, rfl, rfl, rfl, 
    rfl, rfl, rfl, rfl, rfl, rfl, rfl, rfl, rfl, rfl, rfl, rfl, rfl, rfl, rfl, rfl, rfl, rfl⟩

@[simp] theorem State.withFab_fields (s : State) (v : Fabric) :
    (s.withFab v).pending = s.pending ∧ (s.withFab v).regs = s.regs ∧ (s.withFab v).hold = s.hold ∧
    (s.withFab v).recent = s.recent ∧ (s.withFab v).out = s.out ∧ (s.withFab v).free = s.free ∧
    (s.withFab v).panels = s.panels ∧ (s.withFab v).fab = v ∧ (s.withFab v).cyc = s.cyc ∧ (s.withFab v).drw = s.drw ∧
    (s.withFab v).vnr = s.vnr ∧ (s.withFab v).hbm = s.hbm ∧ (s.withFab v).hbmUe = s.hbmUe ∧
    (s.withFab v).alarms = s.alarms ∧ (s.withFab v).queues = s.queues ∧ (s.withFab v).winMap = s.winMap ∧
    (s.withFab v).pinWin = s.pinWin ∧ (s.withFab v).exports = s.exports ∧ (s.withFab v).ldr = s.ldr ∧
    (s.withFab v).bundles = s.bundles ∧ (s.withFab v).topo = s.topo ∧ (s.withFab v).trg = s.trg ∧
    (s.withFab v).cap = s.cap ∧ (s.withFab v).meas = s.meas ∧ (s.withFab v).traces = s.traces ∧
    (s.withFab v).cores = s.cores ∧ (s.withFab v).shared = s.shared ∧ (s.withFab v).sharedErr = s.sharedErr ∧
    (s.withFab v).net = s.net ∧ (s.withFab v).oldRoutes = s.oldRoutes ∧ (s.withFab v).wd = s.wd ∧
    (s.withFab v).gauges = s.gauges ∧ (s.withFab v).lows = s.lows ∧ (s.withFab v).ticks = s.ticks ∧
    (s.withFab v).pins = s.pins ∧ (s.withFab v).hst = s.hst ∧ (s.withFab v).pwr = s.pwr ∧ (s.withFab v).tap = s.tap :=
  ⟨rfl, rfl, rfl, rfl, rfl, rfl, rfl, rfl, rfl, rfl, rfl, rfl, rfl, rfl, rfl, rfl, rfl, rfl, rfl, rfl, 
    rfl, rfl, rfl, rfl, rfl, rfl, rfl, rfl, rfl, rfl, rfl, rfl, rfl, rfl, rfl, rfl, rfl, rfl⟩

@[simp] theorem State.withCyc_fields (s : State) (v : Cycle) :
    (s.withCyc v).pending = s.pending ∧ (s.withCyc v).regs = s.regs ∧ (s.withCyc v).hold = s.hold ∧
    (s.withCyc v).recent = s.recent ∧ (s.withCyc v).out = s.out ∧ (s.withCyc v).free = s.free ∧
    (s.withCyc v).panels = s.panels ∧ (s.withCyc v).fab = s.fab ∧ (s.withCyc v).cyc = v ∧ (s.withCyc v).drw = s.drw ∧
    (s.withCyc v).vnr = s.vnr ∧ (s.withCyc v).hbm = s.hbm ∧ (s.withCyc v).hbmUe = s.hbmUe ∧
    (s.withCyc v).alarms = s.alarms ∧ (s.withCyc v).queues = s.queues ∧ (s.withCyc v).winMap = s.winMap ∧
    (s.withCyc v).pinWin = s.pinWin ∧ (s.withCyc v).exports = s.exports ∧ (s.withCyc v).ldr = s.ldr ∧
    (s.withCyc v).bundles = s.bundles ∧ (s.withCyc v).topo = s.topo ∧ (s.withCyc v).trg = s.trg ∧
    (s.withCyc v).cap = s.cap ∧ (s.withCyc v).meas = s.meas ∧ (s.withCyc v).traces = s.traces ∧
    (s.withCyc v).cores = s.cores ∧ (s.withCyc v).shared = s.shared ∧ (s.withCyc v).sharedErr = s.sharedErr ∧
    (s.withCyc v).net = s.net ∧ (s.withCyc v).oldRoutes = s.oldRoutes ∧ (s.withCyc v).wd = s.wd ∧
    (s.withCyc v).gauges = s.gauges ∧ (s.withCyc v).lows = s.lows ∧ (s.withCyc v).ticks = s.ticks ∧
    (s.withCyc v).pins = s.pins ∧ (s.withCyc v).hst = s.hst ∧ (s.withCyc v).pwr = s.pwr ∧ (s.withCyc v).tap = s.tap :=
  ⟨rfl, rfl, rfl, rfl, rfl, rfl, rfl, rfl, rfl, rfl, rfl, rfl, rfl, rfl, rfl, rfl, rfl, rfl, rfl, rfl, 
    rfl, rfl, rfl, rfl, rfl, rfl, rfl, rfl, rfl, rfl, rfl, rfl, rfl, rfl, rfl, rfl, rfl, rfl⟩

@[simp] theorem State.withDrw_fields (s : State) (v : Drawer) :
    (s.withDrw v).pending = s.pending ∧ (s.withDrw v).regs = s.regs ∧ (s.withDrw v).hold = s.hold ∧
    (s.withDrw v).recent = s.recent ∧ (s.withDrw v).out = s.out ∧ (s.withDrw v).free = s.free ∧
    (s.withDrw v).panels = s.panels ∧ (s.withDrw v).fab = s.fab ∧ (s.withDrw v).cyc = s.cyc ∧ (s.withDrw v).drw = v ∧
    (s.withDrw v).vnr = s.vnr ∧ (s.withDrw v).hbm = s.hbm ∧ (s.withDrw v).hbmUe = s.hbmUe ∧
    (s.withDrw v).alarms = s.alarms ∧ (s.withDrw v).queues = s.queues ∧ (s.withDrw v).winMap = s.winMap ∧
    (s.withDrw v).pinWin = s.pinWin ∧ (s.withDrw v).exports = s.exports ∧ (s.withDrw v).ldr = s.ldr ∧
    (s.withDrw v).bundles = s.bundles ∧ (s.withDrw v).topo = s.topo ∧ (s.withDrw v).trg = s.trg ∧
    (s.withDrw v).cap = s.cap ∧ (s.withDrw v).meas = s.meas ∧ (s.withDrw v).traces = s.traces ∧
    (s.withDrw v).cores = s.cores ∧ (s.withDrw v).shared = s.shared ∧ (s.withDrw v).sharedErr = s.sharedErr ∧
    (s.withDrw v).net = s.net ∧ (s.withDrw v).oldRoutes = s.oldRoutes ∧ (s.withDrw v).wd = s.wd ∧
    (s.withDrw v).gauges = s.gauges ∧ (s.withDrw v).lows = s.lows ∧ (s.withDrw v).ticks = s.ticks ∧
    (s.withDrw v).pins = s.pins ∧ (s.withDrw v).hst = s.hst ∧ (s.withDrw v).pwr = s.pwr ∧ (s.withDrw v).tap = s.tap :=
  ⟨rfl, rfl, rfl, rfl, rfl, rfl, rfl, rfl, rfl, rfl, rfl, rfl, rfl, rfl, rfl, rfl, rfl, rfl, rfl, rfl, 
    rfl, rfl, rfl, rfl, rfl, rfl, rfl, rfl, rfl, rfl, rfl, rfl, rfl, rfl, rfl, rfl, rfl, rfl⟩

@[simp] theorem State.withVnr_fields (s : State) (v : Veneer) :
    (s.withVnr v).pending = s.pending ∧ (s.withVnr v).regs = s.regs ∧ (s.withVnr v).hold = s.hold ∧
    (s.withVnr v).recent = s.recent ∧ (s.withVnr v).out = s.out ∧ (s.withVnr v).free = s.free ∧
    (s.withVnr v).panels = s.panels ∧ (s.withVnr v).fab = s.fab ∧ (s.withVnr v).cyc = s.cyc ∧
    (s.withVnr v).drw = s.drw ∧ (s.withVnr v).vnr = v ∧ (s.withVnr v).hbm = s.hbm ∧ (s.withVnr v).hbmUe = s.hbmUe ∧
    (s.withVnr v).alarms = s.alarms ∧ (s.withVnr v).queues = s.queues ∧ (s.withVnr v).winMap = s.winMap ∧
    (s.withVnr v).pinWin = s.pinWin ∧ (s.withVnr v).exports = s.exports ∧ (s.withVnr v).ldr = s.ldr ∧
    (s.withVnr v).bundles = s.bundles ∧ (s.withVnr v).topo = s.topo ∧ (s.withVnr v).trg = s.trg ∧
    (s.withVnr v).cap = s.cap ∧ (s.withVnr v).meas = s.meas ∧ (s.withVnr v).traces = s.traces ∧
    (s.withVnr v).cores = s.cores ∧ (s.withVnr v).shared = s.shared ∧ (s.withVnr v).sharedErr = s.sharedErr ∧
    (s.withVnr v).net = s.net ∧ (s.withVnr v).oldRoutes = s.oldRoutes ∧ (s.withVnr v).wd = s.wd ∧
    (s.withVnr v).gauges = s.gauges ∧ (s.withVnr v).lows = s.lows ∧ (s.withVnr v).ticks = s.ticks ∧
    (s.withVnr v).pins = s.pins ∧ (s.withVnr v).hst = s.hst ∧ (s.withVnr v).pwr = s.pwr ∧ (s.withVnr v).tap = s.tap :=
  ⟨rfl, rfl, rfl, rfl, rfl, rfl, rfl, rfl, rfl, rfl, rfl, rfl, rfl, rfl, rfl, rfl, rfl, rfl, rfl, rfl, 
    rfl, rfl, rfl, rfl, rfl, rfl, rfl, rfl, rfl, rfl, rfl, rfl, rfl, rfl, rfl, rfl, rfl, rfl⟩

@[simp] theorem State.withHbm_fields (s : State) (v : Tab (BitVec 8)) :
    (s.withHbm v).pending = s.pending ∧ (s.withHbm v).regs = s.regs ∧ (s.withHbm v).hold = s.hold ∧
    (s.withHbm v).recent = s.recent ∧ (s.withHbm v).out = s.out ∧ (s.withHbm v).free = s.free ∧
    (s.withHbm v).panels = s.panels ∧ (s.withHbm v).fab = s.fab ∧ (s.withHbm v).cyc = s.cyc ∧
    (s.withHbm v).drw = s.drw ∧ (s.withHbm v).vnr = s.vnr ∧ (s.withHbm v).hbm = v ∧ (s.withHbm v).hbmUe = s.hbmUe ∧
    (s.withHbm v).alarms = s.alarms ∧ (s.withHbm v).queues = s.queues ∧ (s.withHbm v).winMap = s.winMap ∧
    (s.withHbm v).pinWin = s.pinWin ∧ (s.withHbm v).exports = s.exports ∧ (s.withHbm v).ldr = s.ldr ∧
    (s.withHbm v).bundles = s.bundles ∧ (s.withHbm v).topo = s.topo ∧ (s.withHbm v).trg = s.trg ∧
    (s.withHbm v).cap = s.cap ∧ (s.withHbm v).meas = s.meas ∧ (s.withHbm v).traces = s.traces ∧
    (s.withHbm v).cores = s.cores ∧ (s.withHbm v).shared = s.shared ∧ (s.withHbm v).sharedErr = s.sharedErr ∧
    (s.withHbm v).net = s.net ∧ (s.withHbm v).oldRoutes = s.oldRoutes ∧ (s.withHbm v).wd = s.wd ∧
    (s.withHbm v).gauges = s.gauges ∧ (s.withHbm v).lows = s.lows ∧ (s.withHbm v).ticks = s.ticks ∧
    (s.withHbm v).pins = s.pins ∧ (s.withHbm v).hst = s.hst ∧ (s.withHbm v).pwr = s.pwr ∧ (s.withHbm v).tap = s.tap :=
  ⟨rfl, rfl, rfl, rfl, rfl, rfl, rfl, rfl, rfl, rfl, rfl, rfl, rfl, rfl, rfl, rfl, rfl, rfl, rfl, rfl, 
    rfl, rfl, rfl, rfl, rfl, rfl, rfl, rfl, rfl, rfl, rfl, rfl, rfl, rfl, rfl, rfl, rfl, rfl⟩

@[simp] theorem State.withHbmUe_fields (s : State) (v : List Nat) :
    (s.withHbmUe v).pending = s.pending ∧ (s.withHbmUe v).regs = s.regs ∧ (s.withHbmUe v).hold = s.hold ∧
    (s.withHbmUe v).recent = s.recent ∧ (s.withHbmUe v).out = s.out ∧ (s.withHbmUe v).free = s.free ∧
    (s.withHbmUe v).panels = s.panels ∧ (s.withHbmUe v).fab = s.fab ∧ (s.withHbmUe v).cyc = s.cyc ∧
    (s.withHbmUe v).drw = s.drw ∧ (s.withHbmUe v).vnr = s.vnr ∧ (s.withHbmUe v).hbm = s.hbm ∧
    (s.withHbmUe v).hbmUe = v ∧ (s.withHbmUe v).alarms = s.alarms ∧ (s.withHbmUe v).queues = s.queues ∧
    (s.withHbmUe v).winMap = s.winMap ∧ (s.withHbmUe v).pinWin = s.pinWin ∧ (s.withHbmUe v).exports = s.exports ∧
    (s.withHbmUe v).ldr = s.ldr ∧ (s.withHbmUe v).bundles = s.bundles ∧ (s.withHbmUe v).topo = s.topo ∧
    (s.withHbmUe v).trg = s.trg ∧ (s.withHbmUe v).cap = s.cap ∧ (s.withHbmUe v).meas = s.meas ∧
    (s.withHbmUe v).traces = s.traces ∧ (s.withHbmUe v).cores = s.cores ∧ (s.withHbmUe v).shared = s.shared ∧
    (s.withHbmUe v).sharedErr = s.sharedErr ∧ (s.withHbmUe v).net = s.net ∧ (s.withHbmUe v).oldRoutes = s.oldRoutes ∧
    (s.withHbmUe v).wd = s.wd ∧ (s.withHbmUe v).gauges = s.gauges ∧ (s.withHbmUe v).lows = s.lows ∧
    (s.withHbmUe v).ticks = s.ticks ∧ (s.withHbmUe v).pins = s.pins ∧ (s.withHbmUe v).hst = s.hst ∧
    (s.withHbmUe v).pwr = s.pwr ∧ (s.withHbmUe v).tap = s.tap :=
  ⟨rfl, rfl, rfl, rfl, rfl, rfl, rfl, rfl, rfl, rfl, rfl, rfl, rfl, rfl, rfl, rfl, rfl, rfl, rfl, rfl, 
    rfl, rfl, rfl, rfl, rfl, rfl, rfl, rfl, rfl, rfl, rfl, rfl, rfl, rfl, rfl, rfl, rfl, rfl⟩

@[simp] theorem State.withAlarms_fields (s : State) (v : Tab Bool) :
    (s.withAlarms v).pending = s.pending ∧ (s.withAlarms v).regs = s.regs ∧ (s.withAlarms v).hold = s.hold ∧
    (s.withAlarms v).recent = s.recent ∧ (s.withAlarms v).out = s.out ∧ (s.withAlarms v).free = s.free ∧
    (s.withAlarms v).panels = s.panels ∧ (s.withAlarms v).fab = s.fab ∧ (s.withAlarms v).cyc = s.cyc ∧
    (s.withAlarms v).drw = s.drw ∧ (s.withAlarms v).vnr = s.vnr ∧ (s.withAlarms v).hbm = s.hbm ∧
    (s.withAlarms v).hbmUe = s.hbmUe ∧ (s.withAlarms v).alarms = v ∧ (s.withAlarms v).queues = s.queues ∧
    (s.withAlarms v).winMap = s.winMap ∧ (s.withAlarms v).pinWin = s.pinWin ∧ (s.withAlarms v).exports = s.exports ∧
    (s.withAlarms v).ldr = s.ldr ∧ (s.withAlarms v).bundles = s.bundles ∧ (s.withAlarms v).topo = s.topo ∧
    (s.withAlarms v).trg = s.trg ∧ (s.withAlarms v).cap = s.cap ∧ (s.withAlarms v).meas = s.meas ∧
    (s.withAlarms v).traces = s.traces ∧ (s.withAlarms v).cores = s.cores ∧ (s.withAlarms v).shared = s.shared ∧
    (s.withAlarms v).sharedErr = s.sharedErr ∧ (s.withAlarms v).net = s.net ∧
    (s.withAlarms v).oldRoutes = s.oldRoutes ∧ (s.withAlarms v).wd = s.wd ∧ (s.withAlarms v).gauges = s.gauges ∧
    (s.withAlarms v).lows = s.lows ∧ (s.withAlarms v).ticks = s.ticks ∧ (s.withAlarms v).pins = s.pins ∧
    (s.withAlarms v).hst = s.hst ∧ (s.withAlarms v).pwr = s.pwr ∧ (s.withAlarms v).tap = s.tap :=
  ⟨rfl, rfl, rfl, rfl, rfl, rfl, rfl, rfl, rfl, rfl, rfl, rfl, rfl, rfl, rfl, rfl, rfl, rfl, rfl, rfl, 
    rfl, rfl, rfl, rfl, rfl, rfl, rfl, rfl, rfl, rfl, rfl, rfl, rfl, rfl, rfl, rfl, rfl, rfl⟩

@[simp] theorem State.withQueues_fields (s : State) (v : Tab Queue) :
    (s.withQueues v).pending = s.pending ∧ (s.withQueues v).regs = s.regs ∧ (s.withQueues v).hold = s.hold ∧
    (s.withQueues v).recent = s.recent ∧ (s.withQueues v).out = s.out ∧ (s.withQueues v).free = s.free ∧
    (s.withQueues v).panels = s.panels ∧ (s.withQueues v).fab = s.fab ∧ (s.withQueues v).cyc = s.cyc ∧
    (s.withQueues v).drw = s.drw ∧ (s.withQueues v).vnr = s.vnr ∧ (s.withQueues v).hbm = s.hbm ∧
    (s.withQueues v).hbmUe = s.hbmUe ∧ (s.withQueues v).alarms = s.alarms ∧ (s.withQueues v).queues = v ∧
    (s.withQueues v).winMap = s.winMap ∧ (s.withQueues v).pinWin = s.pinWin ∧ (s.withQueues v).exports = s.exports ∧
    (s.withQueues v).ldr = s.ldr ∧ (s.withQueues v).bundles = s.bundles ∧ (s.withQueues v).topo = s.topo ∧
    (s.withQueues v).trg = s.trg ∧ (s.withQueues v).cap = s.cap ∧ (s.withQueues v).meas = s.meas ∧
    (s.withQueues v).traces = s.traces ∧ (s.withQueues v).cores = s.cores ∧ (s.withQueues v).shared = s.shared ∧
    (s.withQueues v).sharedErr = s.sharedErr ∧ (s.withQueues v).net = s.net ∧
    (s.withQueues v).oldRoutes = s.oldRoutes ∧ (s.withQueues v).wd = s.wd ∧ (s.withQueues v).gauges = s.gauges ∧
    (s.withQueues v).lows = s.lows ∧ (s.withQueues v).ticks = s.ticks ∧ (s.withQueues v).pins = s.pins ∧
    (s.withQueues v).hst = s.hst ∧ (s.withQueues v).pwr = s.pwr ∧ (s.withQueues v).tap = s.tap :=
  ⟨rfl, rfl, rfl, rfl, rfl, rfl, rfl, rfl, rfl, rfl, rfl, rfl, rfl, rfl, rfl, rfl, rfl, rfl, rfl, rfl, 
    rfl, rfl, rfl, rfl, rfl, rfl, rfl, rfl, rfl, rfl, rfl, rfl, rfl, rfl, rfl, rfl, rfl, rfl⟩

@[simp] theorem State.withWinMap_fields (s : State) (v : Tab (BitVec 16)) :
    (s.withWinMap v).pending = s.pending ∧ (s.withWinMap v).regs = s.regs ∧ (s.withWinMap v).hold = s.hold ∧
    (s.withWinMap v).recent = s.recent ∧ (s.withWinMap v).out = s.out ∧ (s.withWinMap v).free = s.free ∧
    (s.withWinMap v).panels = s.panels ∧ (s.withWinMap v).fab = s.fab ∧ (s.withWinMap v).cyc = s.cyc ∧
    (s.withWinMap v).drw = s.drw ∧ (s.withWinMap v).vnr = s.vnr ∧ (s.withWinMap v).hbm = s.hbm ∧
    (s.withWinMap v).hbmUe = s.hbmUe ∧ (s.withWinMap v).alarms = s.alarms ∧ (s.withWinMap v).queues = s.queues ∧
    (s.withWinMap v).winMap = v ∧ (s.withWinMap v).pinWin = s.pinWin ∧ (s.withWinMap v).exports = s.exports ∧
    (s.withWinMap v).ldr = s.ldr ∧ (s.withWinMap v).bundles = s.bundles ∧ (s.withWinMap v).topo = s.topo ∧
    (s.withWinMap v).trg = s.trg ∧ (s.withWinMap v).cap = s.cap ∧ (s.withWinMap v).meas = s.meas ∧
    (s.withWinMap v).traces = s.traces ∧ (s.withWinMap v).cores = s.cores ∧ (s.withWinMap v).shared = s.shared ∧
    (s.withWinMap v).sharedErr = s.sharedErr ∧ (s.withWinMap v).net = s.net ∧
    (s.withWinMap v).oldRoutes = s.oldRoutes ∧ (s.withWinMap v).wd = s.wd ∧ (s.withWinMap v).gauges = s.gauges ∧
    (s.withWinMap v).lows = s.lows ∧ (s.withWinMap v).ticks = s.ticks ∧ (s.withWinMap v).pins = s.pins ∧
    (s.withWinMap v).hst = s.hst ∧ (s.withWinMap v).pwr = s.pwr ∧ (s.withWinMap v).tap = s.tap :=
  ⟨rfl, rfl, rfl, rfl, rfl, rfl, rfl, rfl, rfl, rfl, rfl, rfl, rfl, rfl, rfl, rfl, rfl, rfl, rfl, rfl, 
    rfl, rfl, rfl, rfl, rfl, rfl, rfl, rfl, rfl, rfl, rfl, rfl, rfl, rfl, rfl, rfl, rfl, rfl⟩

@[simp] theorem State.withPinWin_fields (s : State) (v : Tab (BitVec 128)) :
    (s.withPinWin v).pending = s.pending ∧ (s.withPinWin v).regs = s.regs ∧ (s.withPinWin v).hold = s.hold ∧
    (s.withPinWin v).recent = s.recent ∧ (s.withPinWin v).out = s.out ∧ (s.withPinWin v).free = s.free ∧
    (s.withPinWin v).panels = s.panels ∧ (s.withPinWin v).fab = s.fab ∧ (s.withPinWin v).cyc = s.cyc ∧
    (s.withPinWin v).drw = s.drw ∧ (s.withPinWin v).vnr = s.vnr ∧ (s.withPinWin v).hbm = s.hbm ∧
    (s.withPinWin v).hbmUe = s.hbmUe ∧ (s.withPinWin v).alarms = s.alarms ∧ (s.withPinWin v).queues = s.queues ∧
    (s.withPinWin v).winMap = s.winMap ∧ (s.withPinWin v).pinWin = v ∧ (s.withPinWin v).exports = s.exports ∧
    (s.withPinWin v).ldr = s.ldr ∧ (s.withPinWin v).bundles = s.bundles ∧ (s.withPinWin v).topo = s.topo ∧
    (s.withPinWin v).trg = s.trg ∧ (s.withPinWin v).cap = s.cap ∧ (s.withPinWin v).meas = s.meas ∧
    (s.withPinWin v).traces = s.traces ∧ (s.withPinWin v).cores = s.cores ∧ (s.withPinWin v).shared = s.shared ∧
    (s.withPinWin v).sharedErr = s.sharedErr ∧ (s.withPinWin v).net = s.net ∧
    (s.withPinWin v).oldRoutes = s.oldRoutes ∧ (s.withPinWin v).wd = s.wd ∧ (s.withPinWin v).gauges = s.gauges ∧
    (s.withPinWin v).lows = s.lows ∧ (s.withPinWin v).ticks = s.ticks ∧ (s.withPinWin v).pins = s.pins ∧
    (s.withPinWin v).hst = s.hst ∧ (s.withPinWin v).pwr = s.pwr ∧ (s.withPinWin v).tap = s.tap :=
  ⟨rfl, rfl, rfl, rfl, rfl, rfl, rfl, rfl, rfl, rfl, rfl, rfl, rfl, rfl, rfl, rfl, rfl, rfl, rfl, rfl, 
    rfl, rfl, rfl, rfl, rfl, rfl, rfl, rfl, rfl, rfl, rfl, rfl, rfl, rfl, rfl, rfl, rfl, rfl⟩

@[simp] theorem State.withExports_fields (s : State) (v : Tab (Nat × Nat × Nat)) :
    (s.withExports v).pending = s.pending ∧ (s.withExports v).regs = s.regs ∧ (s.withExports v).hold = s.hold ∧
    (s.withExports v).recent = s.recent ∧ (s.withExports v).out = s.out ∧ (s.withExports v).free = s.free ∧
    (s.withExports v).panels = s.panels ∧ (s.withExports v).fab = s.fab ∧ (s.withExports v).cyc = s.cyc ∧
    (s.withExports v).drw = s.drw ∧ (s.withExports v).vnr = s.vnr ∧ (s.withExports v).hbm = s.hbm ∧
    (s.withExports v).hbmUe = s.hbmUe ∧ (s.withExports v).alarms = s.alarms ∧ (s.withExports v).queues = s.queues ∧
    (s.withExports v).winMap = s.winMap ∧ (s.withExports v).pinWin = s.pinWin ∧ (s.withExports v).exports = v ∧
    (s.withExports v).ldr = s.ldr ∧ (s.withExports v).bundles = s.bundles ∧ (s.withExports v).topo = s.topo ∧
    (s.withExports v).trg = s.trg ∧ (s.withExports v).cap = s.cap ∧ (s.withExports v).meas = s.meas ∧
    (s.withExports v).traces = s.traces ∧ (s.withExports v).cores = s.cores ∧ (s.withExports v).shared = s.shared ∧
    (s.withExports v).sharedErr = s.sharedErr ∧ (s.withExports v).net = s.net ∧
    (s.withExports v).oldRoutes = s.oldRoutes ∧ (s.withExports v).wd = s.wd ∧ (s.withExports v).gauges = s.gauges ∧
    (s.withExports v).lows = s.lows ∧ (s.withExports v).ticks = s.ticks ∧ (s.withExports v).pins = s.pins ∧
    (s.withExports v).hst = s.hst ∧ (s.withExports v).pwr = s.pwr ∧ (s.withExports v).tap = s.tap :=
  ⟨rfl, rfl, rfl, rfl, rfl, rfl, rfl, rfl, rfl, rfl, rfl, rfl, rfl, rfl, rfl, rfl, rfl, rfl, rfl, rfl, 
    rfl, rfl, rfl, rfl, rfl, rfl, rfl, rfl, rfl, rfl, rfl, rfl, rfl, rfl, rfl, rfl, rfl, rfl⟩

@[simp] theorem State.withLdr_fields (s : State) (v : Loader) :
    (s.withLdr v).pending = s.pending ∧ (s.withLdr v).regs = s.regs ∧ (s.withLdr v).hold = s.hold ∧
    (s.withLdr v).recent = s.recent ∧ (s.withLdr v).out = s.out ∧ (s.withLdr v).free = s.free ∧
    (s.withLdr v).panels = s.panels ∧ (s.withLdr v).fab = s.fab ∧ (s.withLdr v).cyc = s.cyc ∧
    (s.withLdr v).drw = s.drw ∧ (s.withLdr v).vnr = s.vnr ∧ (s.withLdr v).hbm = s.hbm ∧
    (s.withLdr v).hbmUe = s.hbmUe ∧ (s.withLdr v).alarms = s.alarms ∧ (s.withLdr v).queues = s.queues ∧
    (s.withLdr v).winMap = s.winMap ∧ (s.withLdr v).pinWin = s.pinWin ∧ (s.withLdr v).exports = s.exports ∧
    (s.withLdr v).ldr = v ∧ (s.withLdr v).bundles = s.bundles ∧ (s.withLdr v).topo = s.topo ∧
    (s.withLdr v).trg = s.trg ∧ (s.withLdr v).cap = s.cap ∧ (s.withLdr v).meas = s.meas ∧
    (s.withLdr v).traces = s.traces ∧ (s.withLdr v).cores = s.cores ∧ (s.withLdr v).shared = s.shared ∧
    (s.withLdr v).sharedErr = s.sharedErr ∧ (s.withLdr v).net = s.net ∧ (s.withLdr v).oldRoutes = s.oldRoutes ∧
    (s.withLdr v).wd = s.wd ∧ (s.withLdr v).gauges = s.gauges ∧ (s.withLdr v).lows = s.lows ∧
    (s.withLdr v).ticks = s.ticks ∧ (s.withLdr v).pins = s.pins ∧ (s.withLdr v).hst = s.hst ∧
    (s.withLdr v).pwr = s.pwr ∧ (s.withLdr v).tap = s.tap :=
  ⟨rfl, rfl, rfl, rfl, rfl, rfl, rfl, rfl, rfl, rfl, rfl, rfl, rfl, rfl, rfl, rfl, rfl, rfl, rfl, rfl, 
    rfl, rfl, rfl, rfl, rfl, rfl, rfl, rfl, rfl, rfl, rfl, rfl, rfl, rfl, rfl, rfl, rfl, rfl⟩

@[simp] theorem State.withBundles_fields (s : State) (v : Tab Bundle) :
    (s.withBundles v).pending = s.pending ∧ (s.withBundles v).regs = s.regs ∧ (s.withBundles v).hold = s.hold ∧
    (s.withBundles v).recent = s.recent ∧ (s.withBundles v).out = s.out ∧ (s.withBundles v).free = s.free ∧
    (s.withBundles v).panels = s.panels ∧ (s.withBundles v).fab = s.fab ∧ (s.withBundles v).cyc = s.cyc ∧
    (s.withBundles v).drw = s.drw ∧ (s.withBundles v).vnr = s.vnr ∧ (s.withBundles v).hbm = s.hbm ∧
    (s.withBundles v).hbmUe = s.hbmUe ∧ (s.withBundles v).alarms = s.alarms ∧ (s.withBundles v).queues = s.queues ∧
    (s.withBundles v).winMap = s.winMap ∧ (s.withBundles v).pinWin = s.pinWin ∧
    (s.withBundles v).exports = s.exports ∧ (s.withBundles v).ldr = s.ldr ∧ (s.withBundles v).bundles = v ∧
    (s.withBundles v).topo = s.topo ∧ (s.withBundles v).trg = s.trg ∧ (s.withBundles v).cap = s.cap ∧
    (s.withBundles v).meas = s.meas ∧ (s.withBundles v).traces = s.traces ∧ (s.withBundles v).cores = s.cores ∧
    (s.withBundles v).shared = s.shared ∧ (s.withBundles v).sharedErr = s.sharedErr ∧ (s.withBundles v).net = s.net ∧
    (s.withBundles v).oldRoutes = s.oldRoutes ∧ (s.withBundles v).wd = s.wd ∧ (s.withBundles v).gauges = s.gauges ∧
    (s.withBundles v).lows = s.lows ∧ (s.withBundles v).ticks = s.ticks ∧ (s.withBundles v).pins = s.pins ∧
    (s.withBundles v).hst = s.hst ∧ (s.withBundles v).pwr = s.pwr ∧ (s.withBundles v).tap = s.tap :=
  ⟨rfl, rfl, rfl, rfl, rfl, rfl, rfl, rfl, rfl, rfl, rfl, rfl, rfl, rfl, rfl, rfl, rfl, rfl, rfl, rfl, 
    rfl, rfl, rfl, rfl, rfl, rfl, rfl, rfl, rfl, rfl, rfl, rfl, rfl, rfl, rfl, rfl, rfl, rfl⟩

@[simp] theorem State.withTopo_fields (s : State) (v : Topology) :
    (s.withTopo v).pending = s.pending ∧ (s.withTopo v).regs = s.regs ∧ (s.withTopo v).hold = s.hold ∧
    (s.withTopo v).recent = s.recent ∧ (s.withTopo v).out = s.out ∧ (s.withTopo v).free = s.free ∧
    (s.withTopo v).panels = s.panels ∧ (s.withTopo v).fab = s.fab ∧ (s.withTopo v).cyc = s.cyc ∧
    (s.withTopo v).drw = s.drw ∧ (s.withTopo v).vnr = s.vnr ∧ (s.withTopo v).hbm = s.hbm ∧
    (s.withTopo v).hbmUe = s.hbmUe ∧ (s.withTopo v).alarms = s.alarms ∧ (s.withTopo v).queues = s.queues ∧
    (s.withTopo v).winMap = s.winMap ∧ (s.withTopo v).pinWin = s.pinWin ∧ (s.withTopo v).exports = s.exports ∧
    (s.withTopo v).ldr = s.ldr ∧ (s.withTopo v).bundles = s.bundles ∧ (s.withTopo v).topo = v ∧
    (s.withTopo v).trg = s.trg ∧ (s.withTopo v).cap = s.cap ∧ (s.withTopo v).meas = s.meas ∧
    (s.withTopo v).traces = s.traces ∧ (s.withTopo v).cores = s.cores ∧ (s.withTopo v).shared = s.shared ∧
    (s.withTopo v).sharedErr = s.sharedErr ∧ (s.withTopo v).net = s.net ∧ (s.withTopo v).oldRoutes = s.oldRoutes ∧
    (s.withTopo v).wd = s.wd ∧ (s.withTopo v).gauges = s.gauges ∧ (s.withTopo v).lows = s.lows ∧
    (s.withTopo v).ticks = s.ticks ∧ (s.withTopo v).pins = s.pins ∧ (s.withTopo v).hst = s.hst ∧
    (s.withTopo v).pwr = s.pwr ∧ (s.withTopo v).tap = s.tap :=
  ⟨rfl, rfl, rfl, rfl, rfl, rfl, rfl, rfl, rfl, rfl, rfl, rfl, rfl, rfl, rfl, rfl, rfl, rfl, rfl, rfl, 
    rfl, rfl, rfl, rfl, rfl, rfl, rfl, rfl, rfl, rfl, rfl, rfl, rfl, rfl, rfl, rfl, rfl, rfl⟩

@[simp] theorem State.withTrg_fields (s : State) (v : Trigger) :
    (s.withTrg v).pending = s.pending ∧ (s.withTrg v).regs = s.regs ∧ (s.withTrg v).hold = s.hold ∧
    (s.withTrg v).recent = s.recent ∧ (s.withTrg v).out = s.out ∧ (s.withTrg v).free = s.free ∧
    (s.withTrg v).panels = s.panels ∧ (s.withTrg v).fab = s.fab ∧ (s.withTrg v).cyc = s.cyc ∧
    (s.withTrg v).drw = s.drw ∧ (s.withTrg v).vnr = s.vnr ∧ (s.withTrg v).hbm = s.hbm ∧
    (s.withTrg v).hbmUe = s.hbmUe ∧ (s.withTrg v).alarms = s.alarms ∧ (s.withTrg v).queues = s.queues ∧
    (s.withTrg v).winMap = s.winMap ∧ (s.withTrg v).pinWin = s.pinWin ∧ (s.withTrg v).exports = s.exports ∧
    (s.withTrg v).ldr = s.ldr ∧ (s.withTrg v).bundles = s.bundles ∧ (s.withTrg v).topo = s.topo ∧
    (s.withTrg v).trg = v ∧ (s.withTrg v).cap = s.cap ∧ (s.withTrg v).meas = s.meas ∧
    (s.withTrg v).traces = s.traces ∧ (s.withTrg v).cores = s.cores ∧ (s.withTrg v).shared = s.shared ∧
    (s.withTrg v).sharedErr = s.sharedErr ∧ (s.withTrg v).net = s.net ∧ (s.withTrg v).oldRoutes = s.oldRoutes ∧
    (s.withTrg v).wd = s.wd ∧ (s.withTrg v).gauges = s.gauges ∧ (s.withTrg v).lows = s.lows ∧
    (s.withTrg v).ticks = s.ticks ∧ (s.withTrg v).pins = s.pins ∧ (s.withTrg v).hst = s.hst ∧
    (s.withTrg v).pwr = s.pwr ∧ (s.withTrg v).tap = s.tap :=
  ⟨rfl, rfl, rfl, rfl, rfl, rfl, rfl, rfl, rfl, rfl, rfl, rfl, rfl, rfl, rfl, rfl, rfl, rfl, rfl, rfl, 
    rfl, rfl, rfl, rfl, rfl, rfl, rfl, rfl, rfl, rfl, rfl, rfl, rfl, rfl, rfl, rfl, rfl, rfl⟩

@[simp] theorem State.withCap_fields (s : State) (v : Capture) :
    (s.withCap v).pending = s.pending ∧ (s.withCap v).regs = s.regs ∧ (s.withCap v).hold = s.hold ∧
    (s.withCap v).recent = s.recent ∧ (s.withCap v).out = s.out ∧ (s.withCap v).free = s.free ∧
    (s.withCap v).panels = s.panels ∧ (s.withCap v).fab = s.fab ∧ (s.withCap v).cyc = s.cyc ∧
    (s.withCap v).drw = s.drw ∧ (s.withCap v).vnr = s.vnr ∧ (s.withCap v).hbm = s.hbm ∧
    (s.withCap v).hbmUe = s.hbmUe ∧ (s.withCap v).alarms = s.alarms ∧ (s.withCap v).queues = s.queues ∧
    (s.withCap v).winMap = s.winMap ∧ (s.withCap v).pinWin = s.pinWin ∧ (s.withCap v).exports = s.exports ∧
    (s.withCap v).ldr = s.ldr ∧ (s.withCap v).bundles = s.bundles ∧ (s.withCap v).topo = s.topo ∧
    (s.withCap v).trg = s.trg ∧ (s.withCap v).cap = v ∧ (s.withCap v).meas = s.meas ∧
    (s.withCap v).traces = s.traces ∧ (s.withCap v).cores = s.cores ∧ (s.withCap v).shared = s.shared ∧
    (s.withCap v).sharedErr = s.sharedErr ∧ (s.withCap v).net = s.net ∧ (s.withCap v).oldRoutes = s.oldRoutes ∧
    (s.withCap v).wd = s.wd ∧ (s.withCap v).gauges = s.gauges ∧ (s.withCap v).lows = s.lows ∧
    (s.withCap v).ticks = s.ticks ∧ (s.withCap v).pins = s.pins ∧ (s.withCap v).hst = s.hst ∧
    (s.withCap v).pwr = s.pwr ∧ (s.withCap v).tap = s.tap :=
  ⟨rfl, rfl, rfl, rfl, rfl, rfl, rfl, rfl, rfl, rfl, rfl, rfl, rfl, rfl, rfl, rfl, rfl, rfl, rfl, rfl, 
    rfl, rfl, rfl, rfl, rfl, rfl, rfl, rfl, rfl, rfl, rfl, rfl, rfl, rfl, rfl, rfl, rfl, rfl⟩

@[simp] theorem State.withMeas_fields (s : State) (v : Tab Meas) :
    (s.withMeas v).pending = s.pending ∧ (s.withMeas v).regs = s.regs ∧ (s.withMeas v).hold = s.hold ∧
    (s.withMeas v).recent = s.recent ∧ (s.withMeas v).out = s.out ∧ (s.withMeas v).free = s.free ∧
    (s.withMeas v).panels = s.panels ∧ (s.withMeas v).fab = s.fab ∧ (s.withMeas v).cyc = s.cyc ∧
    (s.withMeas v).drw = s.drw ∧ (s.withMeas v).vnr = s.vnr ∧ (s.withMeas v).hbm = s.hbm ∧
    (s.withMeas v).hbmUe = s.hbmUe ∧ (s.withMeas v).alarms = s.alarms ∧ (s.withMeas v).queues = s.queues ∧
    (s.withMeas v).winMap = s.winMap ∧ (s.withMeas v).pinWin = s.pinWin ∧ (s.withMeas v).exports = s.exports ∧
    (s.withMeas v).ldr = s.ldr ∧ (s.withMeas v).bundles = s.bundles ∧ (s.withMeas v).topo = s.topo ∧
    (s.withMeas v).trg = s.trg ∧ (s.withMeas v).cap = s.cap ∧ (s.withMeas v).meas = v ∧
    (s.withMeas v).traces = s.traces ∧ (s.withMeas v).cores = s.cores ∧ (s.withMeas v).shared = s.shared ∧
    (s.withMeas v).sharedErr = s.sharedErr ∧ (s.withMeas v).net = s.net ∧ (s.withMeas v).oldRoutes = s.oldRoutes ∧
    (s.withMeas v).wd = s.wd ∧ (s.withMeas v).gauges = s.gauges ∧ (s.withMeas v).lows = s.lows ∧
    (s.withMeas v).ticks = s.ticks ∧ (s.withMeas v).pins = s.pins ∧ (s.withMeas v).hst = s.hst ∧
    (s.withMeas v).pwr = s.pwr ∧ (s.withMeas v).tap = s.tap :=
  ⟨rfl, rfl, rfl, rfl, rfl, rfl, rfl, rfl, rfl, rfl, rfl, rfl, rfl, rfl, rfl, rfl, rfl, rfl, rfl, rfl, 
    rfl, rfl, rfl, rfl, rfl, rfl, rfl, rfl, rfl, rfl, rfl, rfl, rfl, rfl, rfl, rfl, rfl, rfl⟩

@[simp] theorem State.withTraces_fields (s : State) (v : Tab TraceUnit) :
    (s.withTraces v).pending = s.pending ∧ (s.withTraces v).regs = s.regs ∧ (s.withTraces v).hold = s.hold ∧
    (s.withTraces v).recent = s.recent ∧ (s.withTraces v).out = s.out ∧ (s.withTraces v).free = s.free ∧
    (s.withTraces v).panels = s.panels ∧ (s.withTraces v).fab = s.fab ∧ (s.withTraces v).cyc = s.cyc ∧
    (s.withTraces v).drw = s.drw ∧ (s.withTraces v).vnr = s.vnr ∧ (s.withTraces v).hbm = s.hbm ∧
    (s.withTraces v).hbmUe = s.hbmUe ∧ (s.withTraces v).alarms = s.alarms ∧ (s.withTraces v).queues = s.queues ∧
    (s.withTraces v).winMap = s.winMap ∧ (s.withTraces v).pinWin = s.pinWin ∧ (s.withTraces v).exports = s.exports ∧
    (s.withTraces v).ldr = s.ldr ∧ (s.withTraces v).bundles = s.bundles ∧ (s.withTraces v).topo = s.topo ∧
    (s.withTraces v).trg = s.trg ∧ (s.withTraces v).cap = s.cap ∧ (s.withTraces v).meas = s.meas ∧
    (s.withTraces v).traces = v ∧ (s.withTraces v).cores = s.cores ∧ (s.withTraces v).shared = s.shared ∧
    (s.withTraces v).sharedErr = s.sharedErr ∧ (s.withTraces v).net = s.net ∧
    (s.withTraces v).oldRoutes = s.oldRoutes ∧ (s.withTraces v).wd = s.wd ∧ (s.withTraces v).gauges = s.gauges ∧
    (s.withTraces v).lows = s.lows ∧ (s.withTraces v).ticks = s.ticks ∧ (s.withTraces v).pins = s.pins ∧
    (s.withTraces v).hst = s.hst ∧ (s.withTraces v).pwr = s.pwr ∧ (s.withTraces v).tap = s.tap :=
  ⟨rfl, rfl, rfl, rfl, rfl, rfl, rfl, rfl, rfl, rfl, rfl, rfl, rfl, rfl, rfl, rfl, rfl, rfl, rfl, rfl, 
    rfl, rfl, rfl, rfl, rfl, rfl, rfl, rfl, rfl, rfl, rfl, rfl, rfl, rfl, rfl, rfl, rfl, rfl⟩

@[simp] theorem State.withCores_fields (s : State) (v : Tab Core) :
    (s.withCores v).pending = s.pending ∧ (s.withCores v).regs = s.regs ∧ (s.withCores v).hold = s.hold ∧
    (s.withCores v).recent = s.recent ∧ (s.withCores v).out = s.out ∧ (s.withCores v).free = s.free ∧
    (s.withCores v).panels = s.panels ∧ (s.withCores v).fab = s.fab ∧ (s.withCores v).cyc = s.cyc ∧
    (s.withCores v).drw = s.drw ∧ (s.withCores v).vnr = s.vnr ∧ (s.withCores v).hbm = s.hbm ∧
    (s.withCores v).hbmUe = s.hbmUe ∧ (s.withCores v).alarms = s.alarms ∧ (s.withCores v).queues = s.queues ∧
    (s.withCores v).winMap = s.winMap ∧ (s.withCores v).pinWin = s.pinWin ∧ (s.withCores v).exports = s.exports ∧
    (s.withCores v).ldr = s.ldr ∧ (s.withCores v).bundles = s.bundles ∧ (s.withCores v).topo = s.topo ∧
    (s.withCores v).trg = s.trg ∧ (s.withCores v).cap = s.cap ∧ (s.withCores v).meas = s.meas ∧
    (s.withCores v).traces = s.traces ∧ (s.withCores v).cores = v ∧ (s.withCores v).shared = s.shared ∧
    (s.withCores v).sharedErr = s.sharedErr ∧ (s.withCores v).net = s.net ∧ (s.withCores v).oldRoutes = s.oldRoutes ∧
    (s.withCores v).wd = s.wd ∧ (s.withCores v).gauges = s.gauges ∧ (s.withCores v).lows = s.lows ∧
    (s.withCores v).ticks = s.ticks ∧ (s.withCores v).pins = s.pins ∧ (s.withCores v).hst = s.hst ∧
    (s.withCores v).pwr = s.pwr ∧ (s.withCores v).tap = s.tap :=
  ⟨rfl, rfl, rfl, rfl, rfl, rfl, rfl, rfl, rfl, rfl, rfl, rfl, rfl, rfl, rfl, rfl, rfl, rfl, rfl, rfl, 
    rfl, rfl, rfl, rfl, rfl, rfl, rfl, rfl, rfl, rfl, rfl, rfl, rfl, rfl, rfl, rfl, rfl, rfl⟩

@[simp] theorem State.withShared_fields (s : State) (v : Tab Word) :
    (s.withShared v).pending = s.pending ∧ (s.withShared v).regs = s.regs ∧ (s.withShared v).hold = s.hold ∧
    (s.withShared v).recent = s.recent ∧ (s.withShared v).out = s.out ∧ (s.withShared v).free = s.free ∧
    (s.withShared v).panels = s.panels ∧ (s.withShared v).fab = s.fab ∧ (s.withShared v).cyc = s.cyc ∧
    (s.withShared v).drw = s.drw ∧ (s.withShared v).vnr = s.vnr ∧ (s.withShared v).hbm = s.hbm ∧
    (s.withShared v).hbmUe = s.hbmUe ∧ (s.withShared v).alarms = s.alarms ∧ (s.withShared v).queues = s.queues ∧
    (s.withShared v).winMap = s.winMap ∧ (s.withShared v).pinWin = s.pinWin ∧ (s.withShared v).exports = s.exports ∧
    (s.withShared v).ldr = s.ldr ∧ (s.withShared v).bundles = s.bundles ∧ (s.withShared v).topo = s.topo ∧
    (s.withShared v).trg = s.trg ∧ (s.withShared v).cap = s.cap ∧ (s.withShared v).meas = s.meas ∧
    (s.withShared v).traces = s.traces ∧ (s.withShared v).cores = s.cores ∧ (s.withShared v).shared = v ∧
    (s.withShared v).sharedErr = s.sharedErr ∧ (s.withShared v).net = s.net ∧
    (s.withShared v).oldRoutes = s.oldRoutes ∧ (s.withShared v).wd = s.wd ∧ (s.withShared v).gauges = s.gauges ∧
    (s.withShared v).lows = s.lows ∧ (s.withShared v).ticks = s.ticks ∧ (s.withShared v).pins = s.pins ∧
    (s.withShared v).hst = s.hst ∧ (s.withShared v).pwr = s.pwr ∧ (s.withShared v).tap = s.tap :=
  ⟨rfl, rfl, rfl, rfl, rfl, rfl, rfl, rfl, rfl, rfl, rfl, rfl, rfl, rfl, rfl, rfl, rfl, rfl, rfl, rfl, 
    rfl, rfl, rfl, rfl, rfl, rfl, rfl, rfl, rfl, rfl, rfl, rfl, rfl, rfl, rfl, rfl, rfl, rfl⟩

@[simp] theorem State.withSharedErr_fields (s : State) (v : Tab EccClass) :
    (s.withSharedErr v).pending = s.pending ∧ (s.withSharedErr v).regs = s.regs ∧ (s.withSharedErr v).hold = s.hold ∧
    (s.withSharedErr v).recent = s.recent ∧ (s.withSharedErr v).out = s.out ∧ (s.withSharedErr v).free = s.free ∧
    (s.withSharedErr v).panels = s.panels ∧ (s.withSharedErr v).fab = s.fab ∧ (s.withSharedErr v).cyc = s.cyc ∧
    (s.withSharedErr v).drw = s.drw ∧ (s.withSharedErr v).vnr = s.vnr ∧ (s.withSharedErr v).hbm = s.hbm ∧
    (s.withSharedErr v).hbmUe = s.hbmUe ∧ (s.withSharedErr v).alarms = s.alarms ∧
    (s.withSharedErr v).queues = s.queues ∧ (s.withSharedErr v).winMap = s.winMap ∧
    (s.withSharedErr v).pinWin = s.pinWin ∧ (s.withSharedErr v).exports = s.exports ∧
    (s.withSharedErr v).ldr = s.ldr ∧ (s.withSharedErr v).bundles = s.bundles ∧ (s.withSharedErr v).topo = s.topo ∧
    (s.withSharedErr v).trg = s.trg ∧ (s.withSharedErr v).cap = s.cap ∧ (s.withSharedErr v).meas = s.meas ∧
    (s.withSharedErr v).traces = s.traces ∧ (s.withSharedErr v).cores = s.cores ∧
    (s.withSharedErr v).shared = s.shared ∧ (s.withSharedErr v).sharedErr = v ∧ (s.withSharedErr v).net = s.net ∧
    (s.withSharedErr v).oldRoutes = s.oldRoutes ∧ (s.withSharedErr v).wd = s.wd ∧
    (s.withSharedErr v).gauges = s.gauges ∧ (s.withSharedErr v).lows = s.lows ∧ (s.withSharedErr v).ticks = s.ticks ∧
    (s.withSharedErr v).pins = s.pins ∧ (s.withSharedErr v).hst = s.hst ∧ (s.withSharedErr v).pwr = s.pwr ∧
    (s.withSharedErr v).tap = s.tap :=
  ⟨rfl, rfl, rfl, rfl, rfl, rfl, rfl, rfl, rfl, rfl, rfl, rfl, rfl, rfl, rfl, rfl, rfl, rfl, rfl, rfl, 
    rfl, rfl, rfl, rfl, rfl, rfl, rfl, rfl, rfl, rfl, rfl, rfl, rfl, rfl, rfl, rfl, rfl, rfl⟩

@[simp] theorem State.withNet_fields (s : State) (v : List RingReq) :
    (s.withNet v).pending = s.pending ∧ (s.withNet v).regs = s.regs ∧ (s.withNet v).hold = s.hold ∧
    (s.withNet v).recent = s.recent ∧ (s.withNet v).out = s.out ∧ (s.withNet v).free = s.free ∧
    (s.withNet v).panels = s.panels ∧ (s.withNet v).fab = s.fab ∧ (s.withNet v).cyc = s.cyc ∧
    (s.withNet v).drw = s.drw ∧ (s.withNet v).vnr = s.vnr ∧ (s.withNet v).hbm = s.hbm ∧
    (s.withNet v).hbmUe = s.hbmUe ∧ (s.withNet v).alarms = s.alarms ∧ (s.withNet v).queues = s.queues ∧
    (s.withNet v).winMap = s.winMap ∧ (s.withNet v).pinWin = s.pinWin ∧ (s.withNet v).exports = s.exports ∧
    (s.withNet v).ldr = s.ldr ∧ (s.withNet v).bundles = s.bundles ∧ (s.withNet v).topo = s.topo ∧
    (s.withNet v).trg = s.trg ∧ (s.withNet v).cap = s.cap ∧ (s.withNet v).meas = s.meas ∧
    (s.withNet v).traces = s.traces ∧ (s.withNet v).cores = s.cores ∧ (s.withNet v).shared = s.shared ∧
    (s.withNet v).sharedErr = s.sharedErr ∧ (s.withNet v).net = v ∧ (s.withNet v).oldRoutes = s.oldRoutes ∧
    (s.withNet v).wd = s.wd ∧ (s.withNet v).gauges = s.gauges ∧ (s.withNet v).lows = s.lows ∧
    (s.withNet v).ticks = s.ticks ∧ (s.withNet v).pins = s.pins ∧ (s.withNet v).hst = s.hst ∧
    (s.withNet v).pwr = s.pwr ∧ (s.withNet v).tap = s.tap :=
  ⟨rfl, rfl, rfl, rfl, rfl, rfl, rfl, rfl, rfl, rfl, rfl, rfl, rfl, rfl, rfl, rfl, rfl, rfl, rfl, rfl, 
    rfl, rfl, rfl, rfl, rfl, rfl, rfl, rfl, rfl, rfl, rfl, rfl, rfl, rfl, rfl, rfl, rfl, rfl⟩

@[simp] theorem State.withOldRoutes_fields (s : State) (v : Tab (Option (BitVec 2))) :
    (s.withOldRoutes v).pending = s.pending ∧ (s.withOldRoutes v).regs = s.regs ∧ (s.withOldRoutes v).hold = s.hold ∧
    (s.withOldRoutes v).recent = s.recent ∧ (s.withOldRoutes v).out = s.out ∧ (s.withOldRoutes v).free = s.free ∧
    (s.withOldRoutes v).panels = s.panels ∧ (s.withOldRoutes v).fab = s.fab ∧ (s.withOldRoutes v).cyc = s.cyc ∧
    (s.withOldRoutes v).drw = s.drw ∧ (s.withOldRoutes v).vnr = s.vnr ∧ (s.withOldRoutes v).hbm = s.hbm ∧
    (s.withOldRoutes v).hbmUe = s.hbmUe ∧ (s.withOldRoutes v).alarms = s.alarms ∧
    (s.withOldRoutes v).queues = s.queues ∧ (s.withOldRoutes v).winMap = s.winMap ∧
    (s.withOldRoutes v).pinWin = s.pinWin ∧ (s.withOldRoutes v).exports = s.exports ∧
    (s.withOldRoutes v).ldr = s.ldr ∧ (s.withOldRoutes v).bundles = s.bundles ∧ (s.withOldRoutes v).topo = s.topo ∧
    (s.withOldRoutes v).trg = s.trg ∧ (s.withOldRoutes v).cap = s.cap ∧ (s.withOldRoutes v).meas = s.meas ∧
    (s.withOldRoutes v).traces = s.traces ∧ (s.withOldRoutes v).cores = s.cores ∧
    (s.withOldRoutes v).shared = s.shared ∧ (s.withOldRoutes v).sharedErr = s.sharedErr ∧
    (s.withOldRoutes v).net = s.net ∧ (s.withOldRoutes v).oldRoutes = v ∧ (s.withOldRoutes v).wd = s.wd ∧
    (s.withOldRoutes v).gauges = s.gauges ∧ (s.withOldRoutes v).lows = s.lows ∧ (s.withOldRoutes v).ticks = s.ticks ∧
    (s.withOldRoutes v).pins = s.pins ∧ (s.withOldRoutes v).hst = s.hst ∧ (s.withOldRoutes v).pwr = s.pwr ∧
    (s.withOldRoutes v).tap = s.tap :=
  ⟨rfl, rfl, rfl, rfl, rfl, rfl, rfl, rfl, rfl, rfl, rfl, rfl, rfl, rfl, rfl, rfl, rfl, rfl, rfl, rfl, 
    rfl, rfl, rfl, rfl, rfl, rfl, rfl, rfl, rfl, rfl, rfl, rfl, rfl, rfl, rfl, rfl, rfl, rfl⟩

@[simp] theorem State.withWd_fields (s : State) (v : Dispatcher) :
    (s.withWd v).pending = s.pending ∧ (s.withWd v).regs = s.regs ∧ (s.withWd v).hold = s.hold ∧
    (s.withWd v).recent = s.recent ∧ (s.withWd v).out = s.out ∧ (s.withWd v).free = s.free ∧
    (s.withWd v).panels = s.panels ∧ (s.withWd v).fab = s.fab ∧ (s.withWd v).cyc = s.cyc ∧ (s.withWd v).drw = s.drw ∧
    (s.withWd v).vnr = s.vnr ∧ (s.withWd v).hbm = s.hbm ∧ (s.withWd v).hbmUe = s.hbmUe ∧
    (s.withWd v).alarms = s.alarms ∧ (s.withWd v).queues = s.queues ∧ (s.withWd v).winMap = s.winMap ∧
    (s.withWd v).pinWin = s.pinWin ∧ (s.withWd v).exports = s.exports ∧ (s.withWd v).ldr = s.ldr ∧
    (s.withWd v).bundles = s.bundles ∧ (s.withWd v).topo = s.topo ∧ (s.withWd v).trg = s.trg ∧
    (s.withWd v).cap = s.cap ∧ (s.withWd v).meas = s.meas ∧ (s.withWd v).traces = s.traces ∧
    (s.withWd v).cores = s.cores ∧ (s.withWd v).shared = s.shared ∧ (s.withWd v).sharedErr = s.sharedErr ∧
    (s.withWd v).net = s.net ∧ (s.withWd v).oldRoutes = s.oldRoutes ∧ (s.withWd v).wd = v ∧
    (s.withWd v).gauges = s.gauges ∧ (s.withWd v).lows = s.lows ∧ (s.withWd v).ticks = s.ticks ∧
    (s.withWd v).pins = s.pins ∧ (s.withWd v).hst = s.hst ∧ (s.withWd v).pwr = s.pwr ∧ (s.withWd v).tap = s.tap :=
  ⟨rfl, rfl, rfl, rfl, rfl, rfl, rfl, rfl, rfl, rfl, rfl, rfl, rfl, rfl, rfl, rfl, rfl, rfl, rfl, rfl, 
    rfl, rfl, rfl, rfl, rfl, rfl, rfl, rfl, rfl, rfl, rfl, rfl, rfl, rfl, rfl, rfl, rfl, rfl⟩

@[simp] theorem State.withGauges_fields (s : State) (v : Tab Gauge) :
    (s.withGauges v).pending = s.pending ∧ (s.withGauges v).regs = s.regs ∧ (s.withGauges v).hold = s.hold ∧
    (s.withGauges v).recent = s.recent ∧ (s.withGauges v).out = s.out ∧ (s.withGauges v).free = s.free ∧
    (s.withGauges v).panels = s.panels ∧ (s.withGauges v).fab = s.fab ∧ (s.withGauges v).cyc = s.cyc ∧
    (s.withGauges v).drw = s.drw ∧ (s.withGauges v).vnr = s.vnr ∧ (s.withGauges v).hbm = s.hbm ∧
    (s.withGauges v).hbmUe = s.hbmUe ∧ (s.withGauges v).alarms = s.alarms ∧ (s.withGauges v).queues = s.queues ∧
    (s.withGauges v).winMap = s.winMap ∧ (s.withGauges v).pinWin = s.pinWin ∧ (s.withGauges v).exports = s.exports ∧
    (s.withGauges v).ldr = s.ldr ∧ (s.withGauges v).bundles = s.bundles ∧ (s.withGauges v).topo = s.topo ∧
    (s.withGauges v).trg = s.trg ∧ (s.withGauges v).cap = s.cap ∧ (s.withGauges v).meas = s.meas ∧
    (s.withGauges v).traces = s.traces ∧ (s.withGauges v).cores = s.cores ∧ (s.withGauges v).shared = s.shared ∧
    (s.withGauges v).sharedErr = s.sharedErr ∧ (s.withGauges v).net = s.net ∧
    (s.withGauges v).oldRoutes = s.oldRoutes ∧ (s.withGauges v).wd = s.wd ∧ (s.withGauges v).gauges = v ∧
    (s.withGauges v).lows = s.lows ∧ (s.withGauges v).ticks = s.ticks ∧ (s.withGauges v).pins = s.pins ∧
    (s.withGauges v).hst = s.hst ∧ (s.withGauges v).pwr = s.pwr ∧ (s.withGauges v).tap = s.tap :=
  ⟨rfl, rfl, rfl, rfl, rfl, rfl, rfl, rfl, rfl, rfl, rfl, rfl, rfl, rfl, rfl, rfl, rfl, rfl, rfl, rfl, 
    rfl, rfl, rfl, rfl, rfl, rfl, rfl, rfl, rfl, rfl, rfl, rfl, rfl, rfl, rfl, rfl, rfl, rfl⟩

@[simp] theorem State.withLows_fields (s : State) (v : Tab (Option Word)) :
    (s.withLows v).pending = s.pending ∧ (s.withLows v).regs = s.regs ∧ (s.withLows v).hold = s.hold ∧
    (s.withLows v).recent = s.recent ∧ (s.withLows v).out = s.out ∧ (s.withLows v).free = s.free ∧
    (s.withLows v).panels = s.panels ∧ (s.withLows v).fab = s.fab ∧ (s.withLows v).cyc = s.cyc ∧
    (s.withLows v).drw = s.drw ∧ (s.withLows v).vnr = s.vnr ∧ (s.withLows v).hbm = s.hbm ∧
    (s.withLows v).hbmUe = s.hbmUe ∧ (s.withLows v).alarms = s.alarms ∧ (s.withLows v).queues = s.queues ∧
    (s.withLows v).winMap = s.winMap ∧ (s.withLows v).pinWin = s.pinWin ∧ (s.withLows v).exports = s.exports ∧
    (s.withLows v).ldr = s.ldr ∧ (s.withLows v).bundles = s.bundles ∧ (s.withLows v).topo = s.topo ∧
    (s.withLows v).trg = s.trg ∧ (s.withLows v).cap = s.cap ∧ (s.withLows v).meas = s.meas ∧
    (s.withLows v).traces = s.traces ∧ (s.withLows v).cores = s.cores ∧ (s.withLows v).shared = s.shared ∧
    (s.withLows v).sharedErr = s.sharedErr ∧ (s.withLows v).net = s.net ∧ (s.withLows v).oldRoutes = s.oldRoutes ∧
    (s.withLows v).wd = s.wd ∧ (s.withLows v).gauges = s.gauges ∧ (s.withLows v).lows = v ∧
    (s.withLows v).ticks = s.ticks ∧ (s.withLows v).pins = s.pins ∧ (s.withLows v).hst = s.hst ∧
    (s.withLows v).pwr = s.pwr ∧ (s.withLows v).tap = s.tap :=
  ⟨rfl, rfl, rfl, rfl, rfl, rfl, rfl, rfl, rfl, rfl, rfl, rfl, rfl, rfl, rfl, rfl, rfl, rfl, rfl, rfl, 
    rfl, rfl, rfl, rfl, rfl, rfl, rfl, rfl, rfl, rfl, rfl, rfl, rfl, rfl, rfl, rfl, rfl, rfl⟩

@[simp] theorem State.withTicks_fields (s : State) (v : Nat) :
    (s.withTicks v).pending = s.pending ∧ (s.withTicks v).regs = s.regs ∧ (s.withTicks v).hold = s.hold ∧
    (s.withTicks v).recent = s.recent ∧ (s.withTicks v).out = s.out ∧ (s.withTicks v).free = s.free ∧
    (s.withTicks v).panels = s.panels ∧ (s.withTicks v).fab = s.fab ∧ (s.withTicks v).cyc = s.cyc ∧
    (s.withTicks v).drw = s.drw ∧ (s.withTicks v).vnr = s.vnr ∧ (s.withTicks v).hbm = s.hbm ∧
    (s.withTicks v).hbmUe = s.hbmUe ∧ (s.withTicks v).alarms = s.alarms ∧ (s.withTicks v).queues = s.queues ∧
    (s.withTicks v).winMap = s.winMap ∧ (s.withTicks v).pinWin = s.pinWin ∧ (s.withTicks v).exports = s.exports ∧
    (s.withTicks v).ldr = s.ldr ∧ (s.withTicks v).bundles = s.bundles ∧ (s.withTicks v).topo = s.topo ∧
    (s.withTicks v).trg = s.trg ∧ (s.withTicks v).cap = s.cap ∧ (s.withTicks v).meas = s.meas ∧
    (s.withTicks v).traces = s.traces ∧ (s.withTicks v).cores = s.cores ∧ (s.withTicks v).shared = s.shared ∧
    (s.withTicks v).sharedErr = s.sharedErr ∧ (s.withTicks v).net = s.net ∧ (s.withTicks v).oldRoutes = s.oldRoutes ∧
    (s.withTicks v).wd = s.wd ∧ (s.withTicks v).gauges = s.gauges ∧ (s.withTicks v).lows = s.lows ∧
    (s.withTicks v).ticks = v ∧ (s.withTicks v).pins = s.pins ∧ (s.withTicks v).hst = s.hst ∧
    (s.withTicks v).pwr = s.pwr ∧ (s.withTicks v).tap = s.tap :=
  ⟨rfl, rfl, rfl, rfl, rfl, rfl, rfl, rfl, rfl, rfl, rfl, rfl, rfl, rfl, rfl, rfl, rfl, rfl, rfl, rfl, 
    rfl, rfl, rfl, rfl, rfl, rfl, rfl, rfl, rfl, rfl, rfl, rfl, rfl, rfl, rfl, rfl, rfl, rfl⟩

@[simp] theorem State.withPins_fields (s : State) (v : Pins) :
    (s.withPins v).pending = s.pending ∧ (s.withPins v).regs = s.regs ∧ (s.withPins v).hold = s.hold ∧
    (s.withPins v).recent = s.recent ∧ (s.withPins v).out = s.out ∧ (s.withPins v).free = s.free ∧
    (s.withPins v).panels = s.panels ∧ (s.withPins v).fab = s.fab ∧ (s.withPins v).cyc = s.cyc ∧
    (s.withPins v).drw = s.drw ∧ (s.withPins v).vnr = s.vnr ∧ (s.withPins v).hbm = s.hbm ∧
    (s.withPins v).hbmUe = s.hbmUe ∧ (s.withPins v).alarms = s.alarms ∧ (s.withPins v).queues = s.queues ∧
    (s.withPins v).winMap = s.winMap ∧ (s.withPins v).pinWin = s.pinWin ∧ (s.withPins v).exports = s.exports ∧
    (s.withPins v).ldr = s.ldr ∧ (s.withPins v).bundles = s.bundles ∧ (s.withPins v).topo = s.topo ∧
    (s.withPins v).trg = s.trg ∧ (s.withPins v).cap = s.cap ∧ (s.withPins v).meas = s.meas ∧
    (s.withPins v).traces = s.traces ∧ (s.withPins v).cores = s.cores ∧ (s.withPins v).shared = s.shared ∧
    (s.withPins v).sharedErr = s.sharedErr ∧ (s.withPins v).net = s.net ∧ (s.withPins v).oldRoutes = s.oldRoutes ∧
    (s.withPins v).wd = s.wd ∧ (s.withPins v).gauges = s.gauges ∧ (s.withPins v).lows = s.lows ∧
    (s.withPins v).ticks = s.ticks ∧ (s.withPins v).pins = v ∧ (s.withPins v).hst = s.hst ∧
    (s.withPins v).pwr = s.pwr ∧ (s.withPins v).tap = s.tap :=
  ⟨rfl, rfl, rfl, rfl, rfl, rfl, rfl, rfl, rfl, rfl, rfl, rfl, rfl, rfl, rfl, rfl, rfl, rfl, rfl, rfl, 
    rfl, rfl, rfl, rfl, rfl, rfl, rfl, rfl, rfl, rfl, rfl, rfl, rfl, rfl, rfl, rfl, rfl, rfl⟩

@[simp] theorem State.withHst_fields (s : State) (v : HostIf) :
    (s.withHst v).pending = s.pending ∧ (s.withHst v).regs = s.regs ∧ (s.withHst v).hold = s.hold ∧
    (s.withHst v).recent = s.recent ∧ (s.withHst v).out = s.out ∧ (s.withHst v).free = s.free ∧
    (s.withHst v).panels = s.panels ∧ (s.withHst v).fab = s.fab ∧ (s.withHst v).cyc = s.cyc ∧
    (s.withHst v).drw = s.drw ∧ (s.withHst v).vnr = s.vnr ∧ (s.withHst v).hbm = s.hbm ∧
    (s.withHst v).hbmUe = s.hbmUe ∧ (s.withHst v).alarms = s.alarms ∧ (s.withHst v).queues = s.queues ∧
    (s.withHst v).winMap = s.winMap ∧ (s.withHst v).pinWin = s.pinWin ∧ (s.withHst v).exports = s.exports ∧
    (s.withHst v).ldr = s.ldr ∧ (s.withHst v).bundles = s.bundles ∧ (s.withHst v).topo = s.topo ∧
    (s.withHst v).trg = s.trg ∧ (s.withHst v).cap = s.cap ∧ (s.withHst v).meas = s.meas ∧
    (s.withHst v).traces = s.traces ∧ (s.withHst v).cores = s.cores ∧ (s.withHst v).shared = s.shared ∧
    (s.withHst v).sharedErr = s.sharedErr ∧ (s.withHst v).net = s.net ∧ (s.withHst v).oldRoutes = s.oldRoutes ∧
    (s.withHst v).wd = s.wd ∧ (s.withHst v).gauges = s.gauges ∧ (s.withHst v).lows = s.lows ∧
    (s.withHst v).ticks = s.ticks ∧ (s.withHst v).pins = s.pins ∧ (s.withHst v).hst = v ∧ (s.withHst v).pwr = s.pwr ∧
    (s.withHst v).tap = s.tap :=
  ⟨rfl, rfl, rfl, rfl, rfl, rfl, rfl, rfl, rfl, rfl, rfl, rfl, rfl, rfl, rfl, rfl, rfl, rfl, rfl, rfl, 
    rfl, rfl, rfl, rfl, rfl, rfl, rfl, rfl, rfl, rfl, rfl, rfl, rfl, rfl, rfl, rfl, rfl, rfl⟩

@[simp] theorem State.withPwr_fields (s : State) (v : Power) :
    (s.withPwr v).pending = s.pending ∧ (s.withPwr v).regs = s.regs ∧ (s.withPwr v).hold = s.hold ∧
    (s.withPwr v).recent = s.recent ∧ (s.withPwr v).out = s.out ∧ (s.withPwr v).free = s.free ∧
    (s.withPwr v).panels = s.panels ∧ (s.withPwr v).fab = s.fab ∧ (s.withPwr v).cyc = s.cyc ∧
    (s.withPwr v).drw = s.drw ∧ (s.withPwr v).vnr = s.vnr ∧ (s.withPwr v).hbm = s.hbm ∧
    (s.withPwr v).hbmUe = s.hbmUe ∧ (s.withPwr v).alarms = s.alarms ∧ (s.withPwr v).queues = s.queues ∧
    (s.withPwr v).winMap = s.winMap ∧ (s.withPwr v).pinWin = s.pinWin ∧ (s.withPwr v).exports = s.exports ∧
    (s.withPwr v).ldr = s.ldr ∧ (s.withPwr v).bundles = s.bundles ∧ (s.withPwr v).topo = s.topo ∧
    (s.withPwr v).trg = s.trg ∧ (s.withPwr v).cap = s.cap ∧ (s.withPwr v).meas = s.meas ∧
    (s.withPwr v).traces = s.traces ∧ (s.withPwr v).cores = s.cores ∧ (s.withPwr v).shared = s.shared ∧
    (s.withPwr v).sharedErr = s.sharedErr ∧ (s.withPwr v).net = s.net ∧ (s.withPwr v).oldRoutes = s.oldRoutes ∧
    (s.withPwr v).wd = s.wd ∧ (s.withPwr v).gauges = s.gauges ∧ (s.withPwr v).lows = s.lows ∧
    (s.withPwr v).ticks = s.ticks ∧ (s.withPwr v).pins = s.pins ∧ (s.withPwr v).hst = s.hst ∧ (s.withPwr v).pwr = v ∧
    (s.withPwr v).tap = s.tap :=
  ⟨rfl, rfl, rfl, rfl, rfl, rfl, rfl, rfl, rfl, rfl, rfl, rfl, rfl, rfl, rfl, rfl, rfl, rfl, rfl, rfl, 
    rfl, rfl, rfl, rfl, rfl, rfl, rfl, rfl, rfl, rfl, rfl, rfl, rfl, rfl, rfl, rfl, rfl, rfl⟩

@[simp] theorem State.withTap_fields (s : State) (v : TestPort) :
    (s.withTap v).pending = s.pending ∧ (s.withTap v).regs = s.regs ∧ (s.withTap v).hold = s.hold ∧
    (s.withTap v).recent = s.recent ∧ (s.withTap v).out = s.out ∧ (s.withTap v).free = s.free ∧
    (s.withTap v).panels = s.panels ∧ (s.withTap v).fab = s.fab ∧ (s.withTap v).cyc = s.cyc ∧
    (s.withTap v).drw = s.drw ∧ (s.withTap v).vnr = s.vnr ∧ (s.withTap v).hbm = s.hbm ∧
    (s.withTap v).hbmUe = s.hbmUe ∧ (s.withTap v).alarms = s.alarms ∧ (s.withTap v).queues = s.queues ∧
    (s.withTap v).winMap = s.winMap ∧ (s.withTap v).pinWin = s.pinWin ∧ (s.withTap v).exports = s.exports ∧
    (s.withTap v).ldr = s.ldr ∧ (s.withTap v).bundles = s.bundles ∧ (s.withTap v).topo = s.topo ∧
    (s.withTap v).trg = s.trg ∧ (s.withTap v).cap = s.cap ∧ (s.withTap v).meas = s.meas ∧
    (s.withTap v).traces = s.traces ∧ (s.withTap v).cores = s.cores ∧ (s.withTap v).shared = s.shared ∧
    (s.withTap v).sharedErr = s.sharedErr ∧ (s.withTap v).net = s.net ∧ (s.withTap v).oldRoutes = s.oldRoutes ∧
    (s.withTap v).wd = s.wd ∧ (s.withTap v).gauges = s.gauges ∧ (s.withTap v).lows = s.lows ∧
    (s.withTap v).ticks = s.ticks ∧ (s.withTap v).pins = s.pins ∧ (s.withTap v).hst = s.hst ∧
    (s.withTap v).pwr = s.pwr ∧ (s.withTap v).tap = v :=
  ⟨rfl, rfl, rfl, rfl, rfl, rfl, rfl, rfl, rfl, rfl, rfl, rfl, rfl, rfl, rfl, rfl, rfl, rfl, rfl, rfl, 
    rfl, rfl, rfl, rfl, rfl, rfl, rfl, rfl, rfl, rfl, rfl, rfl, rfl, rfl, rfl, rfl, rfl, rfl⟩

end Sys2Proof.Machine
end

