-- ==== Sys2Proof/Laws/Lasting.lean ====
section
/-! SUPPORT. How the lasting part and the memories of a state are read from an update, a choice and a loop. -/
namespace Sys2Proof.Machine

@[simp] theorem lasting_mk (pending_ : List Instr) (regs_ : Tab Word) (hold_ : Tab (Option (Nat × Word)))
    (recent_ : List Nat) (out_ : List OutMsg) (free_ : Nat) (panels_ : Tab Panel) (fab_ : Fabric) (cyc_ : Cycle)
    (drw_ : Drawer) (vnr_ : Veneer) (hbm_ : Tab (BitVec 8)) (hbmUe_ : List Nat) (alarms_ : Tab Bool)
    (queues_ : Tab Queue) (winMap_ : Tab (BitVec 16)) (pinWin_ : Tab (BitVec 128)) (exports_ : Tab
    (Nat × Nat × Nat)) (ldr_ : Loader) (bundles_ : Tab Bundle) (topo_ : Topology) (trg_ : Trigger) (cap_ : Capture)
    (meas_ : Tab Meas) (traces_ : Tab TraceUnit) (cores_ : Tab Core) (shared_ : Tab Word)
    (sharedErr_ : Tab EccClass) (net_ : List RingReq) (oldRoutes_ : Tab (Option (BitVec 2))) (wd_ : Dispatcher)
    (gauges_ : Tab Gauge) (lows_ : Tab (Option Word)) (ticks_ : Nat) (pins_ : Pins) (hst_ : HostIf) (pwr_ : Power)
    (tap_ : TestPort) :
    (State.mk pending_ regs_ hold_ recent_ out_ free_ panels_ fab_ cyc_ drw_ vnr_ hbm_ hbmUe_ alarms_ queues_ winMap_
    pinWin_ exports_ ldr_ bundles_ topo_ trg_ cap_ meas_ traces_ cores_ shared_ sharedErr_ net_ oldRoutes_ wd_
    gauges_ lows_ ticks_ pins_ hst_ pwr_ tap_).lasting = ⟨pending_, drw_.serial, drw_.factory, ldr_.fuses,
    ldr_.retired, Memories.ordered ⟨hbm_, shared_⟩⟩ := rfl

@[simp] theorem lasting_eta (s : State) :
    Lasting.mk s.pending s.drw.serial s.drw.factory s.ldr.fuses s.ldr.retired s.memories.ordered = s.lasting := rfl

/-- The same where a part stands that another state with the same lasting part has. -/
theorem lasting_mixLdr (s t : State) (h : s.lasting = t.lasting) :
    Lasting.mk s.pending s.drw.serial s.drw.factory t.ldr.fuses t.ldr.retired s.memories.ordered = t.lasting := by
  injection h with h1 h2 h3 _ _ h6; rw [h1, h2, h3, h6]; rfl

theorem lasting_mixDrw (s t : State) (h : s.lasting = t.lasting) :
    Lasting.mk s.pending t.drw.serial t.drw.factory s.ldr.fuses s.ldr.retired s.memories.ordered = t.lasting := by
  injection h with h1 _ _ h4 h5 h6; rw [h1, h4, h5, h6]; rfl

@[simp] theorem memories_mk (pending_ : List Instr) (regs_ : Tab Word) (hold_ : Tab (Option (Nat × Word)))
    (recent_ : List Nat) (out_ : List OutMsg) (free_ : Nat) (panels_ : Tab Panel) (fab_ : Fabric) (cyc_ : Cycle)
    (drw_ : Drawer) (vnr_ : Veneer) (hbm_ : Tab (BitVec 8)) (hbmUe_ : List Nat) (alarms_ : Tab Bool)
    (queues_ : Tab Queue) (winMap_ : Tab (BitVec 16)) (pinWin_ : Tab (BitVec 128)) (exports_ : Tab
    (Nat × Nat × Nat)) (ldr_ : Loader) (bundles_ : Tab Bundle) (topo_ : Topology) (trg_ : Trigger) (cap_ : Capture)
    (meas_ : Tab Meas) (traces_ : Tab TraceUnit) (cores_ : Tab Core) (shared_ : Tab Word)
    (sharedErr_ : Tab EccClass) (net_ : List RingReq) (oldRoutes_ : Tab (Option (BitVec 2))) (wd_ : Dispatcher)
    (gauges_ : Tab Gauge) (lows_ : Tab (Option Word)) (ticks_ : Nat) (pins_ : Pins) (hst_ : HostIf) (pwr_ : Power)
    (tap_ : TestPort) :
    (State.mk pending_ regs_ hold_ recent_ out_ free_ panels_ fab_ cyc_ drw_ vnr_ hbm_ hbmUe_ alarms_ queues_ winMap_
    pinWin_ exports_ ldr_ bundles_ topo_ trg_ cap_ meas_ traces_ cores_ shared_ sharedErr_ net_ oldRoutes_ wd_
    gauges_ lows_ ticks_ pins_ hst_ pwr_ tap_).memories = ⟨hbm_, shared_⟩ := rfl

@[simp] theorem memories_eta (s : State) : Memories.mk s.hbm s.shared = s.memories := rfl

@[simp] theorem lasting_withPending (s : State) (v : List Instr) :
    (s.withPending v).lasting = ⟨v, s.drw.serial, s.drw.factory, s.ldr.fuses, s.ldr.retired, s.memories.ordered⟩ := rfl
@[simp] theorem lasting_withRegs (s : State) (v : Tab Word) : (s.withRegs v).lasting = s.lasting := rfl
@[simp] theorem lasting_withHold (s : State) (v : Tab (Option (Nat × Word))) : (s.withHold v).lasting = s.lasting := rfl
@[simp] theorem lasting_withRecent (s : State) (v : List Nat) : (s.withRecent v).lasting = s.lasting := rfl
@[simp] theorem lasting_withOut (s : State) (v : List OutMsg) : (s.withOut v).lasting = s.lasting := rfl
@[simp] theorem lasting_withFree (s : State) (v : Nat) : (s.withFree v).lasting = s.lasting := rfl
@[simp] theorem lasting_withPanels (s : State) (v : Tab Panel) : (s.withPanels v).lasting = s.lasting := rfl
@[simp] theorem lasting_withFab (s : State) (v : Fabric) : (s.withFab v).lasting = s.lasting := rfl
@[simp] theorem lasting_withCyc (s : State) (v : Cycle) : (s.withCyc v).lasting = s.lasting := rfl
@[simp] theorem lasting_withDrw (s : State) (v : Drawer) :
    (s.withDrw v).lasting = ⟨s.pending, v.serial, v.factory, s.ldr.fuses, s.ldr.retired, s.memories.ordered⟩ := rfl
@[simp] theorem lasting_withVnr (s : State) (v : Veneer) : (s.withVnr v).lasting = s.lasting := rfl
@[simp] theorem lasting_withHbmUe (s : State) (v : List Nat) : (s.withHbmUe v).lasting = s.lasting := rfl
@[simp] theorem lasting_withAlarms (s : State) (v : Tab Bool) : (s.withAlarms v).lasting = s.lasting := rfl
@[simp] theorem lasting_withQueues (s : State) (v : Tab Queue) : (s.withQueues v).lasting = s.lasting := rfl
@[simp] theorem lasting_withWinMap (s : State) (v : Tab (BitVec 16)) : (s.withWinMap v).lasting = s.lasting := rfl
@[simp] theorem lasting_withPinWin (s : State) (v : Tab (BitVec 128)) : (s.withPinWin v).lasting = s.lasting := rfl
@[simp] theorem lasting_withExports (s : State) (v : Tab (Nat × Nat × Nat)) :
    (s.withExports v).lasting = s.lasting := rfl
@[simp] theorem lasting_withLdr (s : State) (v : Loader) :
    (s.withLdr v).lasting = ⟨s.pending, s.drw.serial, s.drw.factory, v.fuses, v.retired, s.memories.ordered⟩ := rfl
@[simp] theorem lasting_withBundles (s : State) (v : Tab Bundle) : (s.withBundles v).lasting = s.lasting := rfl
@[simp] theorem lasting_withTopo (s : State) (v : Topology) : (s.withTopo v).lasting = s.lasting := rfl
@[simp] theorem lasting_withTrg (s : State) (v : Trigger) : (s.withTrg v).lasting = s.lasting := rfl
@[simp] theorem lasting_withCap (s : State) (v : Capture) : (s.withCap v).lasting = s.lasting := rfl
@[simp] theorem lasting_withMeas (s : State) (v : Tab Meas) : (s.withMeas v).lasting = s.lasting := rfl
@[simp] theorem lasting_withTraces (s : State) (v : Tab TraceUnit) : (s.withTraces v).lasting = s.lasting := rfl
@[simp] theorem lasting_withCores (s : State) (v : Tab Core) : (s.withCores v).lasting = s.lasting := rfl
@[simp] theorem lasting_withSharedErr (s : State) (v : Tab EccClass) : (s.withSharedErr v).lasting = s.lasting := rfl
@[simp] theorem lasting_withNet (s : State) (v : List RingReq) : (s.withNet v).lasting = s.lasting := rfl
@[simp] theorem lasting_withOldRoutes (s : State) (v : Tab (Option (BitVec 2))) :
    (s.withOldRoutes v).lasting = s.lasting := rfl
@[simp] theorem lasting_withWd (s : State) (v : Dispatcher) : (s.withWd v).lasting = s.lasting := rfl
@[simp] theorem lasting_withGauges (s : State) (v : Tab Gauge) : (s.withGauges v).lasting = s.lasting := rfl
@[simp] theorem lasting_withLows (s : State) (v : Tab (Option Word)) : (s.withLows v).lasting = s.lasting := rfl
@[simp] theorem lasting_withTicks (s : State) (v : Nat) : (s.withTicks v).lasting = s.lasting := rfl
@[simp] theorem lasting_withPins (s : State) (v : Pins) : (s.withPins v).lasting = s.lasting := rfl
@[simp] theorem lasting_withHst (s : State) (v : HostIf) : (s.withHst v).lasting = s.lasting := rfl
@[simp] theorem lasting_withPwr (s : State) (v : Power) : (s.withPwr v).lasting = s.lasting := rfl
@[simp] theorem lasting_withTap (s : State) (v : TestPort) : (s.withTap v).lasting = s.lasting := rfl
@[simp] theorem memories_withPending (s : State) (v : List Instr) : (s.withPending v).memories = s.memories := rfl
@[simp] theorem memories_withRegs (s : State) (v : Tab Word) : (s.withRegs v).memories = s.memories := rfl
@[simp] theorem memories_withHold (s : State) (v : Tab (Option (Nat × Word))) :
    (s.withHold v).memories = s.memories := rfl
@[simp] theorem memories_withRecent (s : State) (v : List Nat) : (s.withRecent v).memories = s.memories := rfl
@[simp] theorem memories_withOut (s : State) (v : List OutMsg) : (s.withOut v).memories = s.memories := rfl
@[simp] theorem memories_withFree (s : State) (v : Nat) : (s.withFree v).memories = s.memories := rfl
@[simp] theorem memories_withPanels (s : State) (v : Tab Panel) : (s.withPanels v).memories = s.memories := rfl
@[simp] theorem memories_withFab (s : State) (v : Fabric) : (s.withFab v).memories = s.memories := rfl
@[simp] theorem memories_withCyc (s : State) (v : Cycle) : (s.withCyc v).memories = s.memories := rfl
@[simp] theorem memories_withDrw (s : State) (v : Drawer) : (s.withDrw v).memories = s.memories := rfl
@[simp] theorem memories_withVnr (s : State) (v : Veneer) : (s.withVnr v).memories = s.memories := rfl
@[simp] theorem memories_withHbm (s : State) (v : Tab (BitVec 8)) : (s.withHbm v).memories = ⟨v, s.shared⟩ := rfl
@[simp] theorem memories_withHbmUe (s : State) (v : List Nat) : (s.withHbmUe v).memories = s.memories := rfl
@[simp] theorem memories_withAlarms (s : State) (v : Tab Bool) : (s.withAlarms v).memories = s.memories := rfl
@[simp] theorem memories_withQueues (s : State) (v : Tab Queue) : (s.withQueues v).memories = s.memories := rfl
@[simp] theorem memories_withWinMap (s : State) (v : Tab (BitVec 16)) : (s.withWinMap v).memories = s.memories := rfl
@[simp] theorem memories_withPinWin (s : State) (v : Tab (BitVec 128)) : (s.withPinWin v).memories = s.memories := rfl
@[simp] theorem memories_withExports (s : State) (v : Tab (Nat × Nat × Nat)) :
    (s.withExports v).memories = s.memories := rfl
@[simp] theorem memories_withLdr (s : State) (v : Loader) : (s.withLdr v).memories = s.memories := rfl
@[simp] theorem memories_withBundles (s : State) (v : Tab Bundle) : (s.withBundles v).memories = s.memories := rfl
@[simp] theorem memories_withTopo (s : State) (v : Topology) : (s.withTopo v).memories = s.memories := rfl
@[simp] theorem memories_withTrg (s : State) (v : Trigger) : (s.withTrg v).memories = s.memories := rfl
@[simp] theorem memories_withCap (s : State) (v : Capture) : (s.withCap v).memories = s.memories := rfl
@[simp] theorem memories_withMeas (s : State) (v : Tab Meas) : (s.withMeas v).memories = s.memories := rfl
@[simp] theorem memories_withTraces (s : State) (v : Tab TraceUnit) : (s.withTraces v).memories = s.memories := rfl
@[simp] theorem memories_withCores (s : State) (v : Tab Core) : (s.withCores v).memories = s.memories := rfl
@[simp] theorem memories_withShared (s : State) (v : Tab Word) : (s.withShared v).memories = ⟨s.hbm, v⟩ := rfl
@[simp] theorem memories_withSharedErr (s : State) (v : Tab EccClass) : (s.withSharedErr v).memories = s.memories := rfl
@[simp] theorem memories_withNet (s : State) (v : List RingReq) : (s.withNet v).memories = s.memories := rfl
@[simp] theorem memories_withOldRoutes (s : State) (v : Tab (Option (BitVec 2))) :
    (s.withOldRoutes v).memories = s.memories := rfl
@[simp] theorem memories_withWd (s : State) (v : Dispatcher) : (s.withWd v).memories = s.memories := rfl
@[simp] theorem memories_withGauges (s : State) (v : Tab Gauge) : (s.withGauges v).memories = s.memories := rfl
@[simp] theorem memories_withLows (s : State) (v : Tab (Option Word)) : (s.withLows v).memories = s.memories := rfl
@[simp] theorem memories_withTicks (s : State) (v : Nat) : (s.withTicks v).memories = s.memories := rfl
@[simp] theorem memories_withPins (s : State) (v : Pins) : (s.withPins v).memories = s.memories := rfl
@[simp] theorem memories_withHst (s : State) (v : HostIf) : (s.withHst v).memories = s.memories := rfl
@[simp] theorem memories_withPwr (s : State) (v : Power) : (s.withPwr v).memories = s.memories := rfl
@[simp] theorem memories_withTap (s : State) (v : TestPort) : (s.withTap v).memories = s.memories := rfl

/-- What a function of the state gives on a choice of states. -/
@[simp] theorem lasting_ite (c : Prop) [Decidable c] (s t : State) :
    (if c then s else t).lasting = if c then s.lasting else t.lasting := by split <;> rfl

@[simp] theorem memories_ite (c : Prop) [Decidable c] (s t : State) :
    (if c then s else t).memories = if c then s.memories else t.memories := by split <;> rfl

/-- A loop keeps what each of its rounds keeps. -/
@[simp] theorem lasting_foldl {α : Type} (f : State → α → State) (l : List α) (s : State)
    (h : ∀ t a, (f t a).lasting = t.lasting) : (l.foldl f s).lasting = s.lasting := by
  induction l generalizing s with
  | nil => rfl
  | cons a r ih => rw [List.foldl_cons, ih, h]

@[simp] theorem memories_foldl {α : Type} (f : State → α → State) (l : List α) (s : State)
    (h : ∀ t a, (f t a).memories = t.memories) : (l.foldl f s).memories = s.memories := by
  induction l generalizing s with
  | nil => rfl
  | cons a r ih => rw [List.foldl_cons, ih, h]

/-- A loop that carries a state with another value. -/
@[simp] theorem lasting_foldl2 {α β : Type} (f : β × State → α → β × State) (l : List α) (x : β × State)
    (h : ∀ t a, (f t a).2.lasting = t.2.lasting) : (l.foldl f x).2.lasting = x.2.lasting := by
  induction l generalizing x with
  | nil => rfl
  | cons a r ih => rw [List.foldl_cons, ih, h]

@[simp] theorem lasting_foldl3 {α β γ : Type} (f : β × γ × State → α → β × γ × State) (l : List α) (x : β × γ × State)
    (h : ∀ t a, (f t a).2.2.lasting = t.2.2.lasting) : (l.foldl f x).2.2.lasting = x.2.2.lasting := by
  induction l generalizing x with
  | nil => rfl
  | cons a r ih => rw [List.foldl_cons, ih, h]

@[simp] theorem lasting_foldl1 {α β : Type} (f : State × β → α → State × β) (l : List α) (x : State × β)
    (h : ∀ t a, (f t a).1.lasting = t.1.lasting) : (l.foldl f x).1.lasting = x.1.lasting := by
  induction l generalizing x with
  | nil => rfl
  | cons a r ih => rw [List.foldl_cons, ih, h]

@[simp] theorem memories_foldl2 {α β : Type} (f : β × State → α → β × State) (l : List α) (x : β × State)
    (h : ∀ t a, (f t a).2.memories = t.2.memories) : (l.foldl f x).2.memories = x.2.memories := by
  induction l generalizing x with
  | nil => rfl
  | cons a r ih => rw [List.foldl_cons, ih, h]

/-- A pair of a choice is the choice of the pair's part. -/
@[simp] theorem snd_ite {α β : Type} (c : Prop) [Decidable c] (x y : α × β) :
    (if c then x else y).2 = if c then x.2 else y.2 := by split <;> rfl

@[simp] theorem fst_ite {α β : Type} (c : Prop) [Decidable c] (x y : α × β) :
    (if c then x else y).1 = if c then x.1 else y.1 := by split <;> rfl

/-! ### What lasts through a choice, a loop and a command bit -/

theorem Lasts.refl (o : Lasting) : Lasts o o := ⟨rfl, rfl, rfl, fun _ _ h => h, fun _ h => h, fun h => h⟩

theorem Lasts.trans {a b c : Lasting} (h : Lasts a b) (k : Lasts b c) : Lasts a c :=
  ⟨k.pending.trans h.pending, k.serial.trans h.serial, k.factory.trans h.factory,
    fun i x e => k.fuses i x (h.fuses i x e), fun i e => k.retired i (h.retired i e), fun e => k.ordered (h.ordered e)⟩

theorem lasts_ite {o a b : Lasting} {c : Prop} [Decidable c] (ha : Lasts o a) (hb : Lasts o b) :
    Lasts o (if c then a else b) := by split <;> assumption

theorem lasts_ite' {o : Lasting} {s t : State} {c : Prop} [Decidable c] (hs : Lasts o s.lasting) (ht : Lasts o t.lasting) :
    Lasts o (if c then s else t).lasting := by split <;> assumption

theorem lasts_foldl {α : Type} {o : Lasting} (f : State → α → State) (l : List α) (s : State)
    (hf : ∀ t a, Lasts o t.lasting → Lasts o (f t a).lasting) (h : Lasts o s.lasting) :
    Lasts o (l.foldl f s).lasting := by
  induction l generalizing s with
  | nil => exact h
  | cons a r ih => exact ih _ (hf s a h)

/-- The same with the loop's state beside another value. -/
theorem lasts_foldl2 {α β : Type} {o : Lasting} (f : β × State → α → β × State) (l : List α) (x : β × State)
    (hf : ∀ t a, Lasts o t.2.lasting → Lasts o (f t a).2.lasting) (h : Lasts o x.2.lasting) :
    Lasts o (l.foldl f x).2.lasting := by
  induction l generalizing x with
  | nil => exact h
  | cons a r ih => exact ih _ (hf x a h)

theorem lasts_foldl3 {α β γ : Type} {o : Lasting} (f : β × γ × State → α → β × γ × State) (l : List α) (x : β × γ × State)
    (hf : ∀ t a, Lasts o t.2.2.lasting → Lasts o (f t a).2.2.lasting) (h : Lasts o x.2.2.lasting) :
    Lasts o (l.foldl f x).2.2.lasting := by
  induction l generalizing x with
  | nil => exact h
  | cons a r ih => exact ih _ (hf x a h)

theorem lasts_foldl1 {α β : Type} {o : Lasting} (f : State × β → α → State × β) (l : List α) (x : State × β)
    (hf : ∀ t a, Lasts o t.1.lasting → Lasts o (f t a).1.lasting) (h : Lasts o x.1.lasting) :
    Lasts o (l.foldl f x).1.lasting := by
  induction l generalizing x with
  | nil => exact h
  | cons a r ih => exact ih _ (hf x a h)

/-- The state of a pair that a function answers. -/
theorem lasts_snd_eq {β : Type} {o : Lasting} {x : β × State} {b : β} {s : State} (e : x = (b, s))
    (h : Lasts o x.2.lasting) : Lasts o s.lasting := by subst e; exact h

theorem lasts_snd2_eq {β γ : Type} {o : Lasting} {x : β × γ × State} {b : β} {c : γ} {s : State} (e : x = (b, c, s))
    (h : Lasts o x.2.2.lasting) : Lasts o s.lasting := by subst e; exact h

/-- The loader's block changes, but not its key slots. -/
theorem lasts_withLdr {o : Lasting} (s : State) (v : Loader) (hf : v.fuses = s.ldr.fuses) (hr : v.retired = s.ldr.retired)
    (h : Lasts o s.lasting) : Lasts o (s.withLdr v).lasting := by
  rw [lasting_withLdr, hf, hr]
  exact h

/-- Memories take contents that are in canonical form where the old ones are. -/
theorem lasts_withHbm {o : Lasting} (s : State) (m : Tab (BitVec 8)) (h : Lasts o s.lasting)
    (hm : Tab.wf (zeroAt 8) s.hbm = true → Tab.wf (zeroAt 8) m = true) : Lasts o (s.withHbm m).lasting :=
  h.trans ⟨rfl, rfl, rfl, fun _ _ e => e, fun _ e => e, fun e => by
    simp only [State.lasting, Memories.ordered, State.memories, State.withHbm, Bool.and_eq_true] at e ⊢
    exact ⟨hm e.1, e.2⟩⟩

theorem lasts_withShared {o : Lasting} (s : State) (m : Tab Word) (h : Lasts o s.lasting)
    (hm : Tab.wf (zeroAt 32) s.shared = true → Tab.wf (zeroAt 32) m = true) : Lasts o (s.withShared m).lasting :=
  h.trans ⟨rfl, rfl, rfl, fun _ _ e => e, fun _ e => e, fun e => by
    simp only [State.lasting, Memories.ordered, State.memories, State.withShared, Bool.and_eq_true] at e ⊢
    exact ⟨e.1, hm e.2⟩⟩

theorem Memories.ordered_iff (m : Memories) : m.ordered = true ↔ m.wf := by
  simp only [Memories.ordered, Memories.wf, Bool.and_eq_true]

/-- A command bit that is not written does nothing. -/
theorem lasts_when {o : Lasting} (c : Bool) (f : State → State) (s : State) (h : Lasts o s.lasting)
    (hf : ∀ t, Lasts o t.lasting → Lasts o (f t).lasting) : Lasts o (if c = true then f s else s).lasting := by
  split
  · exact hf s h
  · exact h

end Sys2Proof.Machine
end

