-- ==== Sys2Proof/Laws/KeepOps.lean ====
section
/-! SUPPORT. Which functions of Machine/Ops.lean keep the lasting part of the state, and that what lasts lasts through the others. -/
set_option linter.unusedSimpArgs false

namespace Sys2Proof.Machine

@[simp] theorem keep_State_setReg (s : State) (p : PageId) (off : Nat) (v : Word) :
    (State.setReg s p off v).lasting = s.lasting := by
  simp only [State.setReg, lasting_ite, ite_self, lasting_foldl, implies_true, lasting_eta, snd_ite, fst_ite,
    lasting_withRegs]

@[simp] theorem keep_State_setF (s : State) (p : PageId) (off hi lo v : Nat) :
    (State.setF s p off hi lo v).lasting = s.lasting := by
  simp only [State.setF, lasting_ite, ite_self, lasting_foldl, implies_true, lasting_eta, snd_ite, fst_ite,
    keep_State_setReg]

@[simp] theorem keep_State_setReg64 (s : State) (p : PageId) (off v : Nat) :
    (State.setReg64 s p off v).lasting = s.lasting := by
  simp only [State.setReg64, lasting_ite, ite_self, lasting_foldl, implies_true, lasting_eta, snd_ite, fst_ite,
    keep_State_setReg]

@[simp] theorem keep_State_bump (s : State) (p : PageId) (off hi lo : Nat) (n : Nat) :
    (State.bump s p off hi lo n).lasting = s.lasting := by
  simp only [State.bump, lasting_ite, ite_self, lasting_foldl, implies_true, lasting_eta, snd_ite, fst_ite,
    keep_State_setF]

@[simp] theorem keep_State_setSt (s : State) (p : PageId) (v : Nat) :
    (State.setSt s p v).lasting = s.lasting := by
  simp only [State.setSt, lasting_ite, ite_self, lasting_foldl, implies_true, lasting_eta, snd_ite, fst_ite,
    keep_State_setF]

@[simp] theorem keep_State_send (s : State) (m : OutMsg) :
    (State.send s m).lasting = s.lasting := by
  simp only [State.send, lasting_ite, ite_self, lasting_foldl, implies_true, lasting_eta, snd_ite, fst_ite,
    lasting_withOut]

@[simp] theorem keep_State_mark (s : State) (p : PageId) (b : Nat) : (s.mark p b).lasting = s.lasting := by
  simp only [State.mark, lasting_withRecent]

@[simp] theorem keep_setCapture (s : State) (p : PageId) (second : Bool) (w : Word) (addr : Nat) :
    (setCapture s p second w addr).lasting = s.lasting := by
  simp only [setCapture, lasting_ite, ite_self, keep_State_mark, keep_State_setReg, keep_State_setReg64]

@[simp] theorem keep_captureLost (s : State) (p : PageId) : (captureLost s p).lasting = s.lasting := by
  simp only [captureLost, keep_State_mark, keep_State_setF]

@[simp] theorem keep_capture (s : State) (p : PageId) (b info : Nat) (addr : Nat) :
    (capture s p b info addr).lasting = s.lasting := by
  simp only [capture, lasting_ite, ite_self, lasting_foldl, implies_true, lasting_eta, snd_ite, fst_ite,
    keep_setCapture, keep_captureLost]

@[simp] theorem keep_raiseAt (s : State) (p : PageId) (b info addr : Nat) :
    (raiseAt s p b info addr).lasting = s.lasting := by
  simp only [raiseAt, lasting_ite, ite_self, lasting_foldl, implies_true, lasting_eta, snd_ite, fst_ite,
    keep_State_mark, keep_State_setF, keep_capture]

@[simp] theorem keep_raise (s : State) (p : PageId) (b info : Nat) :
    (raise s p b info).lasting = s.lasting := by
  simp only [raise, lasting_ite, ite_self, lasting_foldl, implies_true, lasting_eta, snd_ite, fst_ite, keep_raiseAt]

@[simp] theorem keep_raiseAll (s : State) (p : PageId) (evs : List (Nat × Nat)) :
    (raiseAll s p evs).lasting = s.lasting := by
  simp only [raiseAll, lasting_ite, ite_self, lasting_foldl, implies_true, lasting_eta, snd_ite, fst_ite, keep_raise]

@[simp] theorem keep_raiseReplay (s : State) (src die onH : Nat) :
    (raiseReplay s src die onH).lasting = s.lasting := by
  simp only [raiseReplay, lasting_ite, ite_self, lasting_foldl, implies_true, lasting_eta, snd_ite, fst_ite,
    lasting_withCyc, keep_raise]

@[simp] theorem keep_raiseFault (s : State) (src die onH : Nat) :
    (raiseFault s src die onH).lasting = s.lasting := by
  simp only [raiseFault, lasting_ite, ite_self, lasting_foldl, implies_true, lasting_eta, snd_ite, fst_ite,
    lasting_withCyc, keep_raise]

@[simp] theorem keep_State_setPanel (s : State) (die panel : Nat) (x : Panel) :
    (State.setPanel s die panel x).lasting = s.lasting := by
  simp only [State.setPanel, lasting_ite, ite_self, lasting_foldl, implies_true, lasting_eta, snd_ite, fst_ite,
    lasting_withPanels]

@[simp] theorem keep_State_setMod (s : State) (die m : Nat) (x : ModState) :
    (State.setMod s die m x).lasting = s.lasting := by
  simp only [State.setMod, lasting_ite, ite_self, lasting_foldl, implies_true, lasting_eta, snd_ite, fst_ite,
    lasting_withFab]

@[simp] theorem keep_State_setReason (s : State) (die panel : Nat) (v : BitVec 8) :
    (State.setReason s die panel v).lasting = s.lasting := by
  simp only [State.setReason, lasting_ite, ite_self, lasting_foldl, implies_true, lasting_eta, snd_ite, fst_ite,
    lasting_mixDrw, lasting_withDrw]

@[simp] theorem keep_spareOut (before after : State) : (spareOut before after).lasting = after.lasting := by
  unfold spareOut
  apply lasting_foldl
  intro t a
  split <;> simp


@[simp] theorem keep_markPanel (s : State) (die panel code : Nat) :
    (markPanel s die panel code).lasting = s.lasting := by
  simp only [markPanel, lasting_ite, ite_self, lasting_foldl, implies_true, lasting_eta, snd_ite, fst_ite,
    lasting_mixDrw, lasting_withDrw, keep_raise, keep_State_setReason, keep_spareOut]

@[simp] theorem keep_countCe (s : State) (die panel : Nat) :
    (countCe s die panel).lasting = s.lasting := by
  simp only [countCe, lasting_ite, ite_self, lasting_foldl, implies_true, lasting_eta, snd_ite, fst_ite,
    keep_State_bump, keep_markPanel]

end Sys2Proof.Machine
end

