-- ==== Sys2Proof/Laws/KeepNet.lean ====
section
/-! SUPPORT. Which functions of Machine/Net.lean keep the lasting part of the state, and that what lasts lasts through the others. -/
set_option linter.unusedSimpArgs false

namespace Sys2Proof.Machine

@[simp] theorem keep_noRoute (s : State) (src dst code : Nat) :
    (noRoute s src dst code).lasting = s.lasting := by
  unfold noRoute
  repeat' first
    | done
    | (simp only [
         lasting_ite, ite_self, lasting_foldl, implies_true, lasting_eta, snd_ite, fst_ite, keep_raise]
       done)
    | split
    | (dsimp +zetaHave only; split)
    | (simp +zetaDelta only [
         lasting_ite, ite_self, lasting_foldl, implies_true, lasting_eta, snd_ite, fst_ite, keep_raise]
       done)
    | rfl

@[simp] theorem keep_countFlits (s : State) (src dst ring n : Nat) :
    (countFlits s src dst ring n).lasting = s.lasting := by
  unfold countFlits
  repeat' (first | (simp only [lasting_ite, ite_self, lasting_foldl, implies_true, lasting_eta, snd_ite, fst_ite,
    keep_State_bump, keep_noRoute]; done) | split | rfl)

@[simp] theorem keep_flitError (s : State) (src dst hub ring stop code : Nat) :
    (flitError s src dst hub ring stop code).lasting = s.lasting := by
  unfold flitError
  repeat' first
    | done
    | (simp only [
         lasting_ite, ite_self, lasting_foldl, implies_true, lasting_eta, snd_ite, fst_ite, keep_raise]
       done)
    | split
    | (dsimp +zetaHave only; split)
    | (simp +zetaDelta only [
         lasting_ite, ite_self, lasting_foldl, implies_true, lasting_eta, snd_ite, fst_ite, keep_raise]
       done)
    | rfl

@[simp] theorem keep_ringTimedOut (s : State) (src hub code : Nat) :
    (ringTimedOut s src hub code).lasting = s.lasting := by
  unfold ringTimedOut
  repeat' first
    | done
    | (simp only [
         lasting_ite, ite_self, lasting_foldl, implies_true, lasting_eta, snd_ite, fst_ite, keep_State_bump,
         keep_raise]
       done)
    | split
    | (dsimp +zetaHave only; split)
    | (simp +zetaDelta only [
         lasting_ite, ite_self, lasting_foldl, implies_true, lasting_eta, snd_ite, fst_ite, keep_State_bump,
         keep_raise]
       done)
    | rfl

@[simp] theorem keep_tripLost (s : State) (q : RingReq) (stage : RingStage) :
    (tripLost s q stage).lasting = s.lasting := by
  simp only [tripLost, lasting_withNet, keep_ringTimedOut]

@[simp] theorem keep_tripGo (s : State) (q : RingReq) (t : HostTrip) : (tripGo s q t).2.lasting = s.lasting := by
  unfold tripGo
  repeat' first
    | done
    | (simp only [lasting_withNet, keep_noRoute, keep_countFlits, keep_flitError, keep_tripLost]; done)
    | split
    | (dsimp only; split)

@[simp] theorem keep_tripEnd (s : State) (q : RingReq) (k status cls : Nat) (data : List Nat) :
    (tripEnd s q k status cls data).lasting = s.lasting := by
  unfold tripEnd
  split
  · rfl
  · exact keep_countFlits ..

@[simp] theorem keep_awaitBuffer (s : State) (src : Nat) : (s.awaitBuffer src).lasting = s.lasting := by
  unfold State.awaitBuffer
  split
  · rfl
  · split <;> rfl

@[simp] theorem keep_tripWrite (s : State) (src dst addr : Nat) (data : List Nat) (t : HostTrip) (act : State → State)
    (h : ∀ t : State, (act t).lasting = t.lasting) : (tripWrite s src dst addr data t act).2.lasting = s.lasting := by
  have h1 := keep_tripGo s (s.unitReq src dst 2 addr data.length data) t
  simp only [tripWrite]
  split <;> rename_i e <;> rw [e] at h1
  · exact (keep_tripEnd ..).trans ((h _).trans h1)
  · exact h1

theorem lasts_tripWrite {o : Lasting} (s : State) (src dst addr : Nat) (data : List Nat) (t : HostTrip)
    (act : State → State) (h : Lasts o s.lasting) (hf : ∀ t, Lasts o t.lasting → Lasts o (act t).lasting) :
    Lasts o (tripWrite s src dst addr data t act).2.lasting := by
  have h1 := keep_tripGo s (s.unitReq src dst 2 addr data.length data) t
  simp only [tripWrite]
  split <;> rename_i e <;> rw [e] at h1
  · rw [keep_tripEnd]
    exact hf _ (h1 ▸ h)
  · exact h1 ▸ h

end Sys2Proof.Machine
end

