-- ==== Sys2Proof/Laws/KeepAddr.lean ====
section
/-! SUPPORT. Which functions of Machine/Addr.lean keep the lasting part of the state, and that what lasts lasts through the others. -/
set_option linter.unusedSimpArgs false

namespace Sys2Proof.Machine

@[simp] theorem keep_State_setCcSts (s : State) (c b : Nat) (v : Bool) :
    (State.setCcSts s c b v).lasting = s.lasting := by
  simp only [State.setCcSts, lasting_ite, ite_self, lasting_foldl, implies_true, lasting_eta, snd_ite, fst_ite,
    keep_State_setF]

end Sys2Proof.Machine
end

