-- ==== Sys2Proof/Laws/KeepFlags.lean ====
section
/-! SUPPORT. Which functions of Machine/Flags.lean keep the lasting part of the state, and that what lasts lasts through the others. -/
set_option linter.unusedSimpArgs false

namespace Sys2Proof.Machine

@[simp] theorem keep_vectorEvent (s : State) (v : Nat) :
    (vectorEvent s v).lasting = s.lasting := by
  simp only [vectorEvent, lasting_ite, ite_self, lasting_foldl, implies_true, lasting_eta, snd_ite, fst_ite,
    lasting_withHst, keep_State_send]

@[simp] theorem keep_settleVectors (s : State) :
    (settleVectors s).lasting = s.lasting := by
  simp only [settleVectors, lasting_ite, ite_self, lasting_foldl, implies_true, lasting_eta, snd_ite, fst_ite,
    lasting_withHst, keep_vectorEvent]

@[simp] theorem keep_drivePad (s : State) (pin : Nat) (v : BitVec 2) :
    (drivePad s pin v).lasting = s.lasting := by
  simp only [drivePad, lasting_ite, ite_self, lasting_foldl, implies_true, lasting_eta, snd_ite, fst_ite,
    lasting_withPins]

@[simp] theorem keep_State_setGauge (s : State) (k : Nat) (g : Gauge) :
    (State.setGauge s k g).lasting = s.lasting := by
  simp only [State.setGauge, lasting_ite, ite_self, lasting_foldl, implies_true, lasting_eta, snd_ite, fst_ite,
    lasting_withGauges]

@[simp] theorem keep_settleTrig (s : State) :
    (settleTrig s).lasting = s.lasting := by
  simp only [settleTrig, lasting_ite, ite_self, lasting_foldl, implies_true, lasting_eta, snd_ite, fst_ite,
    lasting_withPins, keep_drivePad]

@[simp] theorem keep_settlePulses (s : State) :
    (settlePulses s).lasting = s.lasting := by
  simp only [settlePulses, lasting_ite, ite_self, lasting_foldl, implies_true, lasting_eta, snd_ite, fst_ite,
    lasting_withPins]

@[simp] theorem keep_settle (s : State) :
    (settle s).lasting = s.lasting := by
  simp only [settle, lasting_ite, ite_self, lasting_foldl, implies_true, lasting_eta, snd_ite, fst_ite,
    keep_settleVectors, keep_settleTrig, keep_settlePulses]

end Sys2Proof.Machine
end

