-- ==== Sys2Proof/Laws/KeepLink.lean ====
section
/-! SUPPORT. Which functions of Machine/Link.lean keep the lasting part of the state, and that what lasts lasts through the others. -/
set_option linter.unusedSimpArgs false

namespace Sys2Proof.Machine

@[simp] theorem keep_State_setBundle (s : State) (b : Nat) (x : Bundle) :
    (State.setBundle s b x).lasting = s.lasting := by
  simp only [State.setBundle, lasting_ite, ite_self, lasting_foldl, implies_true, lasting_eta, snd_ite, fst_ite,
    lasting_withBundles]

@[simp] theorem keep_State_setTx (s : State) (b : Nat) (x : BundleTx) :
    (State.setTx s b x).lasting = s.lasting := by
  unfold State.setTx
  repeat' first
    | done
    | (simp only [
         lasting_ite, ite_self, lasting_foldl, implies_true, lasting_eta, snd_ite, fst_ite,
         keep_State_setBundle]
       done)
    | split
    | (dsimp +zetaHave only; split)
    | (simp +zetaDelta only [
         lasting_ite, ite_self, lasting_foldl, implies_true, lasting_eta, snd_ite, fst_ite,
         keep_State_setBundle]
       done)
    | rfl

@[simp] theorem keep_State_setRx (s : State) (b : Nat) (x : BundleRx) :
    (State.setRx s b x).lasting = s.lasting := by
  unfold State.setRx
  repeat' first
    | done
    | (simp only [
         lasting_ite, ite_self, lasting_foldl, implies_true, lasting_eta, snd_ite, fst_ite,
         keep_State_setBundle]
       done)
    | split
    | (dsimp +zetaHave only; split)
    | (simp +zetaDelta only [
         lasting_ite, ite_self, lasting_foldl, implies_true, lasting_eta, snd_ite, fst_ite,
         keep_State_setBundle]
       done)
    | rfl

@[simp] theorem keep_State_setBst (s : State) (b v : Nat) :
    (State.setBst s b v).lasting = s.lasting := by
  simp only [State.setBst, lasting_ite, ite_self, lasting_foldl, implies_true, lasting_eta, snd_ite, fst_ite,
    keep_State_setF]

@[simp] theorem keep_sendPacket (s : State) (b : Nat) (p : Packet) :
    (sendPacket s b p).lasting = s.lasting := by
  unfold sendPacket
  repeat' first
    | done
    | (simp only [
         lasting_ite, ite_self, lasting_foldl, implies_true, lasting_eta, snd_ite, fst_ite, keep_State_setTx]
       done)
    | split
    | (dsimp +zetaHave only; split)
    | (simp +zetaDelta only [
         lasting_ite, ite_self, lasting_foldl, implies_true, lasting_eta, snd_ite, fst_ite, keep_State_setTx]
       done)
    | rfl

@[simp] theorem keep_sendBytes (s : State) (b : Nat) (bs : List Nat) :
    (sendBytes s b bs).lasting = s.lasting := by
  unfold sendBytes
  repeat' first
    | done
    | (simp only [
         lasting_ite, ite_self, lasting_foldl, implies_true, lasting_eta, snd_ite, fst_ite, keep_State_setTx]
       done)
    | split
    | (dsimp +zetaHave only; split)
    | (simp +zetaDelta only [
         lasting_ite, ite_self, lasting_foldl, implies_true, lasting_eta, snd_ite, fst_ite, keep_State_setTx]
       done)
    | rfl

@[simp] theorem keep_sendAll (s : State) (p : Packet) :
    (sendAll s p).lasting = s.lasting := by
  simp only [sendAll, lasting_ite, ite_self, lasting_foldl, implies_true, lasting_eta, snd_ite, fst_ite,
    keep_sendPacket]

@[simp] theorem keep_packetIn (s : State) (b n : Nat) (act : State → State)
    (h : ∀ t : State, (act t).lasting = t.lasting) : (packetIn s b n act).lasting = s.lasting := by
  unfold packetIn
  dsimp only
  split
  · split
    · rw [h, keep_State_setRx]
    · exact keep_State_setRx ..
  · rfl

theorem lasts_packetIn {o : Lasting} (s : State) (b n : Nat) (act : State → State)
    (hf : ∀ t : State, Lasts o t.lasting → Lasts o (act t).lasting) (h : Lasts o s.lasting) :
    Lasts o (packetIn s b n act).lasting := by
  unfold packetIn
  dsimp only
  have h1 : Lasts o (s.setRx b ((s.bundle b).rx.take n)).lasting := by simpa only [keep_State_setRx] using h
  with_reducible exact lasts_ite' (lasts_ite' (hf _ h1) h1) h

end Sys2Proof.Machine
end

