-- ==== Sys2Proof/Laws/KeepFrame.lean ====
section
/-! SUPPORT. Which functions of Machine/Frame.lean keep the lasting part of the state, and that what lasts lasts through the others. -/
set_option linter.unusedSimpArgs false

namespace Sys2Proof.Machine

@[simp] theorem keep_showSent (s : State) (b : Nat) (c : Carry) : (showSent s b c).lasting = s.lasting := by
  unfold showSent
  split
  · exact (keep_State_setReg64 ..).trans (keep_State_setF ..)
  · rfl

@[simp] theorem keep_tellState (s : State) (b cnt : Nat) (c : Carry) : (tellState s b cnt c).lasting = s.lasting := by
  unfold tellState
  split
  · exact keep_State_setBundle ..
  · rfl

@[simp] theorem keep_sendFrame (s : State) (cnt b : Nat) : (sendFrame s cnt b).lasting = s.lasting := by
  unfold sendFrame
  extract_lets x
  generalize x.tx.pick (s.loadMode b) cnt (s.leave b cnt) (s.leaveAgain cnt) = p
  obtain ⟨c, tx⟩ := p
  dsimp only
  simp only [keep_State_send, keep_tellState, keep_showSent, keep_State_setBundle]

@[simp] theorem keep_sendFrames (n cnt : Nat) (s : State) : (sendFrames n cnt s).lasting = s.lasting := by
  induction n generalizing cnt s with
  | zero => rfl
  | succ n ih =>
    rw [sendFrames, ih]
    exact lasting_foldl _ _ _ (fun s b => keep_sendFrame s cnt b)

@[simp] theorem keep_sendUntil (s : State) (c : Nat) : (sendUntil s c).lasting = s.lasting := by
  unfold sendUntil
  split
  · rfl
  · exact keep_sendFrames ..

end Sys2Proof.Machine
end

