-- ==== Sys2Proof/Laws/KeepCount.lean ====
section
/-! SUPPORT. Which functions of Machine/Count.lean keep the lasting part of the state, and that what lasts lasts through the others. -/
set_option linter.unusedSimpArgs false

namespace Sys2Proof.Machine


@[simp] theorem keep_holdVote (s : State) (v : BitVec 8) :
    (holdVote s v).lasting = s.lasting := by
  unfold holdVote
  repeat' first
    | done
    | (simp only [
         lasting_ite, ite_self, lasting_foldl, implies_true, lasting_eta, snd_ite, fst_ite, keep_State_setReg,
         lasting_withCyc]
       done)
    | split
    | (dsimp +zetaHave only; split)
    | (simp +zetaDelta only [
         lasting_ite, ite_self, lasting_foldl, implies_true, lasting_eta, snd_ite, fst_ite, keep_State_setReg,
         lasting_withCyc]
       done)
    | rfl

@[simp] theorem keep_holdDue (s : State) :
    (holdDue s).lasting = s.lasting := by
  unfold holdDue
  repeat' first
    | done
    | (simp only [
         lasting_ite, ite_self, lasting_foldl, implies_true, lasting_eta, snd_ite, fst_ite, keep_holdVote,
         lasting_withCyc]
       done)
    | split
    | (dsimp +zetaHave only; split)
    | (simp +zetaDelta only [
         lasting_ite, ite_self, lasting_foldl, implies_true, lasting_eta, snd_ite, fst_ite, keep_holdVote,
         lasting_withCyc]
       done)
    | rfl

@[simp] theorem keep_setCount (s : State) (c : Nat) :
    (setCount s c).lasting = s.lasting := by
  unfold setCount
  repeat' first
    | done
    | (simp only [
         lasting_ite, ite_self, lasting_foldl, implies_true, lasting_eta, snd_ite, fst_ite, lasting_withCyc]
       done)
    | split
    | (dsimp +zetaHave only; split)
    | (simp +zetaDelta only [
         lasting_ite, ite_self, lasting_foldl, implies_true, lasting_eta, snd_ite, fst_ite, lasting_withCyc]
       done)
    | rfl

@[simp] theorem keep_passSteps (s : State) (c : Nat) :
    (passSteps s c).lasting = s.lasting := by
  unfold passSteps
  repeat' first
    | done
    | (simp only [
         lasting_ite, ite_self, lasting_foldl, implies_true, lasting_eta, snd_ite, fst_ite, keep_sendUntil,
         keep_setCount]
       done)
    | split
    | (dsimp +zetaHave only; split)
    | (simp +zetaDelta only [
         lasting_ite, ite_self, lasting_foldl, implies_true, lasting_eta, snd_ite, fst_ite, keep_sendUntil,
         keep_setCount]
       done)
    | rfl

@[simp] theorem keep_moveCount (s : State) (c : Nat) :
    (moveCount s c).lasting = s.lasting := by
  unfold moveCount
  repeat' first
    | done
    | (simp only [
         lasting_ite, ite_self, lasting_foldl, implies_true, lasting_eta, snd_ite, fst_ite, keep_holdDue,
         keep_passSteps]
       done)
    | split
    | (dsimp +zetaHave only; split)
    | (simp +zetaDelta only [
         lasting_ite, ite_self, lasting_foldl, implies_true, lasting_eta, snd_ite, fst_ite, keep_holdDue,
         keep_passSteps]
       done)
    | rfl

end Sys2Proof.Machine
end

