-- ==== Sys2Proof/Laws/KeepOperands.lean ====
section
/-! SUPPORT. Which functions of Machine/Operands.lean keep the lasting part of the state, and that what lasts lasts through the others. -/
set_option linter.unusedSimpArgs false

namespace Sys2Proof.Machine

@[simp] theorem keep_State_setQueue (s : State) (die q : Nat) (x : Queue) :
    (State.setQueue s die q x).lasting = s.lasting := by
  simp only [State.setQueue, lasting_ite, ite_self, lasting_foldl, implies_true, lasting_eta, snd_ite, fst_ite,
    lasting_withQueues]

end Sys2Proof.Machine
end

