-- ==== Sys2Proof/Laws/KeepDowel.lean ====
section
/-! SUPPORT. Which functions of Machine/Dowel.lean keep the lasting part of the state, and that what lasts lasts through the others. -/
set_option linter.unusedSimpArgs false

namespace Sys2Proof.Machine

@[simp] theorem keep_ramChecked (s : State) (die panel addr step : Nat) :
    (ramChecked s die panel addr step).2.lasting = s.lasting := by
  simp only [ramChecked, lasting_ite, ite_self, lasting_foldl, implies_true, lasting_eta, snd_ite, fst_ite,
    keep_State_bump, keep_raise, keep_raiseFault]
  repeat' (first | (simp only [lasting_ite, ite_self, lasting_foldl, implies_true, lasting_eta, snd_ite, fst_ite,
    keep_State_bump, keep_raise, keep_raiseFault]; done) | split | rfl)

@[simp] theorem keep_readStrobe (s : State) (die panel step : Nat) :
    (readStrobe s die panel step).lasting = s.lasting := by
  simp only [readStrobe, lasting_ite, ite_self, lasting_foldl, implies_true, lasting_eta, snd_ite, fst_ite,
    keep_State_setPanel, keep_ramChecked]
  repeat' (first | (simp only [lasting_ite, ite_self, lasting_foldl, implies_true, lasting_eta, snd_ite, fst_ite,
    keep_State_setPanel, keep_ramChecked]; done) | split | rfl)

@[simp] theorem keep_writeStrobe (s : State) (die panel step : Nat) :
    (writeStrobe s die panel step).lasting = s.lasting := by
  simp only [writeStrobe, lasting_ite, ite_self, lasting_foldl, implies_true, lasting_eta, snd_ite, fst_ite,
    keep_State_setPanel, keep_ramChecked]
  repeat' (first | (simp only [lasting_ite, ite_self, lasting_foldl, implies_true, lasting_eta, snd_ite, fst_ite,
    keep_State_setPanel, keep_ramChecked]; done) | split | rfl)

@[simp] theorem keep_endStep (s : State) (die panel : Nat) :
    (endStep s die panel).lasting = s.lasting := by
  simp only [endStep, lasting_ite, ite_self, lasting_foldl, implies_true, lasting_eta, snd_ite, fst_ite,
    keep_State_setPanel, keep_readStrobe, keep_writeStrobe]
  repeat' (first | (simp only [lasting_ite, ite_self, lasting_foldl, implies_true, lasting_eta, snd_ite, fst_ite,
    keep_State_setPanel, keep_readStrobe, keep_writeStrobe]; done) | split | rfl)

@[simp] theorem keep_passTo (s : State) (t : Nat) :
    (passTo s t).lasting = s.lasting := by
  unfold passTo
  repeat' first
    | done
    | (simp only [
         lasting_ite, ite_self, lasting_foldl, implies_true, lasting_eta, snd_ite, fst_ite, keep_endStep,
         keep_passSteps]
       done)
    | split
    | (dsimp +zetaHave only; split)
    | (simp +zetaDelta only [
         lasting_ite, ite_self, lasting_foldl, implies_true, lasting_eta, snd_ite, fst_ite, keep_endStep,
         keep_passSteps]
       done)
    | rfl

@[simp] theorem keep_moveStep (s : State) (t : Nat) :
    (moveStep s t).lasting = s.lasting := by
  unfold moveStep
  repeat' first
    | done
    | (simp only [
         lasting_ite, ite_self, lasting_foldl, implies_true, lasting_eta, snd_ite, fst_ite, keep_holdDue,
         keep_passTo]
       done)
    | split
    | (dsimp +zetaHave only; split)
    | (simp +zetaDelta only [
         lasting_ite, ite_self, lasting_foldl, implies_true, lasting_eta, snd_ite, fst_ite, keep_holdDue,
         keep_passTo]
       done)
    | rfl

@[simp] theorem keep_endOfStep (s : State) (die panel k step : Nat) (r write cout : Bool) :
    (endOfStep s die panel k step r write cout).lasting = s.lasting := by
  simp only [endOfStep, lasting_ite, ite_self, lasting_foldl, implies_true, lasting_eta, snd_ite, fst_ite,
    keep_State_setPanel]

@[simp] theorem keep_contributeMemq (s : State) (die step sel : Nat) (r : Bool) :
    (contributeMemq s die step sel r).lasting = s.lasting := by
  simp only [contributeMemq, lasting_ite, ite_self, lasting_foldl, implies_true, lasting_eta, snd_ite, fst_ite,
    keep_raise, keep_State_setQueue]

@[simp] theorem keep_contributeStop (s : State) (die panel step code : Nat) (r : Bool) :
    (contributeStop s die panel step code r).lasting = s.lasting := by
  simp only [contributeStop, lasting_ite, ite_self, lasting_foldl, implies_true, lasting_eta, snd_ite, fst_ite,
    lasting_withCyc, keep_State_setPanel]

@[simp] theorem keep_contribute (s : State) (die panel step op sel : Nat) (r : Bool) :
    (contribute s die panel step op sel r).lasting = s.lasting := by
  unfold contribute
  repeat' (first | (simp only [lasting_ite, ite_self, lasting_foldl, implies_true, lasting_eta, snd_ite, fst_ite,
    keep_State_setPanel, keep_contributeMemq, keep_contributeStop]; done) | split | rfl)

@[simp] theorem keep_runWord (s : State) (die panel k step : Nat) (w : BitVec 80) (ce : Bool) :
    (runWord s die panel k step w ce).lasting = s.lasting := by
  unfold runWord
  repeat' first
    | done
    | (simp only [
         lasting_ite, ite_self, lasting_foldl, implies_true, lasting_eta, snd_ite, fst_ite, keep_contribute,
         keep_endOfStep, keep_raiseAll, keep_raiseReplay]
       done)
    | split
    | (dsimp +zetaHave only; split)
    | (simp +zetaDelta only [
         lasting_ite, ite_self, lasting_foldl, implies_true, lasting_eta, snd_ite, fst_ite, keep_contribute,
         keep_endOfStep, keep_raiseAll, keep_raiseReplay]
       done)
    | rfl

@[simp] theorem keep_execDowel (s : State) (d : DowelAt) (ops : Nat → Bool) :
    (execDowel s d ops).lasting = s.lasting := by
  unfold execDowel; (repeat' split) <;> simp +zetaDelta

end Sys2Proof.Machine
end

