-- ==== Sys2Proof/Laws/KeepFabric.lean ====
section
/-! SUPPORT. Which functions of Machine/Fabric.lean keep the lasting part of the state, and that what lasts lasts through the others. -/
set_option linter.unusedSimpArgs false

namespace Sys2Proof.Machine

@[simp] theorem keep_scrubPanel (s : State) (die panel : Nat) :
    (scrubPanel s die panel).lasting = s.lasting := by
  simp only [scrubPanel, lasting_ite, ite_self, lasting_foldl, implies_true, lasting_eta, snd_ite, fst_ite,
    keep_raiseAll, keep_State_setPanel, keep_markPanel, keep_countCe]

@[simp] theorem keep_crossbarStep (s : State) (g row : Nat) :
    (crossbarStep s g row).lasting = s.lasting := by
  simp only [crossbarStep, lasting_ite, ite_self, lasting_foldl, implies_true, lasting_eta, snd_ite, fst_ite,
    lasting_withFab]

@[simp] theorem keep_slotStep (s : State) (row : Nat) :
    (slotStep s row).lasting = s.lasting := by
  unfold slotStep
  repeat' first
    | done
    | (simp only [
         lasting_ite, ite_self, lasting_foldl, implies_true, lasting_eta, snd_ite, fst_ite, lasting_withFab]
       done)
    | split
    | (dsimp +zetaHave only; split)
    | (simp +zetaDelta only [
         lasting_ite, ite_self, lasting_foldl, implies_true, lasting_eta, snd_ite, fst_ite, lasting_withFab]
       done)
    | rfl

@[simp] theorem keep_showMod (s : State) (die m : Nat) (st : ModState) :
    (showMod s die m st).lasting = s.lasting := by
  simp only [showMod, lasting_ite, ite_self, lasting_foldl, implies_true, lasting_eta, snd_ite, fst_ite,
    keep_State_setF, keep_State_setMod]

@[simp] theorem keep_setLink (s : State) (die m : Nat) (st : ModState) :
    (setLink s die m st).lasting = s.lasting := by
  simp only [setLink, lasting_ite, ite_self, lasting_foldl, implies_true, lasting_eta, snd_ite, fst_ite, keep_showMod]

@[simp] theorem keep_deliverPayload (s : State) (die m : Nat) (atHub : Bool) (t : Nat) (v : BitVec 512) :
    (deliverPayload s die m atHub t v).lasting = s.lasting := by
  simp only [deliverPayload, lasting_ite, ite_self, lasting_foldl, implies_true, lasting_eta, snd_ite, fst_ite,
    lasting_withFab]

@[simp] theorem keep_frameFound (s : State) (die m : Nat) (atHub : Bool) (t row : Nat) (fed : Bool) (fnd : FrameFinding) :
    (frameFound s die m atHub t row fed fnd).lasting = s.lasting := by
  unfold frameFound
  repeat' first
    | done
    | (simp only [
         lasting_ite, ite_self, lasting_foldl, implies_true, lasting_eta, snd_ite, fst_ite, keep_State_bump,
         keep_deliverPayload, keep_raise, keep_raiseFault, keep_raiseReplay]
       done)
    | split
    | (dsimp +zetaHave only; split)
    | (simp +zetaDelta only [
         lasting_ite, ite_self, lasting_foldl, implies_true, lasting_eta, snd_ite, fst_ite, keep_State_bump,
         keep_deliverPayload, keep_raise, keep_raiseFault, keep_raiseReplay]
       done)
    | rfl

@[simp] theorem keep_linkReceive (s : State) (die m : Nat) (atHub : Bool) (t : Nat) (n : LinkNoise) :
    (linkReceive s die m atHub t n).lasting = s.lasting := by
  unfold linkReceive
  repeat' first
    | done
    | (simp only [
         lasting_ite, ite_self, lasting_foldl, implies_true, lasting_eta, snd_ite, fst_ite, keep_frameFound]
       done)
    | split
    | (dsimp +zetaHave only; split)
    | (simp +zetaDelta only [
         lasting_ite, ite_self, lasting_foldl, implies_true, lasting_eta, snd_ite, fst_ite, keep_frameFound]
       done)
    | rfl

@[simp] theorem keep_laneLost (s : State) (die m lane : Nat) (atHub : Bool) :
    (laneLost s die m lane atHub).lasting = s.lasting := by
  simp only [laneLost, lasting_ite, ite_self, lasting_foldl, implies_true, lasting_eta, snd_ite, fst_ite, keep_raise,
    keep_raiseFault, keep_spareOut, keep_setLink]

@[simp] theorem keep_trainingEnd (s : State) (die m failed failedRx : Nat) (ok : Bool) :
    (trainingEnd s die m failed failedRx ok).lasting = s.lasting := by
  unfold trainingEnd
  repeat' first
    | done
    | (simp only [
         lasting_ite, ite_self, lasting_foldl, implies_true, lasting_eta, snd_ite, fst_ite, keep_State_setF,
         keep_raise, keep_setLink, keep_spareOut]
       done)
    | split
    | (dsimp +zetaHave only; split)
    | (simp +zetaDelta only [
         lasting_ite, ite_self, lasting_foldl, implies_true, lasting_eta, snd_ite, fst_ite, keep_State_setF,
         keep_raise, keep_setLink, keep_spareOut]
       done)
    | rfl

@[simp] theorem keep_beginTraining (s : State) (die : Nat) :
    (beginTraining s die).lasting = s.lasting := by
  simp only [beginTraining, lasting_ite, ite_self, lasting_foldl, implies_true, lasting_eta, snd_ite, fst_ite,
    keep_setLink]

@[simp] theorem keep_untrain (s : State) (die : Nat) :
    (untrain s die).lasting = s.lasting := by
  simp only [untrain, lasting_ite, ite_self, lasting_foldl, implies_true, lasting_eta, snd_ite, fst_ite, keep_setLink]

@[simp] theorem keep_retrain (s : State) (die : Nat) :
    (retrain s die).lasting = s.lasting := by
  simp only [retrain, lasting_ite, ite_self, lasting_foldl, implies_true, lasting_eta, snd_ite, fst_ite, keep_raise,
    keep_beginTraining]

end Sys2Proof.Machine
end

