-- ==== Sys2Proof/Laws/KeepGauge.lean ====
section
/-! SUPPORT. Which functions of Machine/Gauge.lean keep the lasting part of the state, and that what lasts lasts through the others. -/
set_option linter.unusedSimpArgs false

namespace Sys2Proof.Machine

@[simp] theorem keep_enterHoldover (s : State) (k reason : Nat) :
    (enterHoldover s k reason).lasting = s.lasting := by
  unfold enterHoldover
  repeat' first
    | done
    | (simp only [
         lasting_ite, ite_self, lasting_foldl, implies_true, lasting_eta, snd_ite, fst_ite, keep_State_setF,
         keep_State_setGauge, keep_raise]
       done)
    | split
    | (dsimp +zetaHave only; split)
    | (simp +zetaDelta only [
         lasting_ite, ite_self, lasting_foldl, implies_true, lasting_eta, snd_ite, fst_ite, keep_State_setF,
         keep_State_setGauge, keep_raise]
       done)
    | rfl

@[simp] theorem keep_keepTick (old new : State) (k : Nat) : (keepTick old new k).lasting = new.lasting := by
  simp only [keepTick, lasting_ite, keep_State_setGauge, ite_self]

@[simp] theorem keep_gauPut (s : State) (k off : Nat) (v : Word) :
    (gauPut s k off v).lasting = s.lasting := by
  unfold gauPut
  repeat' first
    | done
    | (simp only [
         lasting_ite, ite_self, lasting_foldl, implies_true, lasting_eta, snd_ite, fst_ite,
         keep_State_setGauge, keep_State_setReg]
       done)
    | split
    | (dsimp +zetaHave only; split)
    | (simp +zetaDelta only [
         lasting_ite, ite_self, lasting_foldl, implies_true, lasting_eta, snd_ite, fst_ite,
         keep_State_setGauge, keep_State_setReg]
       done)
    | rfl

@[simp] theorem keep_gauPut64 (s : State) (k off v : Nat) :
    (gauPut64 s k off v).lasting = s.lasting := by
  unfold gauPut64
  repeat' first
    | done
    | (simp only [
         lasting_ite, ite_self, lasting_foldl, implies_true, lasting_eta, snd_ite, fst_ite, keep_gauPut]
       done)
    | split
    | (dsimp +zetaHave only; split)
    | (simp +zetaDelta only [
         lasting_ite, ite_self, lasting_foldl, implies_true, lasting_eta, snd_ite, fst_ite, keep_gauPut]
       done)
    | rfl

@[simp] theorem keep_gauPutF (s : State) (k off hi lo v : Nat) :
    (gauPutF s k off hi lo v).lasting = s.lasting := by
  unfold gauPutF
  repeat' first
    | done
    | (simp only [
         lasting_ite, ite_self, lasting_foldl, implies_true, lasting_eta, snd_ite, fst_ite, keep_gauPut]
       done)
    | split
    | (dsimp +zetaHave only; split)
    | (simp +zetaDelta only [
         lasting_ite, ite_self, lasting_foldl, implies_true, lasting_eta, snd_ite, fst_ite, keep_gauPut]
       done)
    | rfl

@[simp] theorem keep_gauBump (s : State) (k off n : Nat) :
    (gauBump s k off n).lasting = s.lasting := by
  unfold gauBump
  repeat' first
    | done
    | (simp only [
         lasting_ite, ite_self, lasting_foldl, implies_true, lasting_eta, snd_ite, fst_ite, keep_gauPutF]
       done)
    | split
    | (dsimp +zetaHave only; split)
    | (simp +zetaDelta only [
         lasting_ite, ite_self, lasting_foldl, implies_true, lasting_eta, snd_ite, fst_ite, keep_gauPutF]
       done)
    | rfl

@[simp] theorem keep_sourceWritten (s : State) (k : Nat) : (sourceWritten s k).lasting = s.lasting := rfl

@[simp] theorem keep_sourceChosen (s : State) (k oldSrc : Nat) :
    (sourceChosen s k oldSrc).lasting = s.lasting := by
  unfold sourceChosen
  repeat' first
    | done
    | (simp only [
         lasting_ite, ite_self, lasting_foldl, implies_true, lasting_eta, snd_ite, fst_ite, keep_State_setF,
         keep_State_setGauge, keep_enterHoldover, keep_raise]
       done)
    | split
    | (dsimp +zetaHave only; split)
    | (simp +zetaDelta only [
         lasting_ite, ite_self, lasting_foldl, implies_true, lasting_eta, snd_ite, fst_ite, keep_State_setF,
         keep_State_setGauge, keep_enterHoldover, keep_raise]
       done)
    | rfl

@[simp] theorem keep_gauCfgErr (s : State) (k code : Nat) :
    (gauCfgErr s k code).lasting = s.lasting := by
  simp only [gauCfgErr, lasting_ite, ite_self, lasting_foldl, implies_true, lasting_eta, snd_ite, fst_ite, keep_raise]

@[simp] theorem keep_gauAdjust (s : State) (k v : Nat) :
    (gauAdjust s k v).lasting = s.lasting := by
  simp only [gauAdjust, lasting_ite, ite_self, lasting_foldl, implies_true, lasting_eta, snd_ite, fst_ite,
    keep_raise, keep_State_setGauge]

@[simp] theorem keep_gauSetValue (s : State) (k v : Nat) :
    (gauSetValue s k v).lasting = s.lasting := by
  simp only [gauSetValue, lasting_ite, ite_self, lasting_foldl, implies_true, lasting_eta, snd_ite, fst_ite,
    keep_raise, keep_State_setGauge]

@[simp] theorem keep_takeWrites (s : State) (k : Nat) : (takeWrites s k).lasting = s.lasting := by
  unfold takeWrites
  dsimp only
  split
  · rw [keep_sourceChosen, keep_State_setGauge]
  · rfl

@[simp] theorem keep_gaugeTick (s : State) (k : Nat) :
    (gaugeTick s k).lasting = s.lasting := by
  unfold gaugeTick
  repeat' first
    | done
    | (simp only [
         lasting_ite, ite_self, lasting_foldl, implies_true, lasting_eta, snd_ite, fst_ite, keep_takeWrites,
         keep_State_setGauge, keep_State_setReg64]
       done)
    | split
    | (dsimp +zetaHave only; split)
    | (simp +zetaDelta only [
         lasting_ite, ite_self, lasting_foldl, implies_true, lasting_eta, snd_ite, fst_ite, keep_takeWrites,
         keep_State_setGauge, keep_State_setReg64]
       done)
    | rfl

@[simp] theorem keep_sourceGood (s : State) (k value meas inc : Nat) :
    (sourceGood s k value meas inc).lasting = s.lasting := by
  unfold sourceGood
  repeat' first
    | done
    | (simp only [
         lasting_ite, ite_self, lasting_foldl, implies_true, lasting_eta, snd_ite, fst_ite, keep_State_setF,
         keep_State_setReg, keep_State_setReg64, keep_raise]
       done)
    | split
    | (dsimp +zetaHave only; split)
    | (simp +zetaDelta only [
         lasting_ite, ite_self, lasting_foldl, implies_true, lasting_eta, snd_ite, fst_ite, keep_State_setF,
         keep_State_setReg, keep_State_setReg64, keep_raise]
       done)
    | rfl

@[simp] theorem keep_sourceBad (s : State) (k info : Nat) :
    (sourceBad s k info).lasting = s.lasting := by
  unfold sourceBad
  repeat' first
    | done
    | (simp only [
         lasting_ite, ite_self, lasting_foldl, implies_true, lasting_eta, snd_ite, fst_ite, keep_State_setF,
         keep_gauBump, keep_raise]
       done)
    | split
    | (dsimp +zetaHave only; split)
    | (simp +zetaDelta only [
         lasting_ite, ite_self, lasting_foldl, implies_true, lasting_eta, snd_ite, fst_ite, keep_State_setF,
         keep_gauBump, keep_raise]
       done)
    | rfl

@[simp] theorem keep_ppsEdge (s : State) (k : Nat) :
    (ppsEdge s k).lasting = s.lasting := by
  unfold ppsEdge
  repeat' first
    | done
    | (simp only [
         lasting_ite, ite_self, lasting_foldl, implies_true, lasting_eta, snd_ite, fst_ite,
         keep_State_setGauge, keep_sourceBad, keep_sourceGood]
       done)
    | split
    | (dsimp +zetaHave only; split)
    | (simp +zetaDelta only [
         lasting_ite, ite_self, lasting_foldl, implies_true, lasting_eta, snd_ite, fst_ite,
         keep_State_setGauge, keep_sourceBad, keep_sourceGood]
       done)
    | rfl

@[simp] theorem keep_ppsLost (s : State) (k : Nat) :
    (ppsLost s k).lasting = s.lasting := by
  unfold ppsLost
  repeat' first
    | done
    | (simp only [
         lasting_ite, ite_self, lasting_foldl, implies_true, lasting_eta, snd_ite, fst_ite,
         keep_State_setGauge, keep_enterHoldover]
       done)
    | split
    | (dsimp +zetaHave only; split)
    | (simp +zetaDelta only [
         lasting_ite, ite_self, lasting_foldl, implies_true, lasting_eta, snd_ite, fst_ite,
         keep_State_setGauge, keep_enterHoldover]
       done)
    | rfl

@[simp] theorem keep_tclkWindowEnd (s : State) (k : Nat) :
    (tclkWindowEnd s k).lasting = s.lasting := by
  unfold tclkWindowEnd
  repeat' first
    | done
    | (simp only [
         lasting_ite, ite_self, lasting_foldl, implies_true, lasting_eta, snd_ite, fst_ite,
         keep_State_setGauge, keep_enterHoldover, keep_sourceBad, keep_sourceGood]
       done)
    | split
    | (dsimp +zetaHave only; split)
    | (simp +zetaDelta only [
         lasting_ite, ite_self, lasting_foldl, implies_true, lasting_eta, snd_ite, fst_ite,
         keep_State_setGauge, keep_enterHoldover, keep_sourceBad, keep_sourceGood]
       done)
    | rfl

@[simp] theorem keep_gauArm (s : State) (k : Nat) :
    (gauArm s k).lasting = s.lasting := by
  unfold gauArm
  repeat' first
    | done
    | (simp only [
         lasting_ite, ite_self, lasting_foldl, implies_true, lasting_eta, snd_ite, fst_ite, keep_State_setF,
         keep_gauCfgErr]
       done)
    | split
    | (dsimp +zetaHave only; split)
    | (simp +zetaDelta only [
         lasting_ite, ite_self, lasting_foldl, implies_true, lasting_eta, snd_ite, fst_ite, keep_State_setF,
         keep_gauCfgErr]
       done)
    | rfl

@[simp] theorem keep_gauDisarm (s : State) (k : Nat) :
    (gauDisarm s k).lasting = s.lasting := by
  unfold gauDisarm
  repeat' first
    | done
    | (simp only [
         lasting_ite, ite_self, lasting_foldl, implies_true, lasting_eta, snd_ite, fst_ite,
         keep_State_setGauge]
       done)
    | split
    | (dsimp +zetaHave only; split)
    | (simp +zetaDelta only [
         lasting_ite, ite_self, lasting_foldl, implies_true, lasting_eta, snd_ite, fst_ite,
         keep_State_setGauge]
       done)
    | rfl

@[simp] theorem keep_setFired (s : State) (k : Nat) :
    (setFired s k).lasting = s.lasting := by
  simp only [setFired, lasting_ite, ite_self, lasting_foldl, implies_true, lasting_eta, snd_ite, fst_ite,
    keep_State_setF]

@[simp] theorem keep_oneShotFire (s : State) (k : Nat) :
    (oneShotFire s k).lasting = s.lasting := by
  unfold oneShotFire
  repeat' first
    | done
    | (simp only [
         lasting_ite, ite_self, lasting_foldl, implies_true, lasting_eta, snd_ite, fst_ite,
         keep_State_setGauge, keep_gauPutF, keep_setFired]
       done)
    | split
    | (dsimp +zetaHave only; split)
    | (simp +zetaDelta only [
         lasting_ite, ite_self, lasting_foldl, implies_true, lasting_eta, snd_ite, fst_ite,
         keep_State_setGauge, keep_gauPutF, keep_setFired]
       done)
    | rfl

@[simp] theorem keep_periodicFire (s : State) (k : Nat) :
    (periodicFire s k).lasting = s.lasting := by
  unfold periodicFire
  repeat' first
    | done
    | (simp only [
         lasting_ite, ite_self, lasting_foldl, implies_true, lasting_eta, snd_ite, fst_ite,
         keep_State_setGauge, keep_gauBump, keep_gauPut64, keep_raise, keep_setFired]
       done)
    | split
    | (dsimp +zetaHave only; split)
    | (simp +zetaDelta only [
         lasting_ite, ite_self, lasting_foldl, implies_true, lasting_eta, snd_ite, fst_ite,
         keep_State_setGauge, keep_gauBump, keep_gauPut64, keep_raise, keep_setFired]
       done)
    | rfl

@[simp] theorem keep_windowFire (s : State) (k : Nat) :
    (windowFire s k).lasting = s.lasting := by
  simp only [windowFire, lasting_ite, ite_self, lasting_foldl, implies_true, lasting_eta, snd_ite, fst_ite,
    keep_State_setGauge, keep_setFired]

@[simp] theorem keep_pulseEnd (s : State) (k : Nat) :
    (pulseEnd s k).lasting = s.lasting := by
  unfold pulseEnd
  repeat' first
    | done
    | (simp only [
         lasting_ite, ite_self, lasting_foldl, implies_true, lasting_eta, snd_ite, fst_ite,
         keep_State_setGauge, keep_gauPutF]
       done)
    | split
    | (dsimp +zetaHave only; split)
    | (simp +zetaDelta only [
         lasting_ite, ite_self, lasting_foldl, implies_true, lasting_eta, snd_ite, fst_ite,
         keep_State_setGauge, keep_gauPutF]
       done)
    | rfl

@[simp] theorem keep_pendingArms (s : State) :
    (pendingArms s).lasting = s.lasting := by
  unfold pendingArms
  repeat' first
    | done
    | (simp only [
         lasting_ite, ite_self, lasting_foldl, implies_true, lasting_eta, snd_ite, fst_ite, keep_State_setF,
         keep_State_setGauge, keep_State_setReg64, keep_gauPut64, keep_gauPutF]
       done)
    | split
    | (dsimp +zetaHave only; split)
    | (simp +zetaDelta only [
         lasting_ite, ite_self, lasting_foldl, implies_true, lasting_eta, snd_ite, fst_ite, keep_State_setF,
         keep_State_setGauge, keep_State_setReg64, keep_gauPut64, keep_gauPutF]
       done)
    | rfl

@[simp] theorem keep_latchEvents (s : State) :
    (latchEvents s).lasting = s.lasting := by
  simp only [latchEvents, lasting_ite, ite_self, lasting_foldl, implies_true, lasting_eta, snd_ite, fst_ite,
    lasting_withCyc, keep_State_setF]

@[simp] theorem keep_gaugesStart (s : State) :
    (gaugesStart s).lasting = s.lasting := by
  unfold gaugesStart
  repeat' first
    | done
    | (simp only [
         lasting_ite, ite_self, lasting_foldl, implies_true, lasting_eta, snd_ite, fst_ite, keep_State_setF,
         keep_State_setReg64]
       done)
    | split
    | (dsimp +zetaHave only; split)
    | (simp +zetaDelta only [
         lasting_ite, ite_self, lasting_foldl, implies_true, lasting_eta, snd_ite, fst_ite, keep_State_setF,
         keep_State_setReg64]
       done)
    | rfl

@[simp] theorem keep_paceStart (s : State) :
    (paceStart s).lasting = s.lasting := by
  unfold paceStart
  repeat' first
    | done
    | (simp only [
         lasting_ite, ite_self, lasting_foldl, implies_true, lasting_eta, snd_ite, fst_ite,
         keep_State_setReg64, keep_gauBump, keep_raise]
       done)
    | split
    | (dsimp +zetaHave only; split)
    | (simp +zetaDelta only [
         lasting_ite, ite_self, lasting_foldl, implies_true, lasting_eta, snd_ite, fst_ite,
         keep_State_setReg64, keep_gauBump, keep_raise]
       done)
    | rfl

@[simp] theorem keep_gaugesStopped (s : State) :
    (gaugesStopped s).lasting = s.lasting := by
  simp only [gaugesStopped, lasting_ite, ite_self, lasting_foldl, implies_true, lasting_eta, snd_ite, fst_ite,
    keep_raise, keep_enterHoldover]

end Sys2Proof.Machine
end

