-- ==== Sys2Proof/Laws/Store.lean ====
section
/-! SUPPORT. Laws of the sparse store: a read after a write, and that a write keeps the canonical form. -/
namespace Sys2Proof.Machine

variable {β : Type}

theorem Tab.get_put_same (d : Nat → β) (t : Tab β) (k : Nat) (v : β) : Tab.get d (Tab.put t k v) k = v := by
  induction t with
  | nil => simp [Tab.put, Tab.get]
  | cons e r ih =>
    obtain ⟨i, w⟩ := e
    simp only [Tab.put]
    split
    · simp [Tab.get]
    · split
      · simp [Tab.get]
      · rename_i h1 h2
        simp [Tab.get, ih, Ne.symm h2]

theorem Tab.get_put_other (d : Nat → β) (t : Tab β) {j k : Nat} (h : j ≠ k) (v : β) :
    Tab.get d (Tab.put t k v) j = Tab.get d t j := by
  induction t with
  | nil => simp [Tab.put, Tab.get, h.symm]
  | cons e r ih =>
    obtain ⟨i, w⟩ := e
    simp only [Tab.put]
    split
    · simp [Tab.get, h.symm]
    · split
      · rename_i h2; subst h2; simp [Tab.get, h.symm]
      · simp [Tab.get, ih]

theorem Tab.get_drop_same (d : Nat → β) (t : Tab β) (k : Nat) : Tab.get d (Tab.drop t k) k = d k := by
  induction t with
  | nil => simp [Tab.drop, Tab.get]
  | cons e r ih =>
    obtain ⟨i, w⟩ := e
    by_cases h : i = k <;> simp [Tab.drop, Tab.get, h, ih]

theorem Tab.get_drop_other (d : Nat → β) (t : Tab β) {j k : Nat} (h : j ≠ k) :
    Tab.get d (Tab.drop t k) j = Tab.get d t j := by
  induction t with
  | nil => simp [Tab.drop, Tab.get]
  | cons e r ih =>
    obtain ⟨i, w⟩ := e
    by_cases h2 : i = k
    · subst h2; simp [Tab.drop, Tab.get, ih, h.symm]
    · simp [Tab.drop, Tab.get, h2, ih]

/-- A read of the key written gives the value written. -/
@[simp] theorem Tab.get_set_same [DecidableEq β] (d : Nat → β) (t : Tab β) (k : Nat) (v : β) :
    Tab.get d (Tab.set d t k v) k = v := by
  unfold Tab.set
  split
  · rename_i h; rw [h]; exact Tab.get_drop_same d t k
  · exact Tab.get_put_same d t k v

/-- A write leaves every other key alone. -/
theorem Tab.get_set_other [DecidableEq β] (d : Nat → β) (t : Tab β) {j k : Nat} (h : j ≠ k) (v : β) :
    Tab.get d (Tab.set d t k v) j = Tab.get d t j := by
  unfold Tab.set
  split
  · exact Tab.get_drop_other d t h
  · exact Tab.get_put_other d t h v

theorem Tab.above_put {t : Tab β} {lo k : Nat} {v : β} (h : Tab.above lo t = true) (hk : lo < k) :
    Tab.above lo (Tab.put t k v) = true := by
  cases t with
  | nil => simpa [Tab.put, Tab.above] using hk
  | cons e r =>
    obtain ⟨i, w⟩ := e
    simp only [Tab.put]
    split
    · simpa [Tab.above] using hk
    · split <;> simpa [Tab.above] using (by first | exact hk | simpa [Tab.above] using h)

theorem Tab.above_mono {t : Tab β} {lo hi : Nat} (h : Tab.above hi t = true) (hk : lo ≤ hi) : Tab.above lo t = true := by
  cases t with
  | nil => rfl
  | cons e r => simp [Tab.above] at *; omega

theorem Tab.wf_put [DecidableEq β] {d : Nat → β} {t : Tab β} {k : Nat} {v : β} (h : Tab.wf d t = true) (hv : v ≠ d k) :
    Tab.wf d (Tab.put t k v) = true := by
  induction t with
  | nil => simp [Tab.put, Tab.wf, Tab.above, hv]
  | cons e r ih =>
    obtain ⟨i, w⟩ := e
    simp only [Tab.wf, Bool.and_eq_true, Bool.not_eq_true', decide_eq_false_iff_not] at h
    simp only [Tab.put]
    split
    · rename_i hk
      simp only [Tab.wf, Bool.and_eq_true, Bool.not_eq_true', decide_eq_false_iff_not]
      exact ⟨⟨by simpa [Tab.above] using hk, hv⟩, h⟩
    · split
      · rename_i hk; subst hk
        simp [Tab.wf, h.1.1, h.2, hv]
      · simp only [Tab.wf, Bool.and_eq_true, Bool.not_eq_true', decide_eq_false_iff_not]
        exact ⟨⟨Tab.above_put h.1.1 (by omega), h.1.2⟩, ih h.2⟩

theorem Tab.drop_above {t : Tab β} {lo k : Nat} [DecidableEq β] {d : Nat → β} (h : Tab.wf d t = true)
    (ha : Tab.above lo t = true) : Tab.above lo (Tab.drop t k) = true := by
  induction t generalizing lo with
  | nil => rfl
  | cons e r ih =>
    obtain ⟨i, w⟩ := e
    simp only [Tab.wf, Bool.and_eq_true] at h
    simp only [Tab.above, decide_eq_true_eq] at ha
    simp only [Tab.drop]
    split
    · exact ih h.2 (Tab.above_mono h.1.1 (by omega))
    · simpa [Tab.above] using ha

theorem Tab.wf_drop [DecidableEq β] {d : Nat → β} {t : Tab β} {k : Nat} (h : Tab.wf d t = true) :
    Tab.wf d (Tab.drop t k) = true := by
  induction t with
  | nil => rfl
  | cons e r ih =>
    obtain ⟨i, w⟩ := e
    have h' := h
    simp only [Tab.wf, Bool.and_eq_true] at h
    simp only [Tab.drop]
    split
    · exact ih h.2
    · simp only [Tab.wf, Bool.and_eq_true]
      exact ⟨⟨Tab.drop_above h.2 h.1.1, h.1.2⟩, ih h.2⟩

/-- A write keeps the canonical form. -/
theorem Tab.wf_set [DecidableEq β] {d : Nat → β} {t : Tab β} (h : Tab.wf d t = true) (k : Nat) (v : β) :
    Tab.wf d (Tab.set d t k v) = true := by
  unfold Tab.set
  split
  · exact Tab.wf_drop h
  · exact Tab.wf_put h ‹_›

theorem Tab.above_filter [DecidableEq β] {d : Nat → β} {t : Tab β} {lo : Nat} {p : Nat × β → Bool} (h : Tab.wf d t = true)
    (ha : Tab.above lo t = true) : Tab.above lo (t.filter p) = true := by
  induction t generalizing lo with
  | nil => rfl
  | cons e r ih =>
    obtain ⟨i, w⟩ := e
    simp only [Tab.wf, Bool.and_eq_true] at h
    simp only [Tab.above, decide_eq_true_eq] at ha
    simp only [List.filter_cons]
    split
    · simpa [Tab.above] using ha
    · exact ih h.2 (Tab.above_mono h.1.1 (by omega))

/-- Keeping some of the entries keeps the canonical form. -/
theorem Tab.wf_filter [DecidableEq β] {d : Nat → β} {t : Tab β} {p : Nat × β → Bool} (h : Tab.wf d t = true) :
    Tab.wf d (t.filter p) = true := by
  induction t with
  | nil => rfl
  | cons e r ih =>
    obtain ⟨i, w⟩ := e
    simp only [Tab.wf, Bool.and_eq_true] at h
    simp only [List.filter_cons]
    split
    · simp only [Tab.wf, Bool.and_eq_true]
      exact ⟨⟨Tab.above_filter h.2 h.1.1, h.1.2⟩, ih h.2⟩
    · exact ih h.2

theorem Tab.wf_keep [DecidableEq β] {d : Nat → β} {t : Tab β} {p : Nat → Bool} (h : Tab.wf d t = true) :
    Tab.wf d (Tab.keep p t) = true := Tab.wf_filter h

/-- Rewriting every entry gives a store in canonical form. -/
theorem Tab.wf_mapAll [DecidableEq β] (d : Nat → β) (f : Nat → β → β) (t : Tab β) :
    Tab.wf d (Tab.mapAll d f t) = true := by
  have : ∀ (l : List (Nat × β)) (a : Tab β), Tab.wf d a = true →
      Tab.wf d (l.foldl (fun acc e => Tab.set d acc e.1 (f e.1 e.2)) a) = true := by
    intro l
    induction l with
    | nil => intro a h; exact h
    | cons e r ih => intro a h; exact ih _ (Tab.wf_set h _ _)
  exact this t [] rfl

end Sys2Proof.Machine
end

