-- ==== Sys2Proof/Laws/KeepVeneer.lean ====
section
/-! SUPPORT. Which functions of Machine/Veneer.lean keep the lasting part of the state, and that what lasts lasts through the others. -/
set_option linter.unusedSimpArgs false

namespace Sys2Proof.Machine

theorem hbmPut_wf (m : Tab (BitVec 8)) (a : Nat) (bs : List Nat) (h : Tab.wf (zeroAt 8) m = true) :
    Tab.wf (zeroAt 8) (hbmPut m a bs) = true := by
  induction bs generalizing m a with
  | nil => exact h
  | cons b r ih => exact ih _ _ (Tab.wf_set h a _)

theorem lasts_State_hbmWrite {o : Lasting} (s : State) (a : Nat) (bs : List Nat) (h : Lasts o s.lasting) :
    Lasts o (State.hbmWrite s a bs).lasting := by
  simp only [State.hbmWrite, lasting_withHbmUe]
  exact lasts_withHbm _ _ h (hbmPut_wf _ _ _)

@[simp] theorem keep_State_setRgnState (s : State) (stack i v : Nat) :
    (State.setRgnState s stack i v).lasting = s.lasting := by
  simp only [State.setRgnState, lasting_ite, ite_self, lasting_foldl, implies_true, lasting_eta, snd_ite, fst_ite,
    keep_State_setF]

@[simp] theorem keep_State_setKeySt (s : State) (id v : Nat) :
    (State.setKeySt s id v).lasting = s.lasting := by
  simp only [State.setKeySt, lasting_ite, ite_self, lasting_foldl, implies_true, lasting_eta, snd_ite, fst_ite,
    keep_State_setF]

@[simp] theorem keep_State_setKeys (s : State) (id : Nat) (k : KeyMat) :
    (State.setKeys s id k).lasting = s.lasting := by
  simp only [State.setKeys, lasting_ite, ite_self, lasting_foldl, implies_true, lasting_eta, snd_ite, fst_ite,
    lasting_withVnr]

@[simp] theorem keep_alarm (s : State) (stack : Nat) :
    (alarm s stack).lasting = s.lasting := by
  simp only [alarm, lasting_ite, ite_self, lasting_foldl, implies_true, lasting_eta, snd_ite, fst_ite,
    lasting_withAlarms, lasting_withRecent, keep_State_bump]

@[simp] theorem keep_vnrFail (s : State) (stack cls : Nat) (write : Bool) (rq : VRequester) (region addr : Nat) :
    (vnrFail s stack cls write rq region addr).lasting = s.lasting := by
  simp only [vnrFail, lasting_ite, ite_self, lasting_foldl, implies_true, lasting_eta, snd_ite, fst_ite,
    keep_raiseAt, keep_alarm]

@[simp] theorem keep_State_setRoot (s : State) (stack rgn i v : Nat) :
    (State.setRoot s stack rgn i v).lasting = s.lasting := by
  simp only [State.setRoot, lasting_ite, ite_self, lasting_foldl, implies_true, lasting_eta, snd_ite, fst_ite,
    lasting_withVnr]

@[simp] theorem keep_showPoison (s : State) (stack : Nat) :
    (showPoison s stack).lasting = s.lasting := by
  simp only [showPoison, lasting_ite, ite_self, lasting_foldl, implies_true, lasting_eta, snd_ite, fst_ite,
    keep_State_setF]

@[simp] theorem keep_addPoison (s : State) (stack rgn lvl b : Nat) :
    (addPoison s stack rgn lvl b).lasting = s.lasting := by
  simp only [addPoison, lasting_ite, ite_self, lasting_foldl, implies_true, lasting_eta, snd_ite, fst_ite,
    lasting_withVnr, keep_showPoison]

@[simp] theorem keep_clearPoison (s : State) (stack rgn : Nat) :
    (clearPoison s stack rgn).lasting = s.lasting := by
  simp only [clearPoison, lasting_ite, ite_self, lasting_foldl, implies_true, lasting_eta, snd_ite, fst_ite,
    lasting_withVnr, keep_showPoison]

theorem lasts_putBlock {o : Lasting} (s : State) (stack rgn : Nat) (r : Region) (i b : Nat) (bytes : List Nat)
    (h : Lasts o s.lasting) : Lasts o (putBlock s stack rgn r i b bytes).lasting :=
  lasts_State_hbmWrite _ _ _ (lasts_State_hbmWrite _ _ _ h)

theorem lasts_bumpTree {o : Lasting} (s : State) (stack rgn : Nat) (r : Region) (n i b e : Nat)
    (h : Lasts o s.lasting) : Lasts o (bumpTree s stack rgn r n i b e).lasting := by
  induction n generalizing s i b e with
  | zero => exact h
  | succ n ih =>
    unfold bumpTree
    dsimp only
    refine lasts_putBlock _ _ _ _ _ _ _ (lasts_ite' ?_ (ih _ _ _ _ h))
    simpa only [keep_State_setRoot] using h

theorem lasts_linePut {o : Lasting} (s : State) (stack rgn addr : Nat) (bytes : List Nat) (h : Lasts o s.lasting) :
    Lasts o (linePut s stack rgn addr bytes).lasting :=
  lasts_ite' (lasts_State_hbmWrite _ _ _ (lasts_State_hbmWrite _ _ _ (lasts_bumpTree _ _ _ _ _ _ _ _ h)))
    (lasts_State_hbmWrite _ _ _ h)

theorem lasts_vnrLine {o : Lasting} (s : State) (rq : VRequester) (addr : Nat) (wr : Option (List Nat × Nat))
    (h : Lasts o s.lasting) : Lasts o (vnrLine s rq addr wr).2.2.lasting := by
  unfold vnrLine
  repeat' first
    | exact h
    | (simp only [keep_vnrFail, keep_addPoison]; exact h)
    | exact lasts_linePut _ _ _ _ _ h
    | split
    | dsimp only

theorem lasts_vnrRead {o : Lasting} (s : State) (rq : VRequester) (addr n : Nat) (h : Lasts o s.lasting) :
    Lasts o (vnrRead s rq addr n).2.2.lasting := by
  unfold vnrRead
  with_reducible exact lasts_vnrLine _ _ _ _ h

theorem lasts_vnrWrite {o : Lasting} (s : State) (rq : VRequester) (addr : Nat) (bytes : List Nat) (be : Nat)
    (h : Lasts o s.lasting) : Lasts o (vnrWrite s rq addr bytes be).2.lasting := by
  unfold vnrWrite
  with_reducible exact lasts_vnrLine _ _ _ _ h

/-- An access over the ring: what it does at its node lasts, so it does. -/
theorem lasts_netRead {o : Lasting} (s : State) (rq : VRequester) (addr n : Nat) (t : HostTrip) (h : Lasts o s.lasting) :
    Lasts o (netRead s rq addr n t).2.2.lasting := by
  unfold netRead
  split
  · exact lasts_vnrRead _ _ _ _ h
  · rename_i src _
    have h1 := keep_tripGo s (s.unitReq src (hbmNode addr) 1 addr n []) t
    dsimp only
    split <;> rename_i e <;> rw [e] at h1
    · simp only [keep_tripEnd]
      exact lasts_vnrRead _ _ _ _ (h1 ▸ h)
    · exact h1 ▸ h

theorem lasts_netWrite {o : Lasting} (s : State) (rq : VRequester) (addr : Nat) (bytes : List Nat) (be : Nat) (t : HostTrip)
    (h : Lasts o s.lasting) : Lasts o (netWrite s rq addr bytes be t).2.lasting := by
  unfold netWrite
  split
  · exact lasts_vnrWrite _ _ _ _ _ h
  · rename_i src _
    have h1 := keep_tripGo s (s.unitReq src (hbmNode addr) 2 addr bytes.length bytes) t
    dsimp only
    split <;> rename_i e <;> rw [e] at h1
    · simp only [keep_tripEnd]
      exact lasts_vnrWrite _ _ _ _ _ (h1 ▸ h)
    · exact h1 ▸ h

theorem lasts_vnrReadRun {o : Lasting} (s : State) (rq : VRequester) (addr n : Nat) (h : Lasts o s.lasting) :
    Lasts o (vnrReadRun s rq addr n).2.2.lasting := by
  refine lasts_foldl3 _ _ _ (fun t e ht => ?_) h
  split
  · exact ht
  · exact lasts_netRead _ _ _ _ _ ht

theorem lasts_vnrWriteRun {o : Lasting} (s : State) (rq : VRequester) (addr : Nat) (bytes : List Nat)
    (h : Lasts o s.lasting) : Lasts o (vnrWriteRun s rq addr bytes).2.lasting := by
  refine lasts_foldl2 _ _ _ (fun t e ht => ?_) h
  split
  · exact ht
  · exact lasts_netWrite _ _ _ _ _ _ ht

@[simp] theorem keep_enableRegion (s : State) (stack i : Nat) :
    (enableRegion s stack i).lasting = s.lasting := by
  simp only [enableRegion, lasting_ite, ite_self, lasting_foldl, implies_true, lasting_eta, snd_ite, fst_ite,
    keep_State_setF, keep_raise, keep_State_setRgnState]

@[simp] theorem keep_disableRegion (s : State) (stack i : Nat) :
    (disableRegion s stack i).lasting = s.lasting := by
  simp only [disableRegion, lasting_ite, ite_self, lasting_foldl, implies_true, lasting_eta, snd_ite, fst_ite,
    keep_State_setRgnState]

@[simp] theorem keep_keyRefused (s : State) (id : Nat) :
    (keyRefused s id).lasting = s.lasting := by
  simp only [keyRefused, lasting_ite, ite_self, lasting_foldl, implies_true, lasting_eta, snd_ite, fst_ite,
    keep_raise]

@[simp] theorem keep_keyGenerate (s : State) (id : Nat) :
    (keyGenerate s id).lasting = s.lasting := by
  simp only [keyGenerate, lasting_ite, ite_self, lasting_foldl, implies_true, lasting_eta, snd_ite, fst_ite,
    lasting_withFree, keep_State_setKeySt, keep_State_setKeys, keep_keyRefused]

@[simp] theorem keep_keyFlush (s : State) (id : Nat) :
    (keyFlush s id).lasting = s.lasting := by
  simp only [keyFlush, lasting_ite, ite_self, lasting_foldl, implies_true, lasting_eta, snd_ite, fst_ite,
    keep_State_setKeySt, keep_keyRefused]

@[simp] theorem keep_keyFlushEnd (s : State) (id : Nat) :
    (keyFlushEnd s id).lasting = s.lasting := by
  simp only [keyFlushEnd, lasting_ite, ite_self, lasting_foldl, implies_true, lasting_eta, snd_ite, fst_ite,
    keep_State_setKeySt]

@[simp] theorem keep_keyRetire (s : State) (id : Nat) :
    (keyRetire s id).lasting = s.lasting := by
  simp only [keyRetire, lasting_ite, ite_self, lasting_foldl, implies_true, lasting_eta, snd_ite, fst_ite,
    keep_State_setKeySt, keep_keyRefused]

@[simp] theorem keep_emptyKey (s : State) (id : Nat) :
    (emptyKey s id).lasting = s.lasting := by
  simp only [emptyKey, lasting_ite, ite_self, lasting_foldl, implies_true, lasting_eta, snd_ite, fst_ite,
    keep_State_setRgnState, keep_State_setKeySt, keep_State_setKeys, keep_clearPoison]

@[simp] theorem keep_keyRetireEnd (s : State) (id : Nat) :
    (keyRetireEnd s id).lasting = s.lasting := by
  simp only [keyRetireEnd, lasting_ite, ite_self, lasting_foldl, implies_true, lasting_eta, snd_ite, fst_ite,
    keep_emptyKey]

@[simp] theorem keep_emptyAllKeys (s : State) :
    (emptyAllKeys s).lasting = s.lasting := by
  simp only [emptyAllKeys, lasting_ite, ite_self, lasting_foldl, implies_true, lasting_eta, snd_ite, fst_ite,
    keep_emptyKey]

@[simp] theorem keep_sealStart (s : State) (stack rgn : Nat) (zero : Bool) :
    (sealStart s stack rgn zero).lasting = s.lasting := by
  unfold sealStart
  extract_lets p r k s1 s2 s3
  have h1 : s1.lasting = s.lasting := keep_State_setKeys ..
  have h2 : s2.lasting = s1.lasting := keep_State_setF ..
  have h3 : s3.lasting = s2.lasting := (keep_State_setF ..).trans (keep_State_setRgnState ..)
  clear_value s1 s2 s3
  split
  · exact keep_raise ..
  · exact (keep_clearPoison ..).trans ((lasting_withVnr ..).trans (h3.trans (h2.trans h1)))

theorem lasts_sealLevel {o : Lasting} (s : State) (stack rgn : Nat) (r : Region) (c0 i : Nat) (h : Lasts o s.lasting) :
    Lasts o (sealLevel s stack rgn r c0 i).lasting :=
  lasts_foldl _ _ _ (fun _ _ ht => lasts_putBlock _ _ _ _ _ _ _ ht) h

theorem lasts_sealLine {o : Lasting} (s : State) (r : Region) (key : BitVec 256) (l : Nat) (h : Lasts o s.lasting) :
    Lasts o (sealLine s r key l).lasting := lasts_State_hbmWrite _ _ _ (lasts_State_hbmWrite _ _ _ h)

theorem lasts_sealWrite {o : Lasting} (s : State) (stack rgn : Nat) (zero : Bool) (r : Region) (h : Lasts o s.lasting) :
    Lasts o (sealWrite s stack rgn zero r).lasting := by
  have h2 := lasts_foldl (fun s i => sealLevel s stack rgn r (bit zero) i) (List.range (r.top + 1)).reverse _
    (fun _ _ ht => lasts_sealLevel _ _ _ _ _ _ ht)
    (lasts_foldl (fun s i => s.setRoot stack rgn i 1) (List.range 8) s (fun _ _ ht => by simpa only [keep_State_setRoot] using ht) h)
  unfold sealWrite
  exact lasts_ite' (lasts_foldl _ _ _ (fun _ _ ht => lasts_sealLine _ _ _ _ ht) h2) h2

@[simp] theorem keep_sealDone (s : State) (stack : Nat) :
    (sealDone s stack).lasting = s.lasting := by
  simp only [sealDone, lasting_ite, ite_self, lasting_foldl, implies_true, lasting_eta, snd_ite, fst_ite,
    lasting_withVnr, keep_State_setF]

theorem lasts_sealFinish {o : Lasting} (s : State) (stack : Nat) (h : Lasts o s.lasting) :
    Lasts o (sealFinish s stack).lasting := by
  unfold sealFinish
  split
  · exact h
  · have h1 : Lasts o (sealDone s stack).lasting := by simpa only [keep_sealDone] using h
    refine lasts_ite' ?_ h1
    simpa only [keep_State_setRgnState] using lasts_sealWrite _ _ _ _ _ h1

theorem lasts_lineAccess {o : Lasting} (s : State) (who : VRequester) (line : Nat) (wr : Option (BitVec 512 × BitVec 64))
    (h : Lasts o s.lasting) : Lasts o (lineAccess s who line wr).2.lasting := by
  simp only [lineAccess, keep_State_send]
  exact lasts_vnrLine _ _ _ _ h

end Sys2Proof.Machine
end

