-- ==== Sys2Proof/Laws/KeepImage.lean ====
section
/-! SUPPORT. Which functions of Machine/Image.lean keep the lasting part of the state, and that what lasts lasts through the others. -/
set_option linter.unusedSimpArgs false

namespace Sys2Proof.Machine

end Sys2Proof.Machine
end

