-- ==== Sys2Proof/Laws/KeepLoader.lean ====
section
/-! SUPPORT. Which functions of Machine/Loader.lean keep the lasting part of the state, and that what lasts lasts through the others. -/
set_option linter.unusedSimpArgs false

namespace Sys2Proof.Machine

@[simp] theorem keep_State_setLdSt (s : State) (v : Nat) :
    (State.setLdSt s v).lasting = s.lasting := by
  simp only [State.setLdSt, lasting_ite, ite_self, lasting_foldl, implies_true, lasting_eta, snd_ite, fst_ite,
    keep_State_setF]

@[simp] theorem keep_sendUp (s : State) (m : ChainMsg) :
    (sendUp s m).lasting = s.lasting := by
  simp only [sendUp, lasting_ite, ite_self, lasting_foldl, implies_true, lasting_eta, snd_ite, fst_ite,
    keep_sendPacket]

@[simp] theorem keep_sendDown (s : State) (m : ChainMsg) :
    (sendDown s m).lasting = s.lasting := by
  simp only [sendDown, lasting_ite, ite_self, lasting_foldl, implies_true, lasting_eta, snd_ite, fst_ite,
    keep_sendPacket]

theorem keep_withLdr_cleared (s : State) : (s.withLdr s.ldr.cleared).lasting = s.lasting := rfl

@[simp] theorem keep_ldrIdle (s : State) : (ldrIdle s).lasting = s.lasting := by
  simp only [ldrIdle, keep_withLdr_cleared, keep_State_setReg, keep_State_setLdSt]


@[simp] theorem keep_reportLoad (s : State) (code check : Nat) :
    (reportLoad s code check).lasting = s.lasting := by
  simp only [reportLoad, lasting_ite, ite_self, lasting_foldl, implies_true, lasting_eta, snd_ite, fst_ite,
    keep_raise]

@[simp] theorem keep_dropBytes (s : State) :
    (dropBytes s).lasting = s.lasting := by
  unfold dropBytes
  repeat' first
    | done
    | (simp only [
         lasting_ite, ite_self, lasting_foldl, implies_true, lasting_eta, snd_ite, fst_ite, keep_State_setTx]
       done)
    | split
    | (dsimp +zetaHave only; split)
    | (simp +zetaDelta only [
         lasting_ite, ite_self, lasting_foldl, implies_true, lasting_eta, snd_ite, fst_ite, keep_State_setTx]
       done)
    | rfl

@[simp] theorem keep_finishLoad (s : State) (code check failPos failCode : Nat) :
    (finishLoad s code check failPos failCode).lasting = s.lasting := by
  unfold finishLoad
  repeat' first
    | done
    | (simp only [
         lasting_ite, ite_self, lasting_foldl, implies_true, lasting_eta, snd_ite, fst_ite, keep_State_setReg,
         keep_dropBytes, keep_ldrIdle, keep_reportLoad]
       done)
    | split
    | (dsimp +zetaHave only; split)
    | (simp +zetaDelta only [
         lasting_ite, ite_self, lasting_foldl, implies_true, lasting_eta, snd_ite, fst_ite, keep_State_setReg,
         keep_dropBytes, keep_ldrIdle, keep_reportLoad]
       done)
    | rfl

@[simp] theorem keep_finishRefused (s : State) (code check : Nat) :
    (finishRefused s code check).lasting = s.lasting := by
  simp only [finishRefused, lasting_ite, ite_self, lasting_foldl, implies_true, lasting_eta, snd_ite, fst_ite,
    keep_finishLoad, keep_dropBytes]

@[simp] theorem keep_refuseLoad (s : State) (code check : Nat) :
    (refuseLoad s code check).lasting = s.lasting := by
  simp only [refuseLoad, lasting_ite, ite_self, lasting_foldl, implies_true, lasting_eta, snd_ite, fst_ite,
    lasting_mixLdr, lasting_withLdr, keep_State_setLdSt, keep_sendUp, keep_finishRefused]

@[simp] theorem keep_accessFailed (s : State) (c : Nat) :
    (accessFailed s c).lasting = s.lasting := by
  unfold accessFailed
  repeat' first
    | done
    | (simp only [
         lasting_ite, ite_self, lasting_foldl, implies_true, lasting_eta, snd_ite, fst_ite, keep_raise]
       done)
    | split
    | (dsimp +zetaHave only; split)
    | (simp +zetaDelta only [
         lasting_ite, ite_self, lasting_foldl, implies_true, lasting_eta, snd_ite, fst_ite, keep_raise]
       done)
    | rfl

@[simp] theorem keep_veneerRefuse (s : State) (c : Nat) :
    (veneerRefuse s c).lasting = s.lasting := by
  unfold veneerRefuse
  repeat' first
    | done
    | (simp only [
         lasting_ite, ite_self, lasting_foldl, implies_true, lasting_eta, snd_ite, fst_ite, keep_accessFailed,
         keep_refuseLoad]
       done)
    | split
    | (dsimp +zetaHave only; split)
    | (simp +zetaDelta only [
         lasting_ite, ite_self, lasting_foldl, implies_true, lasting_eta, snd_ite, fst_ite, keep_accessFailed,
         keep_refuseLoad]
       done)
    | rfl

@[simp] theorem keep_chainEndLoad (s : State) (pos code : Nat) :
    (chainEndLoad s pos code).lasting = s.lasting := by
  simp only [chainEndLoad, lasting_ite, ite_self, lasting_foldl, implies_true, lasting_eta, snd_ite, fst_ite,
    keep_finishLoad, keep_dropBytes]

theorem lasts_writeUnits {o : Lasting} (fuel : Nat) (s : State) (h : Lasts o s.lasting) :
    Lasts o (writeUnits fuel s).lasting := by
  induction fuel generalizing s with
  | zero => exact h
  | succ n ih =>
    unfold writeUnits
    with_reducible refine lasts_ite' h ?_
    dsimp only
    have h1 := lasts_netWrite s .loader (s.unitAddr s.wrPtr) (s.ldr.part.take 16) 0xffff clearTrip h
    generalize netWrite s .loader (s.unitAddr s.wrPtr) (s.ldr.part.take 16) 0xffff clearTrip = x at h1 ⊢
    obtain ⟨c, t⟩ := x
    dsimp only at h1 ⊢
    have h2 : Lasts o ((t.withLdr { t.ldr with part := t.ldr.part.drop 16 }).setReg ldrPg 0x68
        (BitVec.ofNat 32 (s.wrPtr + 1))).lasting := by
      rw [keep_State_setReg]
      exact h1
    refine ih _ ?_
    with_reducible refine lasts_ite' h2 (lasts_ite' ?_ ?_)
    · simpa only [keep_veneerRefuse] using h2
    · simpa only [keep_accessFailed] using h2

@[simp] theorem keep_feedRing (s : State) (bs : List Nat) :
    (feedRing s bs).lasting = s.lasting := by
  unfold feedRing
  repeat' first
    | done
    | (simp only [
         lasting_ite, ite_self, lasting_foldl, implies_true, lasting_eta, snd_ite, fst_ite, lasting_withLdr]
       done)
    | split
    | (dsimp +zetaHave only; split)
    | (simp +zetaDelta only [
         lasting_ite, ite_self, lasting_foldl, implies_true, lasting_eta, snd_ite, fst_ite, lasting_withLdr]
       done)
    | rfl

@[simp] theorem lasting_seg (s : State) (x : List Nat) : (s.withLdr { s.ldr with seg := x }).lasting = s.lasting := rfl

@[simp] theorem lasting_countForward (s : State) (x : List Nat) :
    (s.withLdr (countForward s.ldr x)).lasting = s.lasting := by
  have hf : (countForward s.ldr x).fuses = s.ldr.fuses := by
    simp only [countForward, apply_ite Loader.fuses, ite_self]
  have hr : (countForward s.ldr x).retired = s.ldr.retired := by
    simp only [countForward, apply_ite Loader.retired, ite_self]
  rw [lasting_withLdr, hf, hr]; rfl

theorem lasts_pumpUnits {o : Lasting} (fuel : Nat) (s : State) (h : Lasts o s.lasting) :
    Lasts o (pumpUnits fuel s).lasting := by
  induction fuel generalizing s with
  | zero => exact h
  | succ n ih =>
    unfold pumpUnits
    with_reducible refine lasts_ite' ?_ h
    dsimp only
    have h1 := lasts_netRead s .loader (s.unitAddr s.rdPtr) 16 clearTrip h
    generalize netRead s .loader (s.unitAddr s.rdPtr) 16 clearTrip = x at h1 ⊢
    obtain ⟨c, bs, t⟩ := x
    dsimp only at h1 ⊢
    generalize hu : (t.setReg ldrPg 0x6c (BitVec.ofNat 32 (s.rdPtr + 1))).setReg64 ldrPg 0xc8 (t.reg64 ldrPg 0xc8 + 16) = u
    have h2 : Lasts o u.lasting := by
      rw [← hu, keep_State_setReg64, keep_State_setReg]
      exact h1
    have hk : ∀ t' : State, t'.reg64 ldrPg 0xc8 = t'.reg64 ldrPg 0xc8 := fun _ => rfl
    repeat' first
      | with_reducible exact h2
      | with_reducible apply lasts_ite'
      | with_reducible apply ih
      | simp only [keep_veneerRefuse, keep_accessFailed, lasting_seg, lasting_countForward, keep_sendBytes, keep_State_setReg64,
          keep_State_setReg]
      | assumption

@[simp] theorem keep_forwardRest (s : State) : (forwardRest s).lasting = s.lasting := by
  have h : ∀ (t : State) (x y : List Nat), (t.withLdr { countForward t.ldr x with part := y }).lasting = t.lasting :=
    fun t x _ => (rfl : _ = (t.withLdr (countForward t.ldr x)).lasting).trans (lasting_countForward t x)
  simp only [forwardRest, lasting_ite, h, keep_State_setReg64, keep_sendBytes, ite_self]

@[simp] theorem keep_streamEnds (s : State) :
    (streamEnds s).lasting = s.lasting := by
  unfold streamEnds
  repeat' first
    | done
    | (simp only [
         lasting_ite, ite_self, lasting_foldl, implies_true, lasting_eta, snd_ite, fst_ite, keep_State_setLdSt,
         keep_finishRefused, keep_finishLoad, keep_forwardRest, keep_refuseLoad, keep_sendDown, keep_sendUp, lasting_withLdr]
       done)
    | split
    | (dsimp +zetaHave only; split)
    | (simp +zetaDelta only [
         lasting_ite, ite_self, lasting_foldl, implies_true, lasting_eta, snd_ite, fst_ite, keep_State_setLdSt,
         keep_finishRefused, keep_finishLoad, keep_forwardRest, keep_refuseLoad, keep_sendDown, keep_sendUp, lasting_withLdr]
       done)
    | rfl

theorem lasts_pump {o : Lasting} (s : State) (h : Lasts o s.lasting) : Lasts o (pump s).lasting := by
  have h2 := lasts_pumpUnits (((writeUnits (s.ldr.part.length / 16) s).wrPtr + 2 ^ 32 -
    (writeUnits (s.ldr.part.length / 16) s).rdPtr) % 2 ^ 32) _ (lasts_writeUnits (s.ldr.part.length / 16) s h)
  unfold pump
  dsimp only
  generalize pumpUnits _ (writeUnits _ s) = u at h2 ⊢
  have h3 : ∀ (n : Nat) (c : Prop) [Decidable c], Lasts o (if c then pumpUnits n (refuseLoad u 8 0) else u).lasting := fun n c _ =>
    lasts_ite' (lasts_pumpUnits _ _ (by simpa only [keep_refuseLoad] using h2)) h2
  refine lasts_ite' ?_ (h3 _ _)
  rw [keep_streamEnds]
  exact h3 _ _

theorem lasts_loaderBusError {o : Lasting} (s : State) (line : Nat) (h : Lasts o s.lasting) :
    Lasts o (loaderBusError s line).lasting := by
  unfold loaderBusError
  repeat' first
    | with_reducible exact h
    | with_reducible assumption
    | with_reducible apply lasts_ite'
    | with_reducible apply lasts_pump
    | (with_reducible apply lasts_foldl; intro _ _ _)
    | simp only [keep_raise, keep_veneerRefuse, lasting_eta, snd_ite, fst_ite]
    | ((with_reducible refine lasts_withLdr _ _ ?hf ?hr ?_); (case hf => rfl); (case hr => rfl))
    | with_reducible refine lasts_snd_eq ‹_ = (_, _)› ?_
    | with_reducible refine lasts_snd2_eq ‹_ = (_, _, _)› ?_
    | split
    | dsimp only

@[simp] theorem keep_beginLoad (s : State) (head : Bool) (b pos : Nat) (id : Word) :
    (beginLoad s head b pos id).lasting = s.lasting := by
  simp only [beginLoad, lasting_ite, ite_self, lasting_foldl, implies_true, lasting_eta, snd_ite, fst_ite,
    lasting_mixLdr, lasting_withLdr, keep_State_setF, keep_State_setReg64, keep_State_setLdSt]
  repeat' (first | (simp only [lasting_ite, ite_self, lasting_foldl, implies_true, lasting_eta, snd_ite, fst_ite,
    lasting_mixLdr, lasting_withLdr, keep_State_setF, keep_State_setReg64, keep_State_setLdSt]; done) | split | rfl)

theorem lasts_ldrGo {o : Lasting} (s : State) (h : Lasts o s.lasting) :
    Lasts o (ldrGo s).lasting := by
  unfold ldrGo
  repeat' first
    | with_reducible exact h
    | with_reducible assumption
    | with_reducible apply lasts_ite'
    | with_reducible apply lasts_pump
    | (with_reducible apply lasts_foldl; intro _ _ _)
    | simp only [keep_State_setReg64, keep_beginLoad, keep_raise, lasting_eta, snd_ite, fst_ite]
    | ((with_reducible refine lasts_withLdr _ _ ?hf ?hr ?_); (case hf => rfl); (case hr => rfl))
    | with_reducible refine lasts_snd_eq ‹_ = (_, _)› ?_
    | with_reducible refine lasts_snd2_eq ‹_ = (_, _, _)› ?_
    | split
    | dsimp only

theorem lasts_ldrEnd {o : Lasting} (s : State) (h : Lasts o s.lasting) :
    Lasts o (ldrEnd s).lasting := by
  unfold ldrEnd
  repeat' first
    | with_reducible exact h
    | with_reducible assumption
    | with_reducible apply lasts_ite'
    | with_reducible apply lasts_pump
    | (with_reducible apply lasts_foldl; intro _ _ _)
    | simp only [lasting_eta, snd_ite, fst_ite]
    | ((with_reducible refine lasts_withLdr _ _ ?hf ?hr ?_); (case hf => rfl); (case hr => rfl))
    | with_reducible refine lasts_snd_eq ‹_ = (_, _)› ?_
    | with_reducible refine lasts_snd2_eq ‹_ = (_, _, _)› ?_
    | split
    | dsimp only

@[simp] theorem keep_ldrStreamEnd (s : State) :
    (ldrStreamEnd s).lasting = s.lasting := by
  simp only [ldrStreamEnd, lasting_ite, ite_self, lasting_foldl, implies_true, lasting_eta, snd_ite, fst_ite,
    keep_streamEnds]

theorem lasts_ldrAbort {o : Lasting} (s : State) (h : Lasts o s.lasting) :
    Lasts o (ldrAbort s).lasting := by
  unfold ldrAbort
  repeat' first
    | with_reducible exact h
    | with_reducible assumption
    | with_reducible apply lasts_ite'
    | with_reducible apply lasts_pump
    | (with_reducible apply lasts_foldl; intro _ _ _)
    | simp only [keep_chainEndLoad, keep_finishRefused, keep_raise, keep_refuseLoad, keep_sendDown, lasting_eta,
        snd_ite, fst_ite]
    | ((with_reducible refine lasts_withLdr _ _ ?hf ?hr ?_); (case hf => rfl); (case hr => rfl))
    | with_reducible refine lasts_snd_eq ‹_ = (_, _)› ?_
    | with_reducible refine lasts_snd2_eq ‹_ = (_, _, _)› ?_
    | split
    | dsimp only

@[simp] theorem keep_orderCommit (s : State) :
    (orderCommit s).lasting = s.lasting := by
  simp only [orderCommit, lasting_ite, ite_self, lasting_foldl, implies_true, lasting_eta, snd_ite, fst_ite,
    lasting_mixLdr, lasting_withLdr, keep_State_setLdSt, keep_sendDown]

@[simp] theorem keep_ldrCommit (s : State) :
    (ldrCommit s).lasting = s.lasting := by
  simp only [ldrCommit, lasting_ite, ite_self, lasting_foldl, implies_true, lasting_eta, snd_ite, fst_ite,
    keep_raise, keep_orderCommit]

theorem lasts_writeWrPtr {o : Lasting} (s : State) (v : Word) (h : Lasts o s.lasting) :
    Lasts o (writeWrPtr s v).lasting := by
  unfold writeWrPtr
  repeat' first
    | with_reducible exact h
    | with_reducible assumption
    | with_reducible apply lasts_ite'
    | with_reducible apply lasts_pump
    | (with_reducible apply lasts_foldl; intro _ _ _)
    | simp only [keep_State_setReg, keep_raise, lasting_eta, snd_ite, fst_ite]
    | ((with_reducible refine lasts_withLdr _ _ ?hf ?hr ?_); (case hf => rfl); (case hr => rfl))
    | with_reducible refine lasts_snd_eq ‹_ = (_, _)› ?_
    | with_reducible refine lasts_snd2_eq ‹_ = (_, _, _)› ?_
    | split
    | dsimp only

theorem lasts_ldrDataWord {o : Lasting} (s : State) (w : Word) (h : Lasts o s.lasting) :
    Lasts o (ldrDataWord s w).lasting := by
  unfold ldrDataWord
  repeat' first
    | with_reducible exact h
    | with_reducible assumption
    | with_reducible apply lasts_ite'
    | with_reducible apply lasts_pump
    | (with_reducible apply lasts_foldl; intro _ _ _)
    | simp only [keep_feedRing, lasting_eta, snd_ite, fst_ite]
    | ((with_reducible refine lasts_withLdr _ _ ?hf ?hr ?_); (case hf => rfl); (case hr => rfl))
    | with_reducible refine lasts_snd_eq ‹_ = (_, _)› ?_
    | with_reducible refine lasts_snd2_eq ‹_ = (_, _, _)› ?_
    | split
    | dsimp only

theorem lasts_streamBytes {o : Lasting} (s : State) (b : Nat) (bs : List Nat) (h : Lasts o s.lasting) :
    Lasts o (streamBytes s b bs).lasting := by
  unfold streamBytes
  repeat' first
    | with_reducible exact h
    | with_reducible assumption
    | with_reducible apply lasts_ite'
    | with_reducible apply lasts_pump
    | (with_reducible apply lasts_foldl; intro _ _ _)
    | simp only [keep_feedRing, lasting_eta, snd_ite, fst_ite]
    | ((with_reducible refine lasts_withLdr _ _ ?hf ?hr ?_); (case hf => rfl); (case hr => rfl))
    | with_reducible refine lasts_snd_eq ‹_ = (_, _)› ?_
    | with_reducible refine lasts_snd2_eq ‹_ = (_, _, _)› ?_
    | split
    | dsimp only

theorem lasts_segmentPrefix {o : Lasting} (s : State) (h : Lasts o s.lasting) :
    Lasts o (segmentPrefix s).lasting := by
  unfold segmentPrefix
  repeat' first
    | with_reducible exact h
    | with_reducible assumption
    | with_reducible apply lasts_ite'
    | with_reducible apply lasts_pump
    | (with_reducible apply lasts_foldl; intro _ _ _)
    | simp only [keep_State_setF, keep_State_setReg, keep_refuseLoad, lasting_eta, snd_ite, fst_ite]
    | ((with_reducible refine lasts_withLdr _ _ ?hf ?hr ?_); (case hf => rfl); (case hr => rfl))
    | with_reducible refine lasts_snd_eq ‹_ = (_, _)› ?_
    | with_reducible refine lasts_snd2_eq ‹_ = (_, _, _)› ?_
    | split
    | dsimp only

theorem lasts_tagVerify {o : Lasting} (s : State) (h : Lasts o s.lasting) : Lasts o (tagVerify s).lasting := by
  have h1 := lasts_vnrWriteRun s .loader s.workBase (gcmCrypt (keyBytesFirst s.ldr.key) ((s.ldr.seg.drop 24).take 12)
    ((s.ldr.seg.drop 64).take (s.ldr.seg.length - 80))) h
  unfold tagVerify
  dsimp only
  generalize vnrWriteRun s .loader s.workBase _ = x at h1 ⊢
  obtain ⟨c, t⟩ := x
  with_reducible refine lasts_ite' (lasts_ite' (lasts_ite' (lasts_pump _ ?_) ?_) (lasts_pump _ ?_)) h
  · simpa only [keep_veneerRefuse] using h1
  · exact lasts_withLdr _ _ rfl rfl (by rw [keep_State_setLdSt]; exact h1)
  · simpa only [keep_refuseLoad] using h

theorem lasts_checkEnd {o : Lasting} (s : State) (h : Lasts o s.lasting) : Lasts o (checkEnd s).lasting := by
  unfold checkEnd
  with_reducible refine lasts_ite' ?_ h
  dsimp only
  have h1 := lasts_vnrReadRun s .loader s.workBase s.ldr.plain.length h
  generalize vnrReadRun s .loader s.workBase s.ldr.plain.length = x at h1 ⊢
  obtain ⟨c, plain, u⟩ := x
  dsimp only at h1 ⊢
  have h2 : Lasts o (u.withLdr { u.ldr with plain := plain }).lasting := lasts_withLdr _ _ rfl rfl h1
  generalize u.withLdr _ = w at h2 ⊢
  have h3 : Lasts o (w.withLdr { w.ldr with passed := true }).lasting := lasts_withLdr _ _ rfl rfl h2
  generalize w.withLdr _ = v at h3 ⊢
  repeat' first
    | with_reducible exact h1
    | with_reducible exact h2
    | with_reducible exact h3
    | with_reducible apply lasts_ite'
    | with_reducible apply lasts_pump
    | simp only [keep_State_setLdSt, keep_sendUp, keep_sendDown, keep_refuseLoad, keep_veneerRefuse, keep_streamEnds]
    | ((with_reducible refine lasts_withLdr _ _ ?hf ?hr ?_); (case hf => rfl); (case hr => rfl))
    | split

@[simp] theorem keep_chainStart (s : State) (b pos : Nat) (id : Word) :
    (chainStart s b pos id).lasting = s.lasting := by
  unfold chainStart
  repeat' first
    | done
    | (simp only [
         lasting_ite, ite_self, lasting_foldl, implies_true, lasting_eta, snd_ite, fst_ite, keep_State_setReg,
         keep_beginLoad, keep_sendPacket]
       done)
    | split
    | (dsimp +zetaHave only; split)
    | (simp +zetaDelta only [
         lasting_ite, ite_self, lasting_foldl, implies_true, lasting_eta, snd_ite, fst_ite, keep_State_setReg,
         keep_beginLoad, keep_sendPacket]
       done)
    | rfl

theorem lasts_chainEnd {o : Lasting} (s : State) (h : Lasts o s.lasting) :
    Lasts o (chainEnd s).lasting := by
  unfold chainEnd
  repeat' first
    | with_reducible exact h
    | with_reducible assumption
    | with_reducible apply lasts_ite'
    | with_reducible apply lasts_pump
    | (with_reducible apply lasts_foldl; intro _ _ _)
    | simp only [lasting_eta, snd_ite, fst_ite]
    | ((with_reducible refine lasts_withLdr _ _ ?hf ?hr ?_); (case hf => rfl); (case hr => rfl))
    | with_reducible refine lasts_snd_eq ‹_ = (_, _)› ?_
    | with_reducible refine lasts_snd2_eq ‹_ = (_, _, _)› ?_
    | split
    | dsimp only

@[simp] theorem keep_chainReady (s : State) :
    (chainReady s).lasting = s.lasting := by
  simp only [chainReady, lasting_ite, ite_self, lasting_foldl, implies_true, lasting_eta, snd_ite, fst_ite,
    lasting_mixLdr, lasting_withLdr, keep_State_setLdSt, keep_sendUp, keep_orderCommit]

@[simp] theorem keep_chainFail (s : State) (pos code check : Nat) :
    (chainFail s pos code check).lasting = s.lasting := by
  simp only [chainFail, lasting_ite, ite_self, lasting_foldl, implies_true, lasting_eta, snd_ite, fst_ite,
    keep_sendUp, keep_chainEndLoad]

@[simp] theorem keep_chainCommit (s : State) (id : Word) :
    (chainCommit s id).lasting = s.lasting := by
  simp only [chainCommit, lasting_ite, ite_self, lasting_foldl, implies_true, lasting_eta, snd_ite, fst_ite,
    keep_orderCommit]

@[simp] theorem keep_chainAbort (s : State) (pos : Nat) (id : Word) :
    (chainAbort s pos id).lasting = s.lasting := by
  unfold chainAbort; (repeat' split) <;> simp +zetaDelta

@[simp] theorem keep_chainDone (s : State) (pos : Nat) :
    (chainDone s pos).lasting = s.lasting := by
  simp only [chainDone, lasting_ite, ite_self, lasting_foldl, implies_true, lasting_eta, snd_ite, fst_ite,
    keep_State_setReg64, keep_sendUp]

@[simp] theorem keep_chainTimeout (s : State) :
    (chainTimeout s).lasting = s.lasting := by
  unfold chainTimeout; (repeat' split) <;> simp +zetaDelta [*]

@[simp] theorem keep_ldrLinkLost (s : State) (b : Nat) :
    (ldrLinkLost s b).lasting = s.lasting := by
  unfold ldrLinkLost
  repeat' (first | (simp only [lasting_ite, ite_self, lasting_foldl, implies_true, lasting_eta, snd_ite, fst_ite,
    keep_sendDown, keep_finishRefused]; done) | split | rfl)

theorem lasts_ldrStops {o : Lasting} (s : State) (h : Lasts o s.lasting) :
    Lasts o (ldrStops s).lasting := by
  unfold ldrStops
  repeat' first
    | with_reducible exact h
    | with_reducible assumption
    | with_reducible apply lasts_ite'
    | with_reducible apply lasts_ldrAbort
    | (with_reducible apply lasts_foldl; intro _ _ _)
    | simp only [lasting_withCyc, lasting_eta, snd_ite, fst_ite]
    | ((with_reducible refine lasts_withLdr _ _ ?hf ?hr ?_); (case hf => rfl); (case hr => rfl))
    | with_reducible refine lasts_snd_eq ‹_ = (_, _)› ?_
    | with_reducible refine lasts_snd2_eq ‹_ = (_, _, _)› ?_
    | split
    | dsimp only

@[simp] theorem keep_keyFail (s : State) (slot : Nat) :
    (keyFail s slot).lasting = s.lasting := by
  simp only [keyFail, lasting_ite, ite_self, lasting_foldl, implies_true, lasting_eta, snd_ite, fst_ite, keep_raise]

@[simp] theorem keep_battWrite (s : State) :
    (battWrite s).lasting = s.lasting := by
  simp only [battWrite, lasting_ite, ite_self, lasting_foldl, implies_true, lasting_eta, snd_ite, fst_ite,
    lasting_mixLdr, lasting_withLdr]

@[simp] theorem keep_battClear (s : State) :
    (battClear s).lasting = s.lasting := by
  simp only [battClear, lasting_ite, ite_self, lasting_foldl, implies_true, lasting_eta, snd_ite, fst_ite,
    lasting_mixLdr, lasting_withLdr]

@[simp] theorem keep_battLost (s : State) :
    (battLost s).lasting = s.lasting := by
  simp only [battLost, lasting_ite, ite_self, lasting_foldl, implies_true, lasting_eta, snd_ite, fst_ite,
    lasting_mixLdr, lasting_withLdr]

@[simp] theorem keep_clearKeyData (s : State) :
    (clearKeyData s).lasting = s.lasting := by
  simp only [clearKeyData, lasting_ite, ite_self, lasting_foldl, implies_true, lasting_eta, snd_ite, fst_ite,
    lasting_mixLdr, lasting_withLdr]

end Sys2Proof.Machine
end

