-- ==== Sys2Proof/Laws/KeepBundle.lean ====
section
/-! SUPPORT. Which functions of Machine/Bundle.lean keep the lasting part of the state, and that what lasts lasts through the others. -/
set_option linter.unusedSimpArgs false

namespace Sys2Proof.Machine

@[simp] theorem keep_setMhz (s : State) (m : Nat) :
    (setMhz s m).lasting = s.lasting := by
  unfold setMhz
  repeat' first
    | done
    | (simp only [
         lasting_ite, ite_self, lasting_foldl, implies_true, lasting_eta, snd_ite, fst_ite, lasting_withCyc]
       done)
    | split
    | (dsimp +zetaHave only; split)
    | (simp +zetaDelta only [
         lasting_ite, ite_self, lasting_foldl, implies_true, lasting_eta, snd_ite, fst_ite, lasting_withCyc]
       done)
    | rfl

@[simp] theorem keep_countTo (s : State) (c : Nat) :
    (countTo s c).lasting = s.lasting := by
  unfold countTo
  repeat' first
    | done
    | (simp only [
         lasting_ite, ite_self, lasting_foldl, implies_true, lasting_eta, snd_ite, fst_ite, keep_moveCount,
         keep_moveStep]
       done)
    | split
    | (dsimp +zetaHave only; split)
    | (simp +zetaDelta only [
         lasting_ite, ite_self, lasting_foldl, implies_true, lasting_eta, snd_ite, fst_ite, keep_moveCount,
         keep_moveStep]
       done)
    | rfl

@[simp] theorem keep_chooseEq (s : State) (l : Nat) :
    (chooseEq s l).lasting = s.lasting := by
  unfold chooseEq
  repeat' first
    | done
    | (simp only [
         lasting_ite, ite_self, lasting_foldl, implies_true, lasting_eta, snd_ite, fst_ite,
         keep_State_setReg64, keep_raise]
       done)
    | split
    | (dsimp +zetaHave only; split)
    | (simp +zetaDelta only [
         lasting_ite, ite_self, lasting_foldl, implies_true, lasting_eta, snd_ite, fst_ite,
         keep_State_setReg64, keep_raise]
       done)
    | rfl

@[simp] theorem keep_laneStarts (s : State) (l : Nat) :
    (laneStarts s l).lasting = s.lasting := by
  unfold laneStarts
  repeat' first
    | done
    | (simp only [
         lasting_ite, ite_self, lasting_foldl, implies_true, lasting_eta, snd_ite, fst_ite,
         keep_State_setBundle, keep_chooseEq]
       done)
    | split
    | (dsimp +zetaHave only; split)
    | (simp +zetaDelta only [
         lasting_ite, ite_self, lasting_foldl, implies_true, lasting_eta, snd_ite, fst_ite,
         keep_State_setBundle, keep_chooseEq]
       done)
    | rfl

@[simp] theorem keep_eqAgain (s : State) :
    (eqAgain s).lasting = s.lasting := by
  unfold eqAgain
  repeat' first
    | done
    | (simp only [
         lasting_ite, ite_self, lasting_foldl, implies_true, lasting_eta, snd_ite, fst_ite, keep_chooseEq]
       done)
    | split
    | (dsimp +zetaHave only; split)
    | (simp +zetaDelta only [
         lasting_ite, ite_self, lasting_foldl, implies_true, lasting_eta, snd_ite, fst_ite, keep_chooseEq]
       done)
    | rfl

@[simp] theorem keep_topoSettle (s : State) :
    (topoSettle s).lasting = s.lasting := by
  unfold topoSettle
  repeat' first
    | done
    | (simp only [
         lasting_ite, ite_self, lasting_foldl, implies_true, lasting_eta, snd_ite, fst_ite, keep_State_setF,
         keep_raise, lasting_withTopo]
       done)
    | split
    | (dsimp +zetaHave only; split)
    | (simp +zetaDelta only [
         lasting_ite, ite_self, lasting_foldl, implies_true, lasting_eta, snd_ite, fst_ite, keep_State_setF,
         keep_raise, lasting_withTopo]
       done)
    | rfl

@[simp] theorem keep_ownTopoChanged (s : State) :
    (ownTopoChanged s).lasting = s.lasting := by
  simp only [ownTopoChanged, lasting_ite, ite_self, lasting_foldl, implies_true, lasting_eta, snd_ite, fst_ite,
    lasting_withTopo, keep_sendAll, keep_topoSettle]

@[simp] theorem keep_topoIn (s : State) (b : Nat) (t : TopoEntry) :
    (topoIn s b t).lasting = s.lasting := by
  simp only [topoIn, lasting_ite, ite_self, lasting_foldl, implies_true, lasting_eta, snd_ite, fst_ite,
    lasting_withTopo, keep_sendPacket, keep_topoSettle]

@[simp] theorem keep_setRxRole (s : State) (b k role logical : Nat) :
    (setRxRole s b k role logical).lasting = s.lasting := by
  simp only [setRxRole, lasting_ite, ite_self, lasting_foldl, implies_true, lasting_eta, snd_ite, fst_ite,
    keep_State_setF]

@[simp] theorem keep_setTxRole (s : State) (b k role logical : Nat) :
    (setTxRole s b k role logical).lasting = s.lasting := by
  simp only [setTxRole, lasting_ite, ite_self, lasting_foldl, implies_true, lasting_eta, snd_ite, fst_ite,
    keep_State_setF]

@[simp] theorem keep_clearBundle (s : State) (b : Nat) :
    (clearBundle s b).lasting = s.lasting := by
  unfold clearBundle
  repeat' first
    | done
    | (simp only [
         lasting_ite, ite_self, lasting_foldl, implies_true, lasting_eta, snd_ite, fst_ite,
         keep_State_setBundle, keep_State_setF, keep_setRxRole, keep_setTxRole]
       done)
    | split
    | (dsimp +zetaHave only; split)
    | (simp +zetaDelta only [
         lasting_ite, ite_self, lasting_foldl, implies_true, lasting_eta, snd_ite, fst_ite,
         keep_State_setBundle, keep_State_setF, keep_setRxRole, keep_setTxRole]
       done)
    | rfl

@[simp] theorem keep_codersLost (s : State) (b : Nat) :
    (codersLost s b).lasting = s.lasting := by
  unfold codersLost
  repeat' first
    | done
    | (simp only [
         lasting_ite, ite_self, lasting_foldl, implies_true, lasting_eta, snd_ite, fst_ite,
         keep_State_setBundle, lasting_withFree]
       done)
    | split
    | (dsimp +zetaHave only; split)
    | (simp +zetaDelta only [
         lasting_ite, ite_self, lasting_foldl, implies_true, lasting_eta, snd_ite, fst_ite,
         keep_State_setBundle, lasting_withFree]
       done)
    | rfl

@[simp] theorem keep_sendInverted (s : State) (b k : Nat) :
    (sendInverted s b k).lasting = s.lasting := by
  unfold sendInverted
  repeat' first
    | done
    | (simp only [
         lasting_ite, ite_self, lasting_foldl, implies_true, lasting_eta, snd_ite, fst_ite, keep_State_send,
         keep_State_setBundle]
       done)
    | split
    | (dsimp +zetaHave only; split)
    | (simp +zetaDelta only [
         lasting_ite, ite_self, lasting_foldl, implies_true, lasting_eta, snd_ite, fst_ite, keep_State_send,
         keep_State_setBundle]
       done)
    | rfl

@[simp] theorem keep_sendVerdict (s : State) (b mask : Nat) (done : Bool) :
    (sendVerdict s b mask done).lasting = s.lasting := by
  unfold sendVerdict
  repeat' first
    | done
    | (simp only [
         lasting_ite, ite_self, lasting_foldl, implies_true, lasting_eta, snd_ite, fst_ite, keep_State_send,
         keep_codersLost, keep_sendInverted]
       done)
    | split
    | (dsimp +zetaHave only; split)
    | (simp +zetaDelta only [
         lasting_ite, ite_self, lasting_foldl, implies_true, lasting_eta, snd_ite, fst_ite, keep_State_send,
         keep_codersLost, keep_sendInverted]
       done)
    | rfl

@[simp] theorem keep_sendBlocks (s : State) (b : Nat) :
    (sendBlocks s b).lasting = s.lasting := by
  unfold sendBlocks
  repeat' first
    | done
    | (simp only [
         lasting_ite, ite_self, lasting_foldl, implies_true, lasting_eta, snd_ite, fst_ite, keep_sendVerdict]
       done)
    | split
    | (dsimp +zetaHave only; split)
    | (simp +zetaDelta only [
         lasting_ite, ite_self, lasting_foldl, implies_true, lasting_eta, snd_ite, fst_ite, keep_sendVerdict]
       done)
    | rfl

@[simp] theorem keep_sendLocked (s : State) :
    (sendLocked s).lasting = s.lasting := by
  unfold sendLocked
  repeat' first
    | done
    | (simp only [
         lasting_ite, ite_self, lasting_foldl, implies_true, lasting_eta, snd_ite, fst_ite, keep_sendBlocks]
       done)
    | split
    | (dsimp +zetaHave only; split)
    | (simp +zetaDelta only [
         lasting_ite, ite_self, lasting_foldl, implies_true, lasting_eta, snd_ite, fst_ite, keep_sendBlocks]
       done)
    | rfl

@[simp] theorem keep_leaveTo (s : State) (b st : Nat) :
    (leaveTo s b st).lasting = s.lasting := by
  unfold leaveTo
  repeat' first
    | done
    | (simp only [
         lasting_ite, ite_self, lasting_foldl, implies_true, lasting_eta, snd_ite, fst_ite, keep_State_setBst,
         keep_State_setF, keep_clearBundle, keep_ldrLinkLost, keep_ownTopoChanged, keep_raise, keep_sendBlocks,
         keep_sendLocked]
       done)
    | split
    | (dsimp +zetaHave only; split)
    | (simp +zetaDelta only [
         lasting_ite, ite_self, lasting_foldl, implies_true, lasting_eta, snd_ite, fst_ite, keep_State_setBst,
         keep_State_setF, keep_clearBundle, keep_ldrLinkLost, keep_ownTopoChanged, keep_raise, keep_sendBlocks,
         keep_sendLocked]
       done)
    | rfl

@[simp] theorem keep_degrade (s : State) (b : Nat) :
    (degrade s b).lasting = s.lasting := by
  simp only [degrade, lasting_ite, ite_self, lasting_foldl, implies_true, lasting_eta, snd_ite, fst_ite,
    keep_State_setF, keep_raise, keep_raiseFault, keep_leaveTo]

@[simp] theorem keep_loseBundle (s : State) (b : Nat) :
    (loseBundle s b).lasting = s.lasting := by
  simp only [loseBundle, lasting_ite, ite_self, lasting_foldl, implies_true, lasting_eta, snd_ite, fst_ite,
    keep_leaveTo, keep_degrade]

@[simp] theorem keep_failTraining (s : State) (b reason : Nat) :
    (failTraining s b reason).lasting = s.lasting := by
  simp only [failTraining, lasting_ite, ite_self, lasting_foldl, implies_true, lasting_eta, snd_ite, fst_ite,
    keep_State_setF, keep_raise, keep_State_setBst, keep_clearBundle]

@[simp] theorem keep_lossOfAlignment (s : State) (b : Nat) :
    (lossOfAlignment s b).lasting = s.lasting := by
  simp only [lossOfAlignment, lasting_ite, ite_self, lasting_foldl, implies_true, lasting_eta, snd_ite, fst_ite,
    keep_raise, keep_loseBundle]

@[simp] theorem keep_retryFrom (s : State) (b : Nat) (x : Option BundleTx) : (retryFrom s b x).lasting = s.lasting := by
  cases x with
  | some t => exact keep_State_setBundle ..
  | none => simp only [retryFrom, lasting_ite, keep_loseBundle, keep_leaveTo, keep_raise, ite_self]

@[simp] theorem keep_retryIn (s : State) (b unit : Nat) : (retryIn s b unit).lasting = s.lasting := by
  unfold retryIn
  split
  · exact (keep_retryFrom ..).trans (keep_State_bump ..)
  · rfl

@[simp] theorem keep_retryResend (s : State) (b : Nat) :
    (retryResend s b).lasting = s.lasting := by
  unfold retryResend
  repeat' first
    | done
    | (simp only [
         lasting_ite, ite_self, lasting_foldl, implies_true, lasting_eta, snd_ite, fst_ite, keep_sendPacket]
       done)
    | split
    | (dsimp +zetaHave only; split)
    | (simp +zetaDelta only [
         lasting_ite, ite_self, lasting_foldl, implies_true, lasting_eta, snd_ite, fst_ite, keep_sendPacket]
       done)
    | rfl

@[simp] theorem keep_resumeIn (s : State) (b unit : Nat) :
    (resumeIn s b unit).lasting = s.lasting := by
  unfold resumeIn
  repeat' first
    | done
    | (simp only [
         lasting_ite, ite_self, lasting_foldl, implies_true, lasting_eta, snd_ite, fst_ite, keep_State_setRx]
       done)
    | split
    | (dsimp +zetaHave only; split)
    | (simp +zetaDelta only [
         lasting_ite, ite_self, lasting_foldl, implies_true, lasting_eta, snd_ite, fst_ite, keep_State_setRx]
       done)
    | rfl

@[simp] theorem keep_timeIn (s : State) (b : Nat) (rx : BitVec 64) (seq : BitVec 8) (tx : BitVec 64) (echoSeq : BitVec 8) (echoRx : BitVec 64) :
    (timeIn s b rx seq tx echoSeq echoRx).lasting = s.lasting := by
  unfold timeIn
  repeat' first
    | done
    | (simp only [
         lasting_ite, ite_self, lasting_foldl, implies_true, lasting_eta, snd_ite, fst_ite, keep_State_bump,
         keep_State_setBundle, keep_State_setF, keep_State_setReg64, keep_raise]
       done)
    | split
    | (dsimp +zetaHave only; split)
    | (simp +zetaDelta only [
         lasting_ite, ite_self, lasting_foldl, implies_true, lasting_eta, snd_ite, fst_ite, keep_State_bump,
         keep_State_setBundle, keep_State_setF, keep_State_setReg64, keep_raise]
       done)
    | rfl

@[simp] theorem keep_timeOut (s : State) (b : Nat) :
    (timeOut s b).lasting = s.lasting := by
  unfold timeOut
  repeat' first
    | done
    | (simp only [
         lasting_ite, ite_self, lasting_foldl, implies_true, lasting_eta, snd_ite, fst_ite, keep_sendPacket]
       done)
    | split
    | (dsimp +zetaHave only; split)
    | (simp +zetaDelta only [
         lasting_ite, ite_self, lasting_foldl, implies_true, lasting_eta, snd_ite, fst_ite, keep_sendPacket]
       done)
    | rfl

@[simp] theorem keep_timeTimer (s : State) :
    (timeTimer s).lasting = s.lasting := by
  simp only [timeTimer, lasting_ite, ite_self, lasting_foldl, implies_true, lasting_eta, snd_ite, fst_ite,
    keep_timeOut]

@[simp] theorem keep_stateIn (s : State) (b : Nat) (off : Bool) :
    (stateIn s b off).lasting = s.lasting := by
  unfold stateIn
  repeat' first
    | done
    | (simp only [
         lasting_ite, ite_self, lasting_foldl, implies_true, lasting_eta, snd_ite, fst_ite,
         keep_State_setBundle]
       done)
    | split
    | (dsimp +zetaHave only; split)
    | (simp +zetaDelta only [
         lasting_ite, ite_self, lasting_foldl, implies_true, lasting_eta, snd_ite, fst_ite,
         keep_State_setBundle]
       done)
    | rfl

@[simp] theorem keep_cycChanged (s : State) :
    (cycChanged s).lasting = s.lasting := by
  unfold cycChanged
  repeat' first
    | done
    | (simp only [
         lasting_ite, ite_self, lasting_foldl, implies_true, lasting_eta, snd_ite, fst_ite, keep_State_setBst,
         keep_State_setBundle, keep_sendAll, keep_sendBlocks]
       done)
    | split
    | (dsimp +zetaHave only; split)
    | (simp +zetaDelta only [
         lasting_ite, ite_self, lasting_foldl, implies_true, lasting_eta, snd_ite, fst_ite, keep_State_setBst,
         keep_State_setBundle, keep_sendAll, keep_sendBlocks]
       done)
    | rfl

@[simp] theorem keep_meshIn (s : State) (b : Nat) (tag : BitVec 4) (data : BitVec 128) :
    (meshIn s b tag data).lasting = s.lasting := by
  simp only [meshIn, lasting_ite, ite_self, lasting_foldl, implies_true, lasting_eta, snd_ite, fst_ite, keep_raise,
    keep_State_setBundle]

@[simp] theorem keep_meshSend (s : State) (b : Nat) :
    (meshSend s b).lasting = s.lasting := by
  unfold meshSend
  repeat' first
    | done
    | (simp only [
         lasting_ite, ite_self, lasting_foldl, implies_true, lasting_eta, snd_ite, fst_ite, keep_raise,
         keep_sendPacket]
       done)
    | split
    | (dsimp +zetaHave only; split)
    | (simp +zetaDelta only [
         lasting_ite, ite_self, lasting_foldl, implies_true, lasting_eta, snd_ite, fst_ite, keep_raise,
         keep_sendPacket]
       done)
    | rfl

@[simp] theorem keep_meshPop (s : State) (b : Nat) :
    (meshPop s b).lasting = s.lasting := by
  simp only [meshPop, lasting_ite, ite_self, lasting_foldl, implies_true, lasting_eta, snd_ite, fst_ite,
    keep_State_setBundle]

@[simp] theorem keep_showSignal (s : State) (b k : Nat) (sig cdr : Bool) : (showSignal s b k sig cdr).lasting = s.lasting := by
  simp only [showSignal, lasting_ite, ite_self, keep_State_setF, keep_raise]

@[simp] theorem keep_clockStops (s : State) (b k : Nat) : (clockStops s b k).lasting = s.lasting := keep_showSignal ..

@[simp] theorem keep_attach (s : State) (b : Nat) (lanes : BitVec 9) :
    (attach s b lanes).lasting = s.lasting := by
  unfold attach
  repeat' first
    | done
    | (simp only [
         lasting_ite, ite_self, lasting_foldl, implies_true, lasting_eta, snd_ite, fst_ite, keep_State_setBst,
         keep_showSignal, keep_raise, keep_sendBlocks]
       done)
    | split
    | (dsimp +zetaHave only; split)
    | (simp +zetaDelta only [
         lasting_ite, ite_self, lasting_foldl, implies_true, lasting_eta, snd_ite, fst_ite, keep_State_setBst,
         keep_showSignal, keep_raise, keep_sendBlocks]
       done)
    | rfl

@[simp] theorem keep_applyMap (s : State) (b : Nat) (pass : BitVec 9) (rx : Bool) :
    (applyMap s b pass rx).lasting = s.lasting := by
  unfold applyMap
  repeat' first
    | done
    | (simp only [
         lasting_ite, ite_self, lasting_foldl, implies_true, lasting_eta, snd_ite, fst_ite, keep_State_setF,
         keep_setRxRole, keep_setTxRole]
       done)
    | split
    | (dsimp +zetaHave only; split)
    | (simp +zetaDelta only [
         lasting_ite, ite_self, lasting_foldl, implies_true, lasting_eta, snd_ite, fst_ite, keep_State_setF,
         keep_setRxRole, keep_setTxRole]
       done)
    | rfl

@[simp] theorem keep_trainOn (s : State) (b st : Nat) :
    (trainOn s b st).lasting = s.lasting := by
  unfold trainOn
  repeat' first
    | done
    | (simp only [
         lasting_ite, ite_self, lasting_foldl, implies_true, lasting_eta, snd_ite, fst_ite, keep_State_setBst,
         keep_State_setF]
       done)
    | split
    | (dsimp +zetaHave only; split)
    | (simp +zetaDelta only [
         lasting_ite, ite_self, lasting_foldl, implies_true, lasting_eta, snd_ite, fst_ite, keep_State_setBst,
         keep_State_setF]
       done)
    | rfl

@[simp] theorem keep_afterVerdicts (s : State) (b : Nat) :
    (afterVerdicts s b).lasting = s.lasting := by
  unfold afterVerdicts
  repeat' first
    | done
    | (simp only [
         lasting_ite, ite_self, lasting_foldl, implies_true, lasting_eta, snd_ite, fst_ite, keep_trainOn]
       done)
    | split
    | (dsimp +zetaHave only; split)
    | (simp +zetaDelta only [
         lasting_ite, ite_self, lasting_foldl, implies_true, lasting_eta, snd_ite, fst_ite, keep_trainOn]
       done)
    | rfl

@[simp] theorem keep_showCheck (s : State) (b k : Nat) (c : LaneCheck) :
    (showCheck s b k c).lasting = s.lasting := by
  unfold showCheck
  repeat' first
    | done
    | (simp only [
         lasting_ite, ite_self, lasting_foldl, implies_true, lasting_eta, snd_ite, fst_ite, keep_State_bump,
         keep_State_setF, keep_raise]
       done)
    | split
    | (dsimp +zetaHave only; split)
    | (simp +zetaDelta only [
         lasting_ite, ite_self, lasting_foldl, implies_true, lasting_eta, snd_ite, fst_ite, keep_State_bump,
         keep_State_setF, keep_raise]
       done)
    | rfl

@[simp] theorem keep_ownVerdict (s : State) (b : Nat) (own : List LaneCheck) :
    (ownVerdict s b own).lasting = s.lasting := by
  unfold ownVerdict
  repeat' first
    | done
    | (simp only [
         lasting_ite, ite_self, lasting_foldl, implies_true, lasting_eta, snd_ite, fst_ite,
         keep_State_setBundle, keep_applyMap, keep_failTraining, keep_sendBlocks, keep_sendVerdict,
         keep_showCheck]
       done)
    | split
    | (dsimp +zetaHave only; split)
    | (simp +zetaDelta only [
         lasting_ite, ite_self, lasting_foldl, implies_true, lasting_eta, snd_ite, fst_ite,
         keep_State_setBundle, keep_applyMap, keep_failTraining, keep_sendBlocks, keep_sendVerdict,
         keep_showCheck]
       done)
    | rfl

@[simp] theorem keep_partnerVerdict (s : State) (b : Nat) (partner : BitVec 9) (clock : PartnerClock) :
    (partnerVerdict s b partner clock).lasting = s.lasting := by
  unfold partnerVerdict
  repeat' first
    | done
    | (simp only [
         lasting_ite, ite_self, lasting_foldl, implies_true, lasting_eta, snd_ite, fst_ite,
         keep_State_setBundle, keep_afterVerdicts, keep_applyMap, keep_failTraining]
       done)
    | split
    | (dsimp +zetaHave only; split)
    | (simp +zetaDelta only [
         lasting_ite, ite_self, lasting_foldl, implies_true, lasting_eta, snd_ite, fst_ite,
         keep_State_setBundle, keep_afterVerdicts, keep_applyMap, keep_failTraining]
       done)
    | rfl

@[simp] theorem keep_laneVerdict (s : State) (b : Nat) (own : List LaneCheck) (partner : BitVec 9) (clock : PartnerClock) :
    (laneVerdict s b own partner clock).lasting = s.lasting := by
  unfold laneVerdict
  repeat' first
    | done
    | (simp only [
         lasting_ite, ite_self, lasting_foldl, implies_true, lasting_eta, snd_ite, fst_ite,
         keep_State_setBundle, keep_ownVerdict, keep_partnerVerdict]
       done)
    | split
    | (dsimp +zetaHave only; split)
    | (simp +zetaDelta only [
         lasting_ite, ite_self, lasting_foldl, implies_true, lasting_eta, snd_ite, fst_ite,
         keep_State_setBundle, keep_ownVerdict, keep_partnerVerdict]
       done)
    | rfl

@[simp] theorem keep_clockLock (s : State) :
    (clockLock s).lasting = s.lasting := by
  unfold clockLock
  repeat' first
    | done
    | (simp only [
         lasting_ite, ite_self, lasting_foldl, implies_true, lasting_eta, snd_ite, fst_ite, keep_State_setF,
         keep_eqAgain, keep_sendLocked, keep_setMhz, keep_trainOn]
       done)
    | split
    | (dsimp +zetaHave only; split)
    | (simp +zetaDelta only [
         lasting_ite, ite_self, lasting_foldl, implies_true, lasting_eta, snd_ite, fst_ite, keep_State_setF,
         keep_eqAgain, keep_sendLocked, keep_setMhz, keep_trainOn]
       done)
    | rfl

@[simp] theorem keep_alignDone (s : State) (b flight : Nat) :
    (alignDone s b flight).lasting = s.lasting := by
  simp only [alignDone, lasting_ite, ite_self, lasting_foldl, implies_true, lasting_eta, snd_ite, fst_ite,
    keep_State_setF, keep_State_setBst, keep_failTraining]

@[simp] theorem keep_trainingTimeout (s : State) (b flight : Nat) :
    (trainingTimeout s b flight).lasting = s.lasting := by
  simp only [trainingTimeout, lasting_ite, ite_self, lasting_foldl, implies_true, lasting_eta, snd_ite, fst_ite,
    keep_failTraining]

@[simp] theorem keep_failedRestart (s : State) (b : Nat) :
    (failedRestart s b).lasting = s.lasting := by
  unfold failedRestart
  repeat' first
    | done
    | (simp only [
         lasting_ite, ite_self, lasting_foldl, implies_true, lasting_eta, snd_ite, fst_ite, keep_State_setBst,
         keep_State_setF, keep_sendBlocks]
       done)
    | split
    | (dsimp +zetaHave only; split)
    | (simp +zetaDelta only [
         lasting_ite, ite_self, lasting_foldl, implies_true, lasting_eta, snd_ite, fst_ite, keep_State_setBst,
         keep_State_setF, keep_sendBlocks]
       done)
    | rfl

@[simp] theorem keep_identResend (s : State) (b : Nat) :
    (identResend s b).lasting = s.lasting := by
  simp only [identResend, lasting_ite, ite_self, lasting_foldl, implies_true, lasting_eta, snd_ite, fst_ite,
    keep_sendPacket]

@[simp] theorem keep_spareRuns (s : State) (b : Nat) :
    (spareRuns s b).lasting = s.lasting := by
  unfold spareRuns
  repeat' first
    | done
    | (simp only [
         lasting_ite, ite_self, lasting_foldl, implies_true, lasting_eta, snd_ite, fst_ite, keep_State_setF]
       done)
    | split
    | (dsimp +zetaHave only; split)
    | (simp +zetaDelta only [
         lasting_ite, ite_self, lasting_foldl, implies_true, lasting_eta, snd_ite, fst_ite, keep_State_setF]
       done)
    | rfl

@[simp] theorem keep_bundleUp (s : State) (b : Nat) (k : IdentPacket) :
    (bundleUp s b k).lasting = s.lasting := by
  unfold bundleUp
  repeat' first
    | done
    | (simp only [
         lasting_ite, ite_self, lasting_foldl, implies_true, lasting_eta, snd_ite, fst_ite, keep_State_setBst,
         keep_State_setBundle, keep_State_setF, keep_ownTopoChanged, keep_raise, keep_sendPacket,
         keep_spareRuns]
       done)
    | split
    | (dsimp +zetaHave only; split)
    | (simp +zetaDelta only [
         lasting_ite, ite_self, lasting_foldl, implies_true, lasting_eta, snd_ite, fst_ite, keep_State_setBst,
         keep_State_setBundle, keep_State_setF, keep_ownTopoChanged, keep_raise, keep_sendPacket,
         keep_spareRuns]
       done)
    | rfl

@[simp] theorem keep_takeCount (s : State) (c : Nat) :
    (takeCount s c).lasting = s.lasting := by
  unfold takeCount
  repeat' first
    | done
    | (simp only [
         lasting_ite, ite_self, lasting_foldl, implies_true, lasting_eta, snd_ite, fst_ite, keep_setCount,
         lasting_withBundles, lasting_withCyc]
       done)
    | split
    | (dsimp +zetaHave only; split)
    | (simp +zetaDelta only [
         lasting_ite, ite_self, lasting_foldl, implies_true, lasting_eta, snd_ite, fst_ite, keep_setCount,
         lasting_withBundles, lasting_withCyc]
       done)
    | rfl

@[simp] theorem keep_identIn (s : State) (b : Nat) (k : IdentPacket) :
    (identIn s b k).lasting = s.lasting := by
  unfold identIn
  repeat' first
    | done
    | (simp only [
         lasting_ite, ite_self, lasting_foldl, implies_true, lasting_eta, snd_ite, fst_ite,
         keep_State_setBundle, keep_State_setF, keep_State_setReg64, keep_bundleUp, keep_countTo,
         keep_failTraining, keep_takeCount]
       done)
    | split
    | (dsimp +zetaHave only; split)
    | (simp +zetaDelta only [
         lasting_ite, ite_self, lasting_foldl, implies_true, lasting_eta, snd_ite, fst_ite,
         keep_State_setBundle, keep_State_setF, keep_State_setReg64, keep_bundleUp, keep_countTo,
         keep_failTraining, keep_takeCount]
       done)
    | rfl

@[simp] theorem keep_signalLost (s : State) (b k : Nat) (signal : Bool) :
    (signalLost s b k signal).lasting = s.lasting := by
  unfold signalLost
  repeat' first
    | done
    | (simp only [
         lasting_ite, ite_self, lasting_foldl, implies_true, lasting_eta, snd_ite, fst_ite, keep_State_setF,
         keep_raise]
       done)
    | split
    | (dsimp +zetaHave only; split)
    | (simp +zetaDelta only [
         lasting_ite, ite_self, lasting_foldl, implies_true, lasting_eta, snd_ite, fst_ite, keep_State_setF,
         keep_raise]
       done)
    | rfl

@[simp] theorem keep_detach (s : State) (b : Nat) (l : LanesLoss) :
    (detach s b l).lasting = s.lasting := by
  unfold detach
  repeat' first
    | done
    | (simp only [
         lasting_ite, ite_self, lasting_foldl, implies_true, lasting_eta, snd_ite, fst_ite, keep_loseBundle,
         keep_raise, keep_signalLost]
       done)
    | split
    | (dsimp +zetaHave only; split)
    | (simp +zetaDelta only [
         lasting_ite, ite_self, lasting_foldl, implies_true, lasting_eta, snd_ite, fst_ite, keep_loseBundle,
         keep_raise, keep_signalLost]
       done)
    | rfl

@[simp] theorem keep_failLane (s : State) (b k : Nat) :
    (failLane s b k).lasting = s.lasting := by
  unfold failLane
  repeat' first
    | done
    | (simp only [
         lasting_ite, ite_self, lasting_foldl, implies_true, lasting_eta, snd_ite, fst_ite,
         keep_State_setBundle, keep_State_setF, keep_degrade, keep_raise, keep_setRxRole, lasting_withCyc]
       done)
    | split
    | (dsimp +zetaHave only; split)
    | (simp +zetaDelta only [
         lasting_ite, ite_self, lasting_foldl, implies_true, lasting_eta, snd_ite, fst_ite,
         keep_State_setBundle, keep_State_setF, keep_degrade, keep_raise, keep_setRxRole, lasting_withCyc]
       done)
    | rfl

@[simp] theorem keep_laneFail (s : State) (b : Nat) (l : LaneLoss) :
    (laneFail s b l).lasting = s.lasting := by
  unfold laneFail
  repeat' first
    | done
    | (simp only [
         lasting_ite, ite_self, lasting_foldl, implies_true, lasting_eta, snd_ite, fst_ite, keep_failLane,
         keep_signalLost]
       done)
    | split
    | (dsimp +zetaHave only; split)
    | (simp +zetaDelta only [
         lasting_ite, ite_self, lasting_foldl, implies_true, lasting_eta, snd_ite, fst_ite, keep_failLane,
         keep_signalLost]
       done)
    | rfl

@[simp] theorem keep_spareCheckEnd (s : State) (b : Nat) (e : LaneChecked) :
    (spareCheckEnd s b e).lasting = s.lasting := by
  unfold spareCheckEnd
  repeat' first
    | done
    | (simp only [
         lasting_ite, ite_self, lasting_foldl, implies_true, lasting_eta, snd_ite, fst_ite,
         keep_State_setBundle, keep_degrade, keep_showCheck]
       done)
    | split
    | (dsimp +zetaHave only; split)
    | (simp +zetaDelta only [
         lasting_ite, ite_self, lasting_foldl, implies_true, lasting_eta, snd_ite, fst_ite,
         keep_State_setBundle, keep_degrade, keep_showCheck]
       done)
    | rfl

@[simp] theorem keep_sendLanemap (s : State) (b : Nat) (f : Failover) :
    (sendLanemap s b f).lasting = s.lasting := by
  unfold sendLanemap
  repeat' first
    | done
    | (simp only [
         lasting_ite, ite_self, lasting_foldl, implies_true, lasting_eta, snd_ite, fst_ite,
         keep_State_setBundle, keep_sendPacket]
       done)
    | split
    | (dsimp +zetaHave only; split)
    | (simp +zetaDelta only [
         lasting_ite, ite_self, lasting_foldl, implies_true, lasting_eta, snd_ite, fst_ite,
         keep_State_setBundle, keep_sendPacket]
       done)
    | rfl

@[simp] theorem keep_failoverLanemap (s : State) (b : Nat) :
    (failoverLanemap s b).lasting = s.lasting := by
  unfold failoverLanemap
  repeat' first
    | done
    | (simp only [
         lasting_ite, ite_self, lasting_foldl, implies_true, lasting_eta, snd_ite, fst_ite, keep_sendLanemap]
       done)
    | split
    | (dsimp +zetaHave only; split)
    | (simp +zetaDelta only [
         lasting_ite, ite_self, lasting_foldl, implies_true, lasting_eta, snd_ite, fst_ite, keep_sendLanemap]
       done)
    | rfl

@[simp] theorem keep_lanemapIn (s : State) (b failed spare : Nat) (sw : BitVec 16) :
    (lanemapIn s b failed spare sw).lasting = s.lasting := by
  simp only [lanemapIn, lasting_ite, ite_self, lasting_foldl, implies_true, lasting_eta, snd_ite, fst_ite,
    keep_State_setBundle]

@[simp] theorem keep_reachCount (s : State) (c : Nat) :
    (reachCount s c).lasting = s.lasting := by
  unfold reachCount
  repeat' first
    | done
    | (simp only [
         lasting_ite, ite_self, lasting_foldl, implies_true, lasting_eta, snd_ite, fst_ite, keep_countTo]
       done)
    | split
    | (dsimp +zetaHave only; split)
    | (simp +zetaDelta only [
         lasting_ite, ite_self, lasting_foldl, implies_true, lasting_eta, snd_ite, fst_ite, keep_countTo]
       done)
    | rfl

@[simp] theorem keep_mapSpare (s : State) (b failed spare : Nat) :
    (mapSpare s b failed spare).lasting = s.lasting := by
  unfold mapSpare
  repeat' first
    | done
    | (simp only [
         lasting_ite, ite_self, lasting_foldl, implies_true, lasting_eta, snd_ite, fst_ite, keep_setTxRole]
       done)
    | split
    | (dsimp +zetaHave only; split)
    | (simp +zetaDelta only [
         lasting_ite, ite_self, lasting_foldl, implies_true, lasting_eta, snd_ite, fst_ite, keep_setTxRole]
       done)
    | rfl

@[simp] theorem keep_lanemapSwitch (s : State) (b : Nat) (rx : Bool) :
    (lanemapSwitch s b rx).lasting = s.lasting := by
  unfold lanemapSwitch
  repeat' first
    | done
    | (simp only [
         lasting_ite, ite_self, lasting_foldl, implies_true, lasting_eta, snd_ite, fst_ite,
         keep_State_setBundle, keep_State_setF, keep_mapSpare, keep_reachCount, keep_setRxRole]
       done)
    | split
    | (dsimp +zetaHave only; split)
    | (simp +zetaDelta only [
         lasting_ite, ite_self, lasting_foldl, implies_true, lasting_eta, snd_ite, fst_ite,
         keep_State_setBundle, keep_State_setF, keep_mapSpare, keep_reachCount, keep_setRxRole]
       done)
    | rfl

@[simp] theorem keep_lanemapResend (s : State) (b : Nat) :
    (lanemapResend s b).lasting = s.lasting := by
  unfold lanemapResend
  repeat' first
    | done
    | (simp only [
         lasting_ite, ite_self, lasting_foldl, implies_true, lasting_eta, snd_ite, fst_ite, keep_sendLanemap]
       done)
    | split
    | (dsimp +zetaHave only; split)
    | (simp +zetaDelta only [
         lasting_ite, ite_self, lasting_foldl, implies_true, lasting_eta, snd_ite, fst_ite, keep_sendLanemap]
       done)
    | rfl

@[simp] theorem keep_failoverEnd (s : State) (b : Nat) :
    (failoverEnd s b).lasting = s.lasting := by
  unfold failoverEnd
  repeat' first
    | done
    | (simp only [
         lasting_ite, ite_self, lasting_foldl, implies_true, lasting_eta, snd_ite, fst_ite,
         keep_State_setBundle, keep_raise]
       done)
    | split
    | (dsimp +zetaHave only; split)
    | (simp +zetaDelta only [
         lasting_ite, ite_self, lasting_foldl, implies_true, lasting_eta, snd_ite, fst_ite,
         keep_State_setBundle, keep_raise]
       done)
    | rfl

@[simp] theorem keep_failoverTimeout (s : State) (b : Nat) :
    (failoverTimeout s b).lasting = s.lasting := by
  simp only [failoverTimeout, lasting_ite, ite_self, lasting_foldl, implies_true, lasting_eta, snd_ite, fst_ite,
    keep_degrade]

@[simp] theorem keep_bndRetrain (s : State) (b : Nat) :
    (bndRetrain s b).lasting = s.lasting := by
  simp only [bndRetrain, lasting_ite, ite_self, lasting_foldl, implies_true, lasting_eta, snd_ite, fst_ite,
    keep_raise, keep_leaveTo]

@[simp] theorem keep_bndFailover (s : State) (b : Nat) :
    (bndFailover s b).lasting = s.lasting := by
  simp only [bndFailover, lasting_ite, ite_self, lasting_foldl, implies_true, lasting_eta, snd_ite, fst_ite,
    keep_raise, keep_failLane]

@[simp] theorem keep_sendPattern (s : State) (b k : Nat) :
    (sendPattern s b k).lasting = s.lasting := by
  unfold sendPattern
  repeat' first
    | done
    | (simp only [
         lasting_ite, ite_self, lasting_foldl, implies_true, lasting_eta, snd_ite, fst_ite, keep_State_send,
         keep_sendInverted]
       done)
    | split
    | (dsimp +zetaHave only; split)
    | (simp +zetaDelta only [
         lasting_ite, ite_self, lasting_foldl, implies_true, lasting_eta, snd_ite, fst_ite, keep_State_send,
         keep_sendInverted]
       done)
    | rfl

@[simp] theorem keep_enterTest (s : State) (b : Nat) :
    (enterTest s b).lasting = s.lasting := by
  unfold enterTest
  repeat' first
    | done
    | (simp only [
         lasting_ite, ite_self, lasting_foldl, implies_true, lasting_eta, snd_ite, fst_ite, keep_State_setBst,
         keep_clearBundle, keep_codersLost, keep_sendPattern]
       done)
    | split
    | (dsimp +zetaHave only; split)
    | (simp +zetaDelta only [
         lasting_ite, ite_self, lasting_foldl, implies_true, lasting_eta, snd_ite, fst_ite, keep_State_setBst,
         keep_clearBundle, keep_codersLost, keep_sendPattern]
       done)
    | rfl

@[simp] theorem keep_restBundle (s : State) (b : Nat) :
    (restBundle s b).lasting = s.lasting := by
  unfold restBundle
  repeat' first
    | done
    | (simp only [
         lasting_ite, ite_self, lasting_foldl, implies_true, lasting_eta, snd_ite, fst_ite, keep_State_setBst,
         keep_clearBundle, keep_enterTest, keep_leaveTo, keep_sendBlocks]
       done)
    | split
    | (dsimp +zetaHave only; split)
    | (simp +zetaDelta only [
         lasting_ite, ite_self, lasting_foldl, implies_true, lasting_eta, snd_ite, fst_ite, keep_State_setBst,
         keep_clearBundle, keep_enterTest, keep_leaveTo, keep_sendBlocks]
       done)
    | rfl

@[simp] theorem keep_trainEnWritten (s : State) (b : Nat) :
    (trainEnWritten s b).lasting = s.lasting := by
  unfold trainEnWritten
  repeat' first
    | done
    | (simp only [
         lasting_ite, ite_self, lasting_foldl, implies_true, lasting_eta, snd_ite, fst_ite, keep_State_setF,
         keep_degrade, keep_leaveTo, keep_restBundle]
       done)
    | split
    | (dsimp +zetaHave only; split)
    | (simp +zetaDelta only [
         lasting_ite, ite_self, lasting_foldl, implies_true, lasting_eta, snd_ite, fst_ite, keep_State_setF,
         keep_degrade, keep_leaveTo, keep_restBundle]
       done)
    | rfl

@[simp] theorem keep_bndStarts (s : State) (b : Nat) :
    (bndStarts s b).lasting = s.lasting := by
  unfold bndStarts
  repeat' first
    | done
    | (simp only [
         lasting_ite, ite_self, lasting_foldl, implies_true, lasting_eta, snd_ite, fst_ite, keep_restBundle]
       done)
    | split
    | (dsimp +zetaHave only; split)
    | (simp +zetaDelta only [
         lasting_ite, ite_self, lasting_foldl, implies_true, lasting_eta, snd_ite, fst_ite, keep_restBundle]
       done)
    | rfl

@[simp] theorem keep_bndStops (s : State) (b : Nat) :
    (bndStops s b).lasting = s.lasting := by
  simp only [bndStops, lasting_ite, ite_self, lasting_foldl, implies_true, lasting_eta, snd_ite, fst_ite,
    keep_leaveTo, keep_degrade]

@[simp] theorem keep_laneStops (s : State) (l : Nat) :
    (laneStops s l).lasting = s.lasting := by
  simp only [laneStops, lasting_ite, ite_self, lasting_foldl, implies_true, lasting_eta, snd_ite, fst_ite,
    keep_failLane, keep_clockStops]

@[simp] theorem keep_clkChanged (s : State) :
    (clkChanged s).lasting = s.lasting := by
  unfold clkChanged
  repeat' first
    | done
    | (simp only [
         lasting_ite, ite_self, lasting_foldl, implies_true, lasting_eta, snd_ite, fst_ite, keep_State_setF,
         keep_eqAgain, keep_leaveTo, keep_setMhz]
       done)
    | split
    | (dsimp +zetaHave only; split)
    | (simp +zetaDelta only [
         lasting_ite, ite_self, lasting_foldl, implies_true, lasting_eta, snd_ite, fst_ite, keep_State_setF,
         keep_eqAgain, keep_leaveTo, keep_setMhz]
       done)
    | rfl

@[simp] theorem keep_lnTestWritten (s : State) (b k : Nat) :
    (lnTestWritten s b k).lasting = s.lasting := by
  unfold lnTestWritten
  repeat' first
    | done
    | (simp only [
         lasting_ite, ite_self, lasting_foldl, implies_true, lasting_eta, snd_ite, fst_ite, keep_State_setF,
         keep_restBundle, keep_sendPattern]
       done)
    | split
    | (dsimp +zetaHave only; split)
    | (simp +zetaDelta only [
         lasting_ite, ite_self, lasting_foldl, implies_true, lasting_eta, snd_ite, fst_ite, keep_State_setF,
         keep_restBundle, keep_sendPattern]
       done)
    | rfl

@[simp] theorem keep_lnInject (s : State) (b k : Nat) :
    (lnInject s b k).lasting = s.lasting := by
  unfold lnInject
  repeat' first
    | done
    | (simp only [
         lasting_ite, ite_self, lasting_foldl, implies_true, lasting_eta, snd_ite, fst_ite,
         keep_State_setBundle, keep_sendInverted]
       done)
    | split
    | (dsimp +zetaHave only; split)
    | (simp +zetaDelta only [
         lasting_ite, ite_self, lasting_foldl, implies_true, lasting_eta, snd_ite, fst_ite,
         keep_State_setBundle, keep_sendInverted]
       done)
    | rfl

@[simp] theorem keep_injArm (s : State) (b : Nat) :
    (injArm s b).lasting = s.lasting := by
  unfold injArm
  repeat' first
    | done
    | (simp only [
         lasting_ite, ite_self, lasting_foldl, implies_true, lasting_eta, snd_ite, fst_ite, keep_State_setTx]
       done)
    | split
    | (dsimp +zetaHave only; split)
    | (simp +zetaDelta only [
         lasting_ite, ite_self, lasting_foldl, implies_true, lasting_eta, snd_ite, fst_ite, keep_State_setTx]
       done)
    | rfl

end Sys2Proof.Machine
end

