-- ==== Sys2Proof/Laws/KeepPins.lean ====
section
/-! SUPPORT. Which functions of Machine/Pins.lean keep the lasting part of the state, and that what lasts lasts through the others. -/
set_option linter.unusedSimpArgs false

namespace Sys2Proof.Machine

@[simp] theorem keep_State_setPort (s : State) (p : Nat) (x : Port) :
    (State.setPort s p x).lasting = s.lasting := by
  simp only [State.setPort, lasting_ite, ite_self, lasting_foldl, implies_true, lasting_eta, snd_ite, fst_ite,
    lasting_withPins]

@[simp] theorem keep_targetDrives (s : State) (t : TargetLevels) :
    (targetDrives s t).lasting = s.lasting := by
  simp only [targetDrives, lasting_ite, ite_self, lasting_foldl, implies_true, lasting_eta, snd_ite, fst_ite,
    lasting_withFree, lasting_withPins]

@[simp] theorem keep_handover (d e : BitVec 384) (s : State) (p : Nat) :
    (handover d e s p).lasting = s.lasting := by
  simp only [handover, lasting_ite, ite_self, lasting_foldl, implies_true, lasting_eta, snd_ite, fst_ite, keep_raise,
    keep_drivePad, keep_State_setPort]

@[simp] theorem keep_handoverAll (s : State) :
    (handoverAll s).lasting = s.lasting := by
  simp only [handoverAll, lasting_ite, ite_self, lasting_foldl, implies_true, lasting_eta, snd_ite, fst_ite,
    keep_handover]

theorem keep_sampleStep (s : State) {t : State} (h : sampleStep s = some t) : t.lasting = s.lasting := by
  unfold sampleStep at h
  dsimp only at h
  split at h
  · split at h
    · cases h; rfl
    · cases h
  · split at h
    · cases h; exact keep_moveCount ..
    · cases h
  · cases h

@[simp] theorem keep_stageSample (s : State) (p : Nat) :
    (stageSample s p).lasting = s.lasting := by
  unfold stageSample
  repeat' first
    | done
    | (simp only [
         lasting_ite, ite_self, lasting_foldl, implies_true, lasting_eta, snd_ite, fst_ite, keep_State_setF,
         keep_State_setPort, keep_raise]
       done)
    | split
    | (dsimp +zetaHave only; split)
    | (simp +zetaDelta only [
         lasting_ite, ite_self, lasting_foldl, implies_true, lasting_eta, snd_ite, fst_ite, keep_State_setF,
         keep_State_setPort, keep_raise]
       done)
    | rfl

@[simp] theorem keep_pinSample (s : State) (t : TargetLevels) : (pinSample s t).lasting = s.lasting := by
  unfold pinSample
  split
  · rename_i h
    exact (lasting_foldl _ _ _ keep_stageSample).trans ((keep_targetDrives ..).trans (keep_sampleStep _ h))
  · rfl

@[simp] theorem keep_latchPins (s : State) :
    (latchPins s).lasting = s.lasting := by
  unfold latchPins
  simp
  repeat' (first | (simp; done) | split | (refine (lasting_foldl _ _ _ ?_).trans ?_ <;> intros))

@[simp] theorem keep_sampleInstant (s : State) (p : Nat) (t : TargetLevels) :
    (sampleInstant s p t).lasting = s.lasting := by
  simp only [sampleInstant, lasting_ite, ite_self, lasting_foldl, implies_true, lasting_eta, snd_ite, fst_ite,
    keep_State_setReg64, keep_State_setPort, keep_targetDrives]

@[simp] theorem keep_drivePend (s : State) (p : Nat) :
    (drivePend s p).lasting = s.lasting := by
  unfold drivePend
  repeat' first
    | done
    | (simp only [
         lasting_ite, ite_self, lasting_foldl, implies_true, lasting_eta, snd_ite, fst_ite, keep_State_setPort,
         lasting_withPins]
       done)
    | split
    | (dsimp +zetaHave only; split)
    | (simp +zetaDelta only [
         lasting_ite, ite_self, lasting_foldl, implies_true, lasting_eta, snd_ite, fst_ite, keep_State_setPort,
         lasting_withPins]
       done)
    | rfl

@[simp] theorem keep_nextDrive (s : State) (p : Nat) :
    (nextDrive s p).lasting = s.lasting := by
  simp only [nextDrive, lasting_ite, ite_self, lasting_foldl, implies_true, lasting_eta, snd_ite, fst_ite,
    keep_State_setReg64]

@[simp] theorem keep_driveInstant (s : State) (p : Nat) :
    (driveInstant s p).lasting = s.lasting := by
  simp only [driveInstant, lasting_ite, ite_self, lasting_foldl, implies_true, lasting_eta, snd_ite, fst_ite,
    keep_drivePend, keep_nextDrive]

@[simp] theorem keep_gpioWritten (s : State) (p : Nat) (mask : Word) :
    (gpioWritten s p mask).lasting = s.lasting := by
  simp only [gpioWritten, lasting_ite, ite_self, lasting_foldl, implies_true, lasting_eta, snd_ite, fst_ite,
    keep_drivePad]

@[simp] theorem keep_driveFn (s : State) (p fn : Nat) (v : BitVec 2) :
    (driveFn s p fn v).lasting = s.lasting := by
  simp only [driveFn, lasting_ite, ite_self, lasting_foldl, implies_true, lasting_eta, snd_ite, fst_ite,
    keep_drivePad]

@[simp] theorem keep_uartShow (s : State) (p : Nat) (lvl : Bool) :
    (uartShow s p lvl).lasting = s.lasting := by
  unfold uartShow
  repeat' first
    | done
    | (simp only [
         lasting_ite, ite_self, lasting_foldl, implies_true, lasting_eta, snd_ite, fst_ite, keep_State_setPort,
         keep_driveFn]
       done)
    | split
    | (dsimp +zetaHave only; split)
    | (simp +zetaDelta only [
         lasting_ite, ite_self, lasting_foldl, implies_true, lasting_eta, snd_ite, fst_ite, keep_State_setPort,
         keep_driveFn]
       done)
    | rfl

@[simp] theorem keep_uartStart (s : State) (p : Nat) :
    (uartStart s p).lasting = s.lasting := by
  unfold uartStart
  repeat' first
    | done
    | (simp only [
         lasting_ite, ite_self, lasting_foldl, implies_true, lasting_eta, snd_ite, fst_ite, keep_State_setPort,
         keep_uartShow]
       done)
    | split
    | (dsimp +zetaHave only; split)
    | (simp +zetaDelta only [
         lasting_ite, ite_self, lasting_foldl, implies_true, lasting_eta, snd_ite, fst_ite, keep_State_setPort,
         keep_uartShow]
       done)
    | rfl

@[simp] theorem keep_uartTick (s : State) (p : Nat) :
    (uartTick s p).lasting = s.lasting := by
  unfold uartTick
  repeat' first
    | done
    | (simp only [
         lasting_ite, ite_self, lasting_foldl, implies_true, lasting_eta, snd_ite, fst_ite, keep_State_setPort,
         keep_uartShow, keep_uartStart]
       done)
    | split
    | (dsimp +zetaHave only; split)
    | (simp +zetaDelta only [
         lasting_ite, ite_self, lasting_foldl, implies_true, lasting_eta, snd_ite, fst_ite, keep_State_setPort,
         keep_uartShow, keep_uartStart]
       done)
    | rfl

@[simp] theorem keep_uartSend (s : State) (p : Nat) (b : BitVec 8) :
    (uartSend s p b).lasting = s.lasting := by
  unfold uartSend
  repeat' first
    | done
    | (simp only [
         lasting_ite, ite_self, lasting_foldl, implies_true, lasting_eta, snd_ite, fst_ite, keep_State_setPort,
         keep_raise, keep_uartStart]
       done)
    | split
    | (dsimp +zetaHave only; split)
    | (simp +zetaDelta only [
         lasting_ite, ite_self, lasting_foldl, implies_true, lasting_eta, snd_ite, fst_ite, keep_State_setPort,
         keep_raise, keep_uartStart]
       done)
    | rfl

@[simp] theorem keep_uartByteSent (s : State) (p : Nat) :
    (uartByteSent s p).lasting = s.lasting := by
  unfold uartByteSent
  repeat' first
    | done
    | (simp only [
         lasting_ite, ite_self, lasting_foldl, implies_true, lasting_eta, snd_ite, fst_ite, keep_State_send,
         keep_State_setPort, keep_uartShow, keep_uartStart]
       done)
    | split
    | (dsimp +zetaHave only; split)
    | (simp +zetaDelta only [
         lasting_ite, ite_self, lasting_foldl, implies_true, lasting_eta, snd_ite, fst_ite, keep_State_send,
         keep_State_setPort, keep_uartShow, keep_uartStart]
       done)
    | rfl

@[simp] theorem keep_uartReceive (s : State) (p : Nat) (b : BitVec 8) (parity stop : Bool) :
    (uartReceive s p b parity stop).lasting = s.lasting := by
  simp only [uartReceive, lasting_ite, ite_self, lasting_foldl, implies_true, lasting_eta, snd_ite, fst_ite,
    keep_raise, keep_State_setPort]

@[simp] theorem keep_uartDrop (s : State) (p : Nat) :
    (uartDrop s p).lasting = s.lasting := by
  simp only [uartDrop, lasting_ite, ite_self, lasting_foldl, implies_true, lasting_eta, snd_ite, fst_ite,
    keep_State_setPort]

@[simp] theorem keep_i2cShow (s : State) (p : Nat) (l : BitVec 2) :
    (i2cShow s p l).lasting = s.lasting := by
  unfold i2cShow
  repeat' first
    | done
    | (simp only [
         lasting_ite, ite_self, lasting_foldl, implies_true, lasting_eta, snd_ite, fst_ite, keep_State_setPort,
         keep_driveFn]
       done)
    | split
    | (dsimp +zetaHave only; split)
    | (simp +zetaDelta only [
         lasting_ite, ite_self, lasting_foldl, implies_true, lasting_eta, snd_ite, fst_ite, keep_State_setPort,
         keep_driveFn]
       done)
    | rfl

@[simp] theorem keep_i2cTick (s : State) (p : Nat) :
    (i2cTick s p).lasting = s.lasting := by
  unfold i2cTick
  repeat' first
    | done
    | (simp only [
         lasting_ite, ite_self, lasting_foldl, implies_true, lasting_eta, snd_ite, fst_ite, keep_State_setPort,
         keep_i2cShow]
       done)
    | split
    | (dsimp +zetaHave only; split)
    | (simp +zetaDelta only [
         lasting_ite, ite_self, lasting_foldl, implies_true, lasting_eta, snd_ite, fst_ite, keep_State_setPort,
         keep_i2cShow]
       done)
    | rfl

@[simp] theorem keep_i2cStart (s : State) (p : Nat) (v : BitVec 13) :
    (i2cStart s p v).lasting = s.lasting := by
  unfold i2cStart
  repeat' first
    | done
    | (simp only [
         lasting_ite, ite_self, lasting_foldl, implies_true, lasting_eta, snd_ite, fst_ite, keep_State_send,
         keep_State_setF, keep_State_setPort, keep_i2cShow, keep_raise]
       done)
    | split
    | (dsimp +zetaHave only; split)
    | (simp +zetaDelta only [
         lasting_ite, ite_self, lasting_foldl, implies_true, lasting_eta, snd_ite, fst_ite, keep_State_send,
         keep_State_setF, keep_State_setPort, keep_i2cShow, keep_raise]
       done)
    | rfl

@[simp] theorem keep_i2cRelease (s : State) (p : Nat) :
    (i2cRelease s p).lasting = s.lasting := by
  unfold i2cRelease
  repeat' first
    | done
    | (simp only [
         lasting_ite, ite_self, lasting_foldl, implies_true, lasting_eta, snd_ite, fst_ite, keep_i2cShow]
       done)
    | split
    | (dsimp +zetaHave only; split)
    | (simp +zetaDelta only [
         lasting_ite, ite_self, lasting_foldl, implies_true, lasting_eta, snd_ite, fst_ite, keep_i2cShow]
       done)
    | rfl

@[simp] theorem keep_i2cEnd (s : State) (p : Nat) (ack lost : Bool) (rdata : BitVec 8) :
    (i2cEnd s p ack lost rdata).lasting = s.lasting := by
  unfold i2cEnd
  repeat' first
    | done
    | (simp only [
         lasting_ite, ite_self, lasting_foldl, implies_true, lasting_eta, snd_ite, fst_ite, keep_State_setF,
         keep_State_setPort, keep_i2cRelease, keep_raise]
       done)
    | split
    | (dsimp +zetaHave only; split)
    | (simp +zetaDelta only [
         lasting_ite, ite_self, lasting_foldl, implies_true, lasting_eta, snd_ite, fst_ite, keep_State_setF,
         keep_State_setPort, keep_i2cRelease, keep_raise]
       done)
    | rfl

@[simp] theorem keep_pendOver (s : State) (pin : Nat) (keep : Option (BitVec 8)) :
    (pendOver s pin keep).lasting = s.lasting := by
  unfold pendOver
  repeat' first
    | done
    | (simp only [
         lasting_ite, ite_self, lasting_foldl, implies_true, lasting_eta, snd_ite, fst_ite, lasting_withPins]
       done)
    | split
    | (dsimp +zetaHave only; split)
    | (simp +zetaDelta only [
         lasting_ite, ite_self, lasting_foldl, implies_true, lasting_eta, snd_ite, fst_ite, lasting_withPins]
       done)
    | rfl

@[simp] theorem keep_switchPin (s : State) (pin : Nat) :
    (switchPin s pin).lasting = s.lasting := by
  unfold switchPin
  repeat' first
    | done
    | (simp only [
         lasting_ite, ite_self, lasting_foldl, implies_true, lasting_eta, snd_ite, fst_ite, keep_drivePad,
         keep_pendOver, lasting_withPins]
       done)
    | split
    | (dsimp +zetaHave only; split)
    | (simp +zetaDelta only [
         lasting_ite, ite_self, lasting_foldl, implies_true, lasting_eta, snd_ite, fst_ite, keep_drivePad,
         keep_pendOver, lasting_withPins]
       done)
    | rfl

@[simp] theorem keep_fnWritten (s : State) (pin was old : Nat) :
    (fnWritten s pin was old).lasting = s.lasting := by
  unfold fnWritten
  repeat' first
    | done
    | (simp only [
         lasting_ite, ite_self, lasting_foldl, implies_true, lasting_eta, snd_ite, fst_ite, keep_pendOver,
         keep_switchPin]
       done)
    | split
    | (dsimp +zetaHave only; split)
    | (simp +zetaDelta only [
         lasting_ite, ite_self, lasting_foldl, implies_true, lasting_eta, snd_ite, fst_ite, keep_pendOver,
         keep_switchPin]
       done)
    | rfl

@[simp] theorem keep_edgeSources (s : State) : (edgeSources s).lasting = s.lasting := by
  simp only [edgeSources, lasting_ite, ite_self, lasting_foldl, implies_true, lasting_withPins, keep_raise]

@[simp] theorem keep_edgeLines (s : State) : (edgeLines s).lasting = s.lasting := by
  simp only [edgeLines, keep_edgeSources, lasting_withPins]

@[simp] theorem keep_switchAll (s : State) : (switchAll s).lasting = s.lasting := by
  unfold switchAll
  split
  · rfl
  · simp only [keep_edgeSources, lasting_foldl, implies_true, keep_switchPin]

@[simp] theorem keep_extestPads (s : State) (p : Nat) :
    (extestPads s p).lasting = s.lasting := by
  unfold extestPads
  dsimp only
  repeat' (first | (simp; done) | split | (refine (lasting_foldl _ _ _ ?_).trans ?_ <;> intros))

@[simp] theorem keep_portStarts (s : State) (p : Nat) :
    (portStarts s p).lasting = s.lasting := by
  simp only [portStarts, lasting_ite, ite_self, lasting_foldl, implies_true, lasting_eta, snd_ite, fst_ite,
    keep_State_setF, keep_drivePad, keep_extestPads, keep_edgeSources]

@[simp] theorem keep_portStops (s : State) (p : Nat) :
    (portStops s p).lasting = s.lasting := by
  unfold portStops
  repeat' first
    | done
    | (simp only [
         lasting_ite, ite_self, lasting_foldl, implies_true, lasting_eta, snd_ite, fst_ite, keep_State_setF,
         lasting_withPins, keep_edgeSources]
       done)
    | split
    | (dsimp +zetaHave only; split)
    | (simp +zetaDelta only [
         lasting_ite, ite_self, lasting_foldl, implies_true, lasting_eta, snd_ite, fst_ite, keep_State_setF,
         lasting_withPins, keep_edgeSources]
       done)
    | rfl

@[simp] theorem keep_setKey (s : State) (rq : Requester) (p : Nat) (n : BitVec 7) :
    (setKey s rq p n).lasting = s.lasting := by
  unfold setKey
  repeat' first
    | done
    | (simp only [
         lasting_ite, ite_self, lasting_foldl, implies_true, lasting_eta, snd_ite, fst_ite, lasting_withPins]
       done)
    | split
    | (dsimp +zetaHave only; split)
    | (simp +zetaDelta only [
         lasting_ite, ite_self, lasting_foldl, implies_true, lasting_eta, snd_ite, fst_ite, lasting_withPins]
       done)
    | rfl

@[simp] theorem keep_writeLockKey (s : State) (rq : Requester) (p : Nat) (v : Word) :
    (writeLockKey s rq p v).lasting = s.lasting := by
  unfold writeLockKey
  repeat' first
    | done
    | (simp only [
         lasting_ite, ite_self, lasting_foldl, implies_true, lasting_eta, snd_ite, fst_ite, keep_setKey]
       done)
    | split
    | (dsimp +zetaHave only; split)
    | (simp +zetaDelta only [
         lasting_ite, ite_self, lasting_foldl, implies_true, lasting_eta, snd_ite, fst_ite, keep_setKey]
       done)
    | rfl

@[simp] theorem keep_dropKey (s : State) (rq : Requester) (p : Nat) :
    (dropKey s rq p).lasting = s.lasting := by
  unfold dropKey
  repeat' first
    | done
    | (simp only [
         lasting_ite, ite_self, lasting_foldl, implies_true, lasting_eta, snd_ite, fst_ite, keep_setKey]
       done)
    | split
    | (dsimp +zetaHave only; split)
    | (simp +zetaDelta only [
         lasting_ite, ite_self, lasting_foldl, implies_true, lasting_eta, snd_ite, fst_ite, keep_setKey]
       done)
    | rfl

@[simp] theorem keep_writeLock (s : State) (rq : Requester) (p : Nat) (mask : Word) :
    (writeLock s rq p mask).lasting = s.lasting := by
  unfold writeLock
  repeat' first
    | done
    | (simp only [
         lasting_ite, ite_self, lasting_foldl, implies_true, lasting_eta, snd_ite, fst_ite, keep_State_setReg,
         keep_dropKey, keep_raise]
       done)
    | split
    | (dsimp +zetaHave only; split)
    | (simp +zetaDelta only [
         lasting_ite, ite_self, lasting_foldl, implies_true, lasting_eta, snd_ite, fst_ite, keep_State_setReg,
         keep_dropKey, keep_raise]
       done)
    | rfl

@[simp] theorem keep_writePinTime (s : State) (p which : Nat) (hi : Word) :
    (writePinTime s p which hi).lasting = s.lasting := by
  simp only [writePinTime, lasting_ite, ite_self, lasting_foldl, implies_true, lasting_eta, snd_ite, fst_ite,
    lasting_withLows, keep_State_setReg64, keep_raise]

@[simp] theorem keep_lateArrives (s : State) (e : LateDrive) :
    (lateArrives s e).lasting = s.lasting := by
  unfold lateArrives
  repeat' first
    | done
    | (simp only [
         lasting_ite, ite_self, lasting_foldl, implies_true, lasting_eta, snd_ite, fst_ite, keep_drivePad,
         lasting_withPins]
       done)
    | split
    | (dsimp +zetaHave only; split)
    | (simp +zetaDelta only [
         lasting_ite, ite_self, lasting_foldl, implies_true, lasting_eta, snd_ite, fst_ite, keep_drivePad,
         lasting_withPins]
       done)
    | rfl

@[simp] theorem keep_latePads (s : State) :
    (latePads s).lasting = s.lasting := by
  unfold latePads
  repeat' first
    | done
    | (simp only [
         lasting_ite, ite_self, lasting_foldl, implies_true, lasting_eta, snd_ite, fst_ite, keep_lateArrives,
         lasting_withPins]
       done)
    | split
    | (dsimp +zetaHave only; split)
    | (simp +zetaDelta only [
         lasting_ite, ite_self, lasting_foldl, implies_true, lasting_eta, snd_ite, fst_ite, keep_lateArrives,
         lasting_withPins]
       done)
    | rfl

@[simp] theorem keep_referenceTick (s : State) (t : TargetLevels) :
    (referenceTick s t).lasting = s.lasting := by
  unfold referenceTick
  repeat' first
    | done
    | (simp only [
         lasting_ite, ite_self, lasting_foldl, implies_true, lasting_eta, snd_ite, fst_ite, keep_edgeLines,
         keep_gaugeTick, keep_i2cTick, keep_latePads, keep_targetDrives, keep_uartTick, lasting_withPins,
         lasting_withRecent, lasting_withTicks]
       done)
    | split
    | (dsimp +zetaHave only; split)
    | (simp +zetaDelta only [
         lasting_ite, ite_self, lasting_foldl, implies_true, lasting_eta, snd_ite, fst_ite, keep_edgeLines,
         keep_gaugeTick, keep_i2cTick, keep_latePads, keep_targetDrives, keep_uartTick, lasting_withPins,
         lasting_withRecent, lasting_withTicks]
       done)
    | rfl

end Sys2Proof.Machine
end

