-- ==== Sys2Proof/Laws/KeepQueue.lean ====
section
/-! SUPPORT. Which functions of Machine/Queue.lean keep the lasting part of the state, and that what lasts lasts through the others. -/
set_option linter.unusedSimpArgs false

namespace Sys2Proof.Machine

@[simp] theorem keep_showPending (s : State) (die q : Nat) :
    (showPending s die q).lasting = s.lasting := by
  simp only [showPending, lasting_ite, ite_self, lasting_foldl, implies_true, lasting_eta, snd_ite, fst_ite,
    keep_State_setF]

theorem lasts_issueAccess {o : Lasting} (die q : Nat) (d : QDesc) (bits : Tab (Nat × Bool))
    (acc : State × Resp × List HeldWrite) (i : Nat) (h : Lasts o acc.1.lasting) :
    Lasts o (issueAccess die q d bits acc i).1.lasting := by
  simp only [issueAccess, fst_ite]
  exact lasts_ite' (lasts_ite' (lasts_vnrRead _ _ _ _ h) (lasts_vnrRead _ _ _ _ h)) h

theorem lasts_issueAll {o : Lasting} (die q : Nat) (d : QDesc) (bits : Tab (Nat × Bool))
    (acc : State × Resp × List HeldWrite) (l : List Nat) (h : Lasts o acc.1.lasting) :
    Lasts o (l.foldl (issueAccess die q d bits) acc).1.lasting :=
  lasts_foldl1 _ _ _ (fun _ _ ht => lasts_issueAccess _ _ _ _ _ _ ht) h

theorem lasts_takeRecord {o : Lasting} (s : State) (die q : Nat) (h : Lasts o s.lasting) :
    Lasts o (takeRecord s die q).lasting := by
  simp only [takeRecord, keep_showPending, keep_State_setQueue]
  exact lasts_issueAll _ _ _ _ _ _ h

@[simp] theorem keep_responseErrors (s : State) (die q : Nat) (r : Resp) :
    (responseErrors s die q r).lasting = s.lasting := by
  simp only [responseErrors, lasting_ite, ite_self, lasting_foldl, implies_true, lasting_eta, snd_ite, fst_ite,
    keep_State_bump, keep_raise]

@[simp] theorem keep_dropResps (s : State) (die q : Nat) (keep : Resp → Bool) :
    (dropResps s die q keep).lasting = s.lasting := by
  unfold dropResps
  repeat' first
    | done
    | (simp only [
         lasting_ite, ite_self, lasting_foldl, implies_true, lasting_eta, snd_ite, fst_ite,
         keep_State_setQueue, keep_responseErrors, keep_showPending]
       done)
    | split
    | (dsimp +zetaHave only; split)
    | (simp +zetaDelta only [
         lasting_ite, ite_self, lasting_foldl, implies_true, lasting_eta, snd_ite, fst_ite,
         keep_State_setQueue, keep_responseErrors, keep_showPending]
       done)
    | rfl

@[simp] theorem keep_responseArrives (s : State) (die q : Nat) :
    (responseArrives s die q).lasting = s.lasting := by
  simp only [responseArrives, lasting_ite, ite_self, lasting_foldl, implies_true, lasting_eta, snd_ite, fst_ite,
    keep_State_setQueue, keep_showPending, keep_responseErrors]
  repeat' (first | (simp only [lasting_ite, ite_self, lasting_foldl, implies_true, lasting_eta, snd_ite, fst_ite,
    keep_State_setQueue, keep_showPending, keep_responseErrors]; done) | split | rfl)

theorem lasts_releaseWrite {o : Lasting} (die q : Nat) (s : State) (w : HeldWrite) (h : Lasts o s.lasting) :
    Lasts o (releaseWrite die q s w).lasting := by
  unfold releaseWrite
  repeat' first
    | with_reducible exact h
    | with_reducible assumption
    | with_reducible apply lasts_ite'
    | with_reducible apply lasts_vnrWrite
    | (with_reducible apply lasts_foldl; intro _ _ _)
    | simp only [keep_State_bump, keep_raise, lasting_eta, snd_ite, fst_ite]
    | with_reducible refine lasts_withLdr _ _ (by rfl) (by rfl) ?_
    | with_reducible refine lasts_snd_eq ‹_ = (_, _)› ?_
    | with_reducible refine lasts_snd2_eq ‹_ = (_, _, _)› ?_
    | split
    | dsimp only

theorem lasts_queuesAtQ {o : Lasting} (s : State) (commit : Bool) (h : Lasts o s.lasting) :
    Lasts o (queuesAtQ s commit).lasting := by
  unfold queuesAtQ
  repeat' first
    | with_reducible exact h
    | with_reducible assumption
    | with_reducible apply lasts_ite'
    | with_reducible apply lasts_releaseWrite
    | (with_reducible apply lasts_foldl; intro _ _ _)
    | simp only [keep_State_setQueue, keep_dropResps, lasting_eta, snd_ite, fst_ite]
    | with_reducible refine lasts_withLdr _ _ (by rfl) (by rfl) ?_
    | with_reducible refine lasts_snd_eq ‹_ = (_, _)› ?_
    | with_reducible refine lasts_snd2_eq ‹_ = (_, _, _)› ?_
    | split
    | dsimp only

@[simp] theorem keep_latchWindows (s : State) (m : Nat) :
    (latchWindows s m).lasting = s.lasting := by
  unfold latchWindows
  repeat' first
    | done
    | (simp only [
         lasting_ite, ite_self, lasting_foldl, implies_true, lasting_eta, snd_ite, fst_ite,
         keep_State_setQueue, keep_dropResps]
       done)
    | split
    | (dsimp +zetaHave only; split)
    | (simp +zetaDelta only [
         lasting_ite, ite_self, lasting_foldl, implies_true, lasting_eta, snd_ite, fst_ite,
         keep_State_setQueue, keep_dropResps]
       done)
    | rfl

@[simp] theorem keep_queuesStart (s : State) :
    (queuesStart s).lasting = s.lasting := by
  simp only [queuesStart, lasting_ite, ite_self, lasting_foldl, implies_true, lasting_eta, snd_ite, fst_ite,
    keep_State_setQueue]

@[simp] theorem keep_queuesEmpty (s : State) :
    (queuesEmpty s).lasting = s.lasting := by
  unfold queuesEmpty
  repeat' first
    | done
    | (simp only [
         lasting_ite, ite_self, lasting_foldl, implies_true, lasting_eta, snd_ite, fst_ite,
         keep_State_setQueue, keep_dropResps]
       done)
    | split
    | (dsimp +zetaHave only; split)
    | (simp +zetaDelta only [
         lasting_ite, ite_self, lasting_foldl, implies_true, lasting_eta, snd_ite, fst_ite,
         keep_State_setQueue, keep_dropResps]
       done)
    | rfl

@[simp] theorem keep_queueStops (s : State) (die q : Nat) :
    (queueStops s die q).lasting = s.lasting := by
  unfold queueStops
  repeat' first
    | done
    | (simp only [
         lasting_ite, ite_self, lasting_foldl, implies_true, lasting_eta, snd_ite, fst_ite, keep_dropResps]
       done)
    | split
    | (dsimp +zetaHave only; split)
    | (simp +zetaDelta only [
         lasting_ite, ite_self, lasting_foldl, implies_true, lasting_eta, snd_ite, fst_ite, keep_dropResps]
       done)
    | rfl

end Sys2Proof.Machine
end

