-- ==== Sys2Proof/Laws/KeepReceive.lean ====
section
/-! SUPPORT. Which functions of Machine/Receive.lean keep the lasting part of the state, and that what lasts lasts through the others. -/
set_option linter.unusedSimpArgs false

namespace Sys2Proof.Machine

theorem lasts_packetActs {o : Lasting} (s : State) (b : Nat) (rx : BitVec 64) (p : Packet) (h : Lasts o s.lasting) :
    Lasts o (packetActs s b rx p).lasting := by
  cases p with
  | chain m =>
    cases m with
    | end_ => exact lasts_ite' (lasts_chainEnd _ h) h
    | _ => simpa [packetActs] using h
  | _ => simpa [packetActs] using h

theorem lasts_pktUnit {o : Lasting} (s : State) (b u : Nat) (h : Lasts o s.lasting) : Lasts o (pktUnit s b u).lasting := by
  have hx : ∀ r, Lasts o (s.setRx b r).lasting := fun r => by simpa only [keep_State_setRx] using h
  unfold pktUnit
  dsimp only
  generalize (if u.testBit 28 = true then _ else _ : Option (Nat × BitVec 64 × Nat × List Nat)) = cur
  split
  · with_reducible refine lasts_ite' ?_ (hx _)
    split
    · exact lasts_packetActs _ _ _ _ (hx _)
    · exact hx _
  · exact hx _

@[simp] theorem keep_openGap (s : State) (b : Nat) :
    (openGap s b).lasting = s.lasting := by
  unfold openGap
  repeat' first
    | done
    | (simp only [
         lasting_ite, ite_self, lasting_foldl, implies_true, lasting_eta, snd_ite, fst_ite, keep_State_setRx,
         keep_sendPacket]
       done)
    | split
    | (dsimp +zetaHave only; split)
    | (simp +zetaDelta only [
         lasting_ite, ite_self, lasting_foldl, implies_true, lasting_eta, snd_ite, fst_ite, keep_State_setRx,
         keep_sendPacket]
       done)
    | rfl

@[simp] theorem keep_deliverSlots (s : State) (b row : Nat) (v : BitVec 448) :
    (deliverSlots s b row v).lasting = s.lasting := by
  unfold deliverSlots
  repeat' first
    | done
    | (simp only [
         lasting_ite, ite_self, lasting_foldl, implies_true, lasting_eta, snd_ite, fst_ite, lasting_withFab]
       done)
    | split
    | (dsimp +zetaHave only; split)
    | (simp +zetaDelta only [
         lasting_ite, ite_self, lasting_foldl, implies_true, lasting_eta, snd_ite, fst_ite, lasting_withFab]
       done)
    | rfl

@[simp] theorem keep_frameFails (s : State) (b row cnt reason : Nat) :
    (frameFails s b row cnt reason).lasting = s.lasting := by
  unfold frameFails
  repeat' first
    | done
    | (simp only [
         lasting_ite, ite_self, lasting_foldl, implies_true, lasting_eta, snd_ite, fst_ite, keep_State_bump,
         keep_deliverSlots, keep_openGap, keep_raise, keep_raiseReplay]
       done)
    | split
    | (dsimp +zetaHave only; split)
    | (simp +zetaDelta only [
         lasting_ite, ite_self, lasting_foldl, implies_true, lasting_eta, snd_ite, fst_ite, keep_State_bump,
         keep_deliverSlots, keep_openGap, keep_raise, keep_raiseReplay]
       done)
    | rfl

theorem lasts_unitIn {o : Lasting} (s : State) (b cnt u : Nat) (h : Lasts o s.lasting) :
    Lasts o (unitIn s b cnt u).lasting := by
  unfold unitIn
  split
  · exact h
  · simpa only [keep_State_setRx] using h
  · exact lasts_packetIn _ _ _ _ (fun t ht => lasts_pktUnit t b u ht) h
  · exact lasts_packetIn _ _ _ _ (fun t ht => lasts_streamBytes t b _ ht) h
  · simpa only [keep_resumeIn] using h
  · simpa only [keep_openGap] using h

theorem lasts_frameTaken {o : Lasting} (s : State) (b row cnt f : Nat) (h : Lasts o s.lasting) :
    Lasts o (frameTaken s b row cnt f).lasting := by
  have h1 : ∀ v, Lasts o (deliverSlots s b row v).lasting := fun v => by simpa only [keep_deliverSlots] using h
  unfold frameTaken
  dsimp only
  with_reducible refine lasts_ite' ?_ (lasts_unitIn _ _ _ _ (h1 _))
  exact lasts_packetIn _ _ _ _ (fun t ht => lasts_streamBytes t b _ ht) (h1 _)

theorem lasts_bundleFrame {o : Lasting} (s : State) (b cnt : Nat) (raw : BitVec 531) (h : Lasts o s.lasting) :
    Lasts o (bundleFrame s b cnt raw).lasting := by
  have h1 : Lasts o (countTo s cnt).lasting := by simpa only [keep_countTo] using h
  unfold bundleFrame
  with_reducible refine lasts_ite' ?_ h
  dsimp only
  generalize countTo s cnt = t at h1 ⊢
  split
  · simpa only [keep_frameFails] using h1
  · with_reducible refine lasts_ite' (lasts_frameTaken _ _ _ _ _ (lasts_ite' h1 ?_)) ?_
    · simpa only [keep_State_bump, keep_raise] using h1
    · simpa only [keep_frameFails] using h1

end Sys2Proof.Machine
end

