-- ==== Sys2Proof/Laws/KeepCycle.lean ====
section
/-! SUPPORT. Which functions of Machine/Cycle.lean keep the lasting part of the state, and that what lasts lasts through the others. -/
set_option linter.unusedSimpArgs false

namespace Sys2Proof.Machine

@[simp] theorem keep_sendVote (s : State) (b c : Nat) (m : BitVec 50) :
    (sendVote s b c m).lasting = s.lasting := by
  unfold sendVote
  repeat' first
    | done
    | (simp only [
         lasting_ite, ite_self, lasting_foldl, implies_true, lasting_eta, snd_ite, fst_ite, keep_State_setTx]
       done)
    | split
    | (dsimp +zetaHave only; split)
    | (simp +zetaDelta only [
         lasting_ite, ite_self, lasting_foldl, implies_true, lasting_eta, snd_ite, fst_ite, keep_State_setTx]
       done)
    | rfl

@[simp] theorem keep_sendVotes (s : State) (r : Round) (k : Nat) :
    (sendVotes s r k).lasting = s.lasting := by
  unfold sendVotes
  repeat' first
    | done
    | (simp only [
         lasting_ite, ite_self, lasting_foldl, implies_true, lasting_eta, snd_ite, fst_ite, keep_sendVote]
       done)
    | split
    | (dsimp +zetaHave only; split)
    | (simp +zetaDelta only [
         lasting_ite, ite_self, lasting_foldl, implies_true, lasting_eta, snd_ite, fst_ite, keep_sendVote]
       done)
    | rfl

@[simp] theorem keep_castVote (s : State) (rel : Nat) (own : BitVec 8) :
    (castVote s rel own).lasting = s.lasting := by
  unfold castVote
  repeat' first
    | done
    | (simp only [
         lasting_ite, ite_self, lasting_foldl, implies_true, lasting_eta, snd_ite, fst_ite, keep_sendVotes,
         lasting_withCyc]
       done)
    | split
    | (dsimp +zetaHave only; split)
    | (simp +zetaDelta only [
         lasting_ite, ite_self, lasting_foldl, implies_true, lasting_eta, snd_ite, fst_ite, keep_sendVotes,
         lasting_withCyc]
       done)
    | rfl

@[simp] theorem keep_voteRelay (s : State) (v k : Nat) :
    (voteRelay s v k).lasting = s.lasting := by
  unfold voteRelay
  repeat' first
    | done
    | (simp only [
         lasting_ite, ite_self, lasting_foldl, implies_true, lasting_eta, snd_ite, fst_ite, keep_countTo,
         keep_sendVotes]
       done)
    | split
    | (dsimp +zetaHave only; split)
    | (simp +zetaDelta only [
         lasting_ite, ite_self, lasting_foldl, implies_true, lasting_eta, snd_ite, fst_ite, keep_countTo,
         keep_sendVotes]
       done)
    | rfl

@[simp] theorem keep_compareVote (s : State) (m : BitVec 50) :
    (compareVote s m).lasting = s.lasting := by
  simp only [compareVote, lasting_ite, ite_self, lasting_foldl, implies_true, lasting_eta, snd_ite, fst_ite,
    keep_raiseFault]

@[simp] theorem keep_compareCopies (s : State) (frame copy : Option (BitVec 50)) :
    (compareCopies s frame copy).lasting = s.lasting := by
  unfold compareCopies
  split
  · exact keep_compareVote ..
  · rfl

@[simp] theorem keep_voteHeld (s : State) (b v : Nat) (frame copy : Option (BitVec 50)) :
    (voteHeld s b v frame copy).lasting = s.lasting := by
  unfold voteHeld
  repeat' first
    | done
    | (simp only [
         lasting_ite, ite_self, lasting_foldl, implies_true, lasting_eta, snd_ite, fst_ite, keep_State_bump,
         keep_compareCopies, keep_raise, keep_raiseFault, lasting_withCyc]
       done)
    | split
    | (dsimp +zetaHave only; split)
    | (simp +zetaDelta only [
         lasting_ite, ite_self, lasting_foldl, implies_true, lasting_eta, snd_ite, fst_ite, keep_State_bump,
         keep_compareCopies, keep_raise, keep_raiseFault, lasting_withCyc]
       done)
    | rfl

@[simp] theorem keep_stepTo (s : State) (c : Nat) :
    (stepTo s c).lasting = s.lasting := by
  unfold stepTo
  repeat' first
    | done
    | (simp only [
         lasting_ite, ite_self, lasting_foldl, implies_true, lasting_eta, snd_ite, fst_ite, keep_passSteps,
         keep_passTo]
       done)
    | split
    | (dsimp +zetaHave only; split)
    | (simp +zetaDelta only [
         lasting_ite, ite_self, lasting_foldl, implies_true, lasting_eta, snd_ite, fst_ite, keep_passSteps,
         keep_passTo]
       done)
    | rfl

@[simp] theorem keep_voteMessageIn (s : State) (b v : Nat) (frame : VoteCopy) (spare : Option (BitVec 128)) :
    (voteMessageIn s b v frame spare).lasting = s.lasting := by
  unfold voteMessageIn
  repeat' first
    | done
    | (simp only [
         lasting_ite, ite_self, lasting_foldl, implies_true, lasting_eta, snd_ite, fst_ite, keep_holdDue,
         keep_stepTo, keep_voteHeld, keep_compareCopies]
       done)
    | split
    | (dsimp +zetaHave only; split)
    | (simp +zetaDelta only [
         lasting_ite, ite_self, lasting_foldl, implies_true, lasting_eta, snd_ite, fst_ite, keep_holdDue,
         keep_stepTo, keep_voteHeld, keep_compareCopies]
       done)
    | rfl

@[simp] theorem keep_queueVotes (s : State) (new : Bool) (m : Nat) :
    (queueVotes s new m).lasting = s.lasting := by
  unfold queueVotes
  repeat' first
    | done
    | (simp only [
         lasting_ite, ite_self, lasting_foldl, implies_true, lasting_eta, snd_ite, fst_ite, keep_State_bump,
         keep_State_setF, keep_raise]
       done)
    | split
    | (dsimp +zetaHave only; split)
    | (simp +zetaDelta only [
         lasting_ite, ite_self, lasting_foldl, implies_true, lasting_eta, snd_ite, fst_ite, keep_State_bump,
         keep_State_setF, keep_raise]
       done)
    | rfl

@[simp] theorem keep_laneCounted (s : State) (restore : Bool) :
    (laneCounted s restore).lasting = s.lasting := by
  unfold laneCounted
  repeat' first
    | done
    | (simp only [
         lasting_ite, ite_self, lasting_foldl, implies_true, lasting_eta, snd_ite, fst_ite, lasting_withCyc]
       done)
    | split
    | (dsimp +zetaHave only; split)
    | (simp +zetaDelta only [
         lasting_ite, ite_self, lasting_foldl, implies_true, lasting_eta, snd_ite, fst_ite, lasting_withCyc]
       done)
    | rfl

@[simp] theorem keep_decisionStep (s : State) :
    (decisionStep s).lasting = s.lasting := by
  unfold decisionStep
  repeat' first
    | done
    | (simp only [
         lasting_ite, ite_self, lasting_foldl, implies_true, lasting_eta, snd_ite, fst_ite, keep_castVote,
         keep_laneCounted, keep_moveStep, keep_queueVotes, lasting_withCyc]
       done)
    | split
    | (dsimp +zetaHave only; split)
    | (simp +zetaDelta only [
         lasting_ite, ite_self, lasting_foldl, implies_true, lasting_eta, snd_ite, fst_ite, keep_castVote,
         keep_laneCounted, keep_moveStep, keep_queueVotes, lasting_withCyc]
       done)
    | rfl

@[simp] theorem keep_confirmStep (s : State) :
    (confirmStep s).lasting = s.lasting := by
  unfold confirmStep
  repeat' first
    | done
    | (simp only [
         lasting_ite, ite_self, lasting_foldl, implies_true, lasting_eta, snd_ite, fst_ite, keep_holdVote,
         keep_moveStep, keep_raiseFault, lasting_withCyc]
       done)
    | split
    | (dsimp +zetaHave only; split)
    | (simp +zetaDelta only [
         lasting_ite, ite_self, lasting_foldl, implies_true, lasting_eta, snd_ite, fst_ite, keep_holdVote,
         keep_moveStep, keep_raiseFault, lasting_withCyc]
       done)
    | rfl

theorem lasts_queueIssue {o : Lasting} (s : State) (die q : Nat) (h : Lasts o s.lasting) :
    Lasts o (queueIssue s die q).lasting := by
  unfold queueIssue
  repeat' first
    | with_reducible exact h
    | with_reducible assumption
    | with_reducible apply lasts_ite'
    | with_reducible apply lasts_takeRecord
    | (with_reducible apply lasts_foldl; intro _ _ _)
    | simp only [keep_moveStep, lasting_eta, snd_ite, fst_ite]
    | ((with_reducible refine lasts_withLdr _ _ ?hf ?hr ?_); (case hf => rfl); (case hr => rfl))
    | with_reducible refine lasts_snd_eq ‹_ = (_, _)› ?_
    | with_reducible refine lasts_snd2_eq ‹_ = (_, _, _)› ?_
    | split
    | dsimp only

@[simp] theorem keep_exportRecord (s : State) (die panel : Nat) :
    (exportRecord s die panel).lasting = s.lasting := by
  simp only [exportRecord, lasting_ite, ite_self, lasting_foldl, implies_true, lasting_eta, snd_ite, fst_ite,
    lasting_withExports, keep_moveStep]

@[simp] theorem keep_restoreChecked (s : State) (die panel : Nat) :
    (restoreChecked s die panel).lasting = s.lasting := by
  unfold restoreChecked
  repeat' first
    | done
    | (simp only [
         lasting_ite, ite_self, lasting_foldl, implies_true, lasting_eta, snd_ite, fst_ite,
         keep_State_setPanel, keep_raiseAll, keep_raiseFault]
       done)
    | split
    | (dsimp +zetaHave only; split)
    | (simp +zetaDelta only [
         lasting_ite, ite_self, lasting_foldl, implies_true, lasting_eta, snd_ite, fst_ite,
         keep_State_setPanel, keep_raiseAll, keep_raiseFault]
       done)
    | rfl

theorem lasts_commitActions {o : Lasting} (s : State) (h : Lasts o s.lasting) :
    Lasts o (commitActions s).lasting := by
  unfold commitActions
  repeat' first
    | with_reducible exact h
    | with_reducible assumption
    | with_reducible apply lasts_ite'
    | with_reducible apply lasts_queuesAtQ
    | (with_reducible apply lasts_foldl; intro _ _ _)
    | simp only [keep_State_setF, keep_State_setPanel, keep_State_setReg64, keep_handoverAll, lasting_withCyc,
        lasting_withTrg, lasting_eta, snd_ite, fst_ite]
    | ((with_reducible refine lasts_withLdr _ _ ?hf ?hr ?_); (case hf => rfl); (case hr => rfl))
    | with_reducible refine lasts_snd_eq ‹_ = (_, _)› ?_
    | with_reducible refine lasts_snd2_eq ‹_ = (_, _, _)› ?_
    | split
    | dsimp only

theorem lasts_discardActions {o : Lasting} (s : State) (h : Lasts o s.lasting) :
    Lasts o (discardActions s).lasting := by
  unfold discardActions
  repeat' first
    | with_reducible exact h
    | with_reducible assumption
    | with_reducible apply lasts_ite'
    | with_reducible apply lasts_queuesAtQ
    | (with_reducible apply lasts_foldl; intro _ _ _)
    | simp only [keep_State_bump, keep_restoreChecked, lasting_withCyc, lasting_withExports, lasting_eta, snd_ite,
        fst_ite]
    | ((with_reducible refine lasts_withLdr _ _ ?hf ?hr ?_); (case hf => rfl); (case hr => rfl))
    | with_reducible refine lasts_snd_eq ‹_ = (_, _)› ?_
    | with_reducible refine lasts_snd2_eq ‹_ = (_, _, _)› ?_
    | split
    | dsimp only

theorem lasts_commitStep {o : Lasting} (s : State) (h : Lasts o s.lasting) :
    Lasts o (commitStep s).lasting := by
  unfold commitStep
  repeat' first
    | with_reducible exact h
    | with_reducible assumption
    | with_reducible apply lasts_ite'
    | with_reducible apply lasts_commitActions
    | with_reducible apply lasts_discardActions
    | (with_reducible apply lasts_foldl; intro _ _ _)
    | simp only [keep_moveStep, lasting_withCyc, lasting_eta, snd_ite, fst_ite]
    | ((with_reducible refine lasts_withLdr _ _ ?hf ?hr ?_); (case hf => rfl); (case hr => rfl))
    | with_reducible refine lasts_snd_eq ‹_ = (_, _)› ?_
    | with_reducible refine lasts_snd2_eq ‹_ = (_, _, _)› ?_
    | split
    | dsimp only

@[simp] theorem keep_startExecution (s : State) :
    (startExecution s).lasting = s.lasting := by
  unfold startExecution
  repeat' first
    | done
    | (simp only [
         lasting_ite, ite_self, lasting_foldl, implies_true, lasting_eta, snd_ite, fst_ite, keep_State_setReg,
         keep_latchEvents, keep_latchPins, keep_latchWindows, keep_paceStart, keep_pendingArms,
         keep_queuesStart, keep_switchAll, lasting_withCyc, lasting_withExports, lasting_withFab,
         lasting_withPanels, lasting_withTrg]
       done)
    | split
    | (dsimp +zetaHave only; split)
    | (simp +zetaDelta only [
         lasting_ite, ite_self, lasting_foldl, implies_true, lasting_eta, snd_ite, fst_ite, keep_State_setReg,
         keep_latchEvents, keep_latchPins, keep_latchWindows, keep_paceStart, keep_pendingArms,
         keep_queuesStart, keep_switchAll, lasting_withCyc, lasting_withExports, lasting_withFab,
         lasting_withPanels, lasting_withTrg]
       done)
    | rfl

@[simp] theorem keep_startHold (s : State) :
    (startHold s).lasting = s.lasting := by
  unfold startHold
  repeat' first
    | done
    | (simp only [
         lasting_ite, ite_self, lasting_foldl, implies_true, lasting_eta, snd_ite, fst_ite, keep_State_setF,
         lasting_withCyc]
       done)
    | split
    | (dsimp +zetaHave only; split)
    | (simp +zetaDelta only [
         lasting_ite, ite_self, lasting_foldl, implies_true, lasting_eta, snd_ite, fst_ite, keep_State_setF,
         lasting_withCyc]
       done)
    | rfl

@[simp] theorem keep_boundary (s : State) :
    (boundary s).lasting = s.lasting := by
  simp only [boundary, lasting_ite, ite_self, lasting_foldl, implies_true, lasting_eta, snd_ite, fst_ite,
    keep_moveStep, keep_startExecution, keep_startHold]

@[simp] theorem keep_alignFree (s : State) :
    (alignFree s).lasting = s.lasting := by
  simp only [alignFree, lasting_ite, ite_self, lasting_foldl, implies_true, lasting_eta, snd_ite, fst_ite,
    lasting_withCyc]

@[simp] theorem keep_freeHold (s : State) :
    (freeHold s).lasting = s.lasting := by
  unfold freeHold
  repeat' first
    | done
    | (simp only [
         lasting_ite, ite_self, lasting_foldl, implies_true, lasting_eta, snd_ite, fst_ite, keep_alignFree,
         lasting_withCyc]
       done)
    | split
    | (dsimp +zetaHave only; split)
    | (simp +zetaDelta only [
         lasting_ite, ite_self, lasting_foldl, implies_true, lasting_eta, snd_ite, fst_ite, keep_alignFree,
         lasting_withCyc]
       done)
    | rfl

@[simp] theorem keep_releaseVote (s : State) :
    (releaseVote s).lasting = s.lasting := by
  unfold releaseVote
  repeat' first
    | done
    | (simp only [
         lasting_ite, ite_self, lasting_foldl, implies_true, lasting_eta, snd_ite, fst_ite, keep_alignFree,
         keep_castVote, keep_laneCounted, keep_moveCount, keep_queueVotes, lasting_withCyc]
       done)
    | split
    | (dsimp +zetaHave only; split)
    | (simp +zetaDelta only [
         lasting_ite, ite_self, lasting_foldl, implies_true, lasting_eta, snd_ite, fst_ite, keep_alignFree,
         keep_castVote, keep_laneCounted, keep_moveCount, keep_queueVotes, lasting_withCyc]
       done)
    | rfl

@[simp] theorem keep_releasePoint (s : State) :
    (releasePoint s).lasting = s.lasting := by
  unfold releasePoint
  repeat' first
    | done
    | (simp only [
         lasting_ite, ite_self, lasting_foldl, implies_true, lasting_eta, snd_ite, fst_ite, keep_State_bump,
         keep_alignFree, keep_holdVote, keep_moveCount, keep_startExecution, lasting_withCyc]
       done)
    | split
    | (dsimp +zetaHave only; split)
    | (simp +zetaDelta only [
         lasting_ite, ite_self, lasting_foldl, implies_true, lasting_eta, snd_ite, fst_ite, keep_State_bump,
         keep_alignFree, keep_holdVote, keep_moveCount, keep_startExecution, lasting_withCyc]
       done)
    | rfl

@[simp] theorem keep_cycStarted (s : State) :
    (cycStarted s).lasting = s.lasting := by
  simp only [cycStarted, lasting_ite, ite_self, lasting_foldl, implies_true, lasting_eta, snd_ite, fst_ite,
    lasting_withCyc, keep_State_setReg64, keep_State_setSt, keep_gaugesStart, keep_queuesEmpty, keep_freeHold]

@[simp] theorem keep_cycStopped (s : State) :
    (cycStopped s).lasting = s.lasting := by
  unfold cycStopped
  repeat' first
    | done
    | (simp only [
         lasting_ite, ite_self, lasting_foldl, implies_true, lasting_eta, snd_ite, fst_ite, keep_State_setF,
         keep_State_setSt, keep_freeHold]
       done)
    | split
    | (dsimp +zetaHave only; split)
    | (simp +zetaDelta only [
         lasting_ite, ite_self, lasting_foldl, implies_true, lasting_eta, snd_ite, fst_ite, keep_State_setF,
         keep_State_setSt, keep_freeHold]
       done)
    | rfl

@[simp] theorem keep_endCause (s : State) (c : BitVec 8) :
    (endCause s c).lasting = s.lasting := by
  unfold endCause
  repeat' first
    | done
    | (simp only [
         lasting_ite, ite_self, lasting_foldl, implies_true, lasting_eta, snd_ite, fst_ite, lasting_withCyc]
       done)
    | split
    | (dsimp +zetaHave only; split)
    | (simp +zetaDelta only [
         lasting_ite, ite_self, lasting_foldl, implies_true, lasting_eta, snd_ite, fst_ite, lasting_withCyc]
       done)
    | rfl

@[simp] theorem keep_releaseFault (s : State) :
    (releaseFault s).lasting = s.lasting := by
  unfold releaseFault
  repeat' first
    | done
    | (simp only [
         lasting_ite, ite_self, lasting_foldl, implies_true, lasting_eta, snd_ite, fst_ite, keep_State_setF,
         keep_endCause, lasting_withCyc]
       done)
    | split
    | (dsimp +zetaHave only; split)
    | (simp +zetaDelta only [
         lasting_ite, ite_self, lasting_foldl, implies_true, lasting_eta, snd_ite, fst_ite, keep_State_setF,
         keep_endCause, lasting_withCyc]
       done)
    | rfl

@[simp] theorem keep_releaseStopif (s : State) :
    (releaseStopif s).lasting = s.lasting := by
  unfold releaseStopif
  repeat' first
    | done
    | (simp only [
         lasting_ite, ite_self, lasting_foldl, implies_true, lasting_eta, snd_ite, fst_ite, keep_endCause,
         lasting_withCyc]
       done)
    | split
    | (dsimp +zetaHave only; split)
    | (simp +zetaDelta only [
         lasting_ite, ite_self, lasting_foldl, implies_true, lasting_eta, snd_ite, fst_ite, keep_endCause,
         lasting_withCyc]
       done)
    | rfl

@[simp] theorem keep_releaseTrigStop (s : State) :
    (releaseTrigStop s).lasting = s.lasting := by
  unfold releaseTrigStop
  repeat' first
    | done
    | (simp only [
         lasting_ite, ite_self, lasting_foldl, implies_true, lasting_eta, snd_ite, fst_ite, keep_endCause,
         lasting_withCyc]
       done)
    | split
    | (dsimp +zetaHave only; split)
    | (simp +zetaDelta only [
         lasting_ite, ite_self, lasting_foldl, implies_true, lasting_eta, snd_ite, fst_ite, keep_endCause,
         lasting_withCyc]
       done)
    | rfl

end Sys2Proof.Machine
end

