-- ==== Sys2Proof/Laws/KeepTrace.lean ====
section
/-! SUPPORT. Which functions of Machine/Trace.lean keep the lasting part of the state, and that what lasts lasts through the others. -/
set_option linter.unusedSimpArgs false

namespace Sys2Proof.Machine

@[simp] theorem keep_State_setTr (s : State) (c : Nat) (t : TraceUnit) :
    (State.setTr s c t).lasting = s.lasting := by
  simp only [State.setTr, lasting_ite, ite_self, lasting_foldl, implies_true, lasting_eta, snd_ite, fst_ite,
    lasting_withTraces]

@[simp] theorem keep_State_setCore (s : State) (c : Nat) (k : Core) :
    (State.setCore s c k).lasting = s.lasting := by
  simp only [State.setCore, lasting_ite, ite_self, lasting_foldl, implies_true, lasting_eta, snd_ite, fst_ite,
    lasting_withCores]

@[simp] theorem keep_tracePut (s : State) (c : Nat) (bs : List Nat) :
    (tracePut s c bs).lasting = s.lasting := by
  simp only [tracePut, lasting_ite, ite_self, lasting_foldl, implies_true, lasting_eta, snd_ite, fst_ite,
    keep_State_setTr]

@[simp] theorem keep_traceFit (s : State) (c : Nat) (bs : List Nat) :
    (traceFit s c bs).lasting = s.lasting := by
  unfold traceFit
  repeat' first
    | done
    | (simp only [
         lasting_ite, ite_self, lasting_foldl, implies_true, lasting_eta, snd_ite, fst_ite, keep_State_bump,
         keep_State_setTr, keep_tracePut]
       done)
    | split
    | (dsimp +zetaHave only; split)
    | (simp +zetaDelta only [
         lasting_ite, ite_self, lasting_foldl, implies_true, lasting_eta, snd_ite, fst_ite, keep_State_bump,
         keep_State_setTr, keep_tracePut]
       done)
    | rfl

@[simp] theorem keep_putSync (s : State) (c : Nat) (pc : Word) (machine : Bool) :
    (putSync s c pc machine).lasting = s.lasting := by
  simp only [putSync, lasting_ite, ite_self, lasting_foldl, implies_true, lasting_eta, snd_ite, fst_ite,
    keep_State_setTr, keep_traceFit]

@[simp] theorem keep_putStamp (s : State) (c : Nat) :
    (putStamp s c).lasting = s.lasting := by
  simp only [putStamp, lasting_ite, ite_self, lasting_foldl, implies_true, lasting_eta, snd_ite, fst_ite,
    keep_State_setTr, keep_traceFit]

@[simp] theorem keep_flushBranches (s : State) (c : Nat) :
    (flushBranches s c).lasting = s.lasting := by
  simp only [flushBranches, lasting_ite, ite_self, lasting_foldl, implies_true, lasting_eta, snd_ite, fst_ite,
    keep_State_setTr, keep_traceFit]

@[simp] theorem keep_traceResume (s : State) (c : Nat) (pc : Word) (machine : Bool) :
    (traceResume s c pc machine).lasting = s.lasting := by
  unfold traceResume
  repeat' first
    | done
    | (simp only [
         lasting_ite, ite_self, lasting_foldl, implies_true, lasting_eta, snd_ite, fst_ite, keep_State_setTr,
         keep_flushBranches, keep_putStamp, keep_putSync, keep_raise, keep_traceFit]
       done)
    | split
    | (dsimp +zetaHave only; split)
    | (simp +zetaDelta only [
         lasting_ite, ite_self, lasting_foldl, implies_true, lasting_eta, snd_ite, fst_ite, keep_State_setTr,
         keep_flushBranches, keep_putStamp, keep_putSync, keep_raise, keep_traceFit]
       done)
    | rfl

@[simp] theorem keep_emitBefore (s : State) (c : Nat) (pc : Word) (machine : Bool) :
    (emitBefore s c pc machine).lasting = s.lasting := by
  unfold emitBefore
  repeat' first
    | done
    | (simp only [
         lasting_ite, ite_self, lasting_foldl, implies_true, lasting_eta, snd_ite, fst_ite, keep_flushBranches,
         keep_putSync, keep_traceResume]
       done)
    | split
    | (dsimp +zetaHave only; split)
    | (simp +zetaDelta only [
         lasting_ite, ite_self, lasting_foldl, implies_true, lasting_eta, snd_ite, fst_ite, keep_flushBranches,
         keep_putSync, keep_traceResume]
       done)
    | rfl

@[simp] theorem keep_emit (s : State) (c : Nat) (pc : Word) (machine : Bool) (bs : List Nat) :
    (emit s c pc machine bs).lasting = s.lasting := by
  unfold emit
  repeat' first
    | done
    | (simp only [
         lasting_ite, ite_self, lasting_foldl, implies_true, lasting_eta, snd_ite, fst_ite, keep_emitBefore,
         keep_traceFit]
       done)
    | split
    | (dsimp +zetaHave only; split)
    | (simp +zetaDelta only [
         lasting_ite, ite_self, lasting_foldl, implies_true, lasting_eta, snd_ite, fst_ite, keep_emitBefore,
         keep_traceFit]
       done)
    | rfl

@[simp] theorem keep_emitSync (s : State) (c : Nat) (pc : Word) (machine : Bool) :
    (emitSync s c pc machine).lasting = s.lasting := by
  simp only [emitSync, lasting_ite, ite_self, lasting_foldl, implies_true, lasting_eta, snd_ite, fst_ite,
    keep_putSync, keep_traceResume, keep_flushBranches]

@[simp] theorem keep_emitStamp (s : State) (c : Nat) (pc : Word) (machine : Bool) :
    (emitStamp s c pc machine).lasting = s.lasting := by
  simp only [emitStamp, lasting_ite, ite_self, lasting_foldl, implies_true, lasting_eta, snd_ite, fst_ite,
    keep_State_setTr, keep_emit]

@[simp] theorem keep_traceTrigger (s : State) (c : Nat) (pc : Word) (machine : Bool) :
    (traceTrigger s c pc machine).lasting = s.lasting := by
  simp only [traceTrigger, lasting_ite, ite_self, lasting_foldl, implies_true, lasting_eta, snd_ite, fst_ite,
    keep_State_setReg, keep_State_setF, keep_raise, keep_State_setTr, keep_emit]

@[simp] theorem keep_endRun (s : State) (c : Nat) :
    (endRun s c).lasting = s.lasting := by
  unfold endRun
  repeat' first
    | done
    | (simp only [
         lasting_ite, ite_self, lasting_foldl, implies_true, lasting_eta, snd_ite, fst_ite, keep_State_setTr]
       done)
    | split
    | (dsimp +zetaHave only; split)
    | (simp +zetaDelta only [
         lasting_ite, ite_self, lasting_foldl, implies_true, lasting_eta, snd_ite, fst_ite, keep_State_setTr]
       done)
    | rfl

@[simp] theorem keep_traceStop (s : State) (c : Nat) (pc : Word) (machine : Bool) :
    (traceStop s c pc machine).lasting = s.lasting := by
  unfold traceStop
  repeat' first
    | done
    | (simp only [
         lasting_ite, ite_self, lasting_foldl, implies_true, lasting_eta, snd_ite, fst_ite, keep_State_setTr,
         keep_emitBefore, keep_endRun, keep_traceFit]
       done)
    | split
    | (dsimp +zetaHave only; split)
    | (simp +zetaDelta only [
         lasting_ite, ite_self, lasting_foldl, implies_true, lasting_eta, snd_ite, fst_ite, keep_State_setTr,
         keep_emitBefore, keep_endRun, keep_traceFit]
       done)
    | rfl

theorem lasts_traceDrain {o : Lasting} (s : State) (c : Nat) (h : Lasts o s.lasting) :
    Lasts o (traceDrain s c).lasting := by
  unfold traceDrain
  repeat' first
    | with_reducible exact h
    | with_reducible assumption
    | with_reducible apply lasts_ite'
    | with_reducible apply lasts_vnrWriteRun
    | (with_reducible apply lasts_foldl; intro _ _ _)
    | simp only [keep_State_setF, keep_State_setReg, keep_State_setTr, keep_capture, keep_raise, lasting_eta,
        snd_ite, fst_ite]
    | with_reducible refine lasts_snd_eq ‹_ = (_, _)› ?_
    | with_reducible refine lasts_snd2_eq ‹_ = (_, _, _)› ?_
    | split
    | dsimp only

@[simp] theorem keep_traceRun (s : State) (c : Nat) (pc : Word) (machine : Bool) :
    (traceRun s c pc machine).lasting = s.lasting := by
  unfold traceRun
  repeat' first
    | done
    | (simp only [
         lasting_ite, ite_self, lasting_foldl, implies_true, lasting_eta, snd_ite, fst_ite, keep_State_setF,
         keep_State_setReg, keep_State_setTr, keep_putStamp, keep_putSync, keep_raise]
       done)
    | split
    | (dsimp +zetaHave only; split)
    | (simp +zetaDelta only [
         lasting_ite, ite_self, lasting_foldl, implies_true, lasting_eta, snd_ite, fst_ite, keep_State_setF,
         keep_State_setReg, keep_State_setTr, keep_putStamp, keep_putSync, keep_raise]
       done)
    | rfl

@[simp] theorem keep_traceEnter (s : State) (c : Nat) (pc : Word) (machine : Bool) :
    (traceEnter s c pc machine).lasting = s.lasting := by
  unfold traceEnter
  repeat' first
    | done
    | (simp only [
         lasting_ite, ite_self, lasting_foldl, implies_true, lasting_eta, snd_ite, fst_ite, keep_State_setF,
         keep_emitSync]
       done)
    | split
    | (dsimp +zetaHave only; split)
    | (simp +zetaDelta only [
         lasting_ite, ite_self, lasting_foldl, implies_true, lasting_eta, snd_ite, fst_ite, keep_State_setF,
         keep_emitSync]
       done)
    | rfl

@[simp] theorem keep_traceFetch (s : State) (c : Nat) (pc : Word) (machine : Bool) :
    (traceFetch s c pc machine).lasting = s.lasting := by
  unfold traceFetch
  repeat' first
    | done
    | (simp only [
         lasting_ite, ite_self, lasting_foldl, implies_true, lasting_eta, snd_ite, fst_ite, keep_State_setF,
         keep_emit, keep_traceEnter, keep_traceTrigger]
       done)
    | split
    | (dsimp +zetaHave only; split)
    | (simp +zetaDelta only [
         lasting_ite, ite_self, lasting_foldl, implies_true, lasting_eta, snd_ite, fst_ite, keep_State_setF,
         keep_emit, keep_traceEnter, keep_traceTrigger]
       done)
    | rfl

@[simp] theorem keep_traceBranch (s : State) (c : Nat) (pc : Word) (machine taken : Bool) :
    (traceBranch s c pc machine taken).lasting = s.lasting := by
  unfold traceBranch
  repeat' first
    | done
    | (simp only [
         lasting_ite, ite_self, lasting_foldl, implies_true, lasting_eta, snd_ite, fst_ite, keep_State_setTr,
         keep_flushBranches, keep_putSync, keep_traceResume]
       done)
    | split
    | (dsimp +zetaHave only; split)
    | (simp +zetaDelta only [
         lasting_ite, ite_self, lasting_foldl, implies_true, lasting_eta, snd_ite, fst_ite, keep_State_setTr,
         keep_flushBranches, keep_putSync, keep_traceResume]
       done)
    | rfl

@[simp] theorem keep_traceIndirect (s : State) (c : Nat) (pc : Word) (machine : Bool) (target : Word) :
    (traceIndirect s c pc machine target).lasting = s.lasting := by
  unfold traceIndirect
  repeat' first
    | done
    | (simp only [
         lasting_ite, ite_self, lasting_foldl, implies_true, lasting_eta, snd_ite, fst_ite, keep_State_setTr,
         keep_emitBefore, keep_traceFit]
       done)
    | split
    | (dsimp +zetaHave only; split)
    | (simp +zetaDelta only [
         lasting_ite, ite_self, lasting_foldl, implies_true, lasting_eta, snd_ite, fst_ite, keep_State_setTr,
         keep_emitBefore, keep_traceFit]
       done)
    | rfl

@[simp] theorem keep_traceData (s : State) (c : Nat) (pc : Word) (machine store : Bool) (a n v : Nat) :
    (traceData s c pc machine store a n v).lasting = s.lasting := by
  simp only [traceData, lasting_ite, ite_self, lasting_foldl, implies_true, lasting_eta, snd_ite, fst_ite,
    keep_State_setTr, keep_emit]

@[simp] theorem keep_traceTrap (s : State) (c : Nat) (pc : Word) (machine : Bool) (cause : Nat) (handler : Word) :
    (traceTrap s c pc machine cause handler).lasting = s.lasting := by
  unfold traceTrap
  repeat' first
    | done
    | (simp only [
         lasting_ite, ite_self, lasting_foldl, implies_true, lasting_eta, snd_ite, fst_ite, keep_State_setF,
         keep_State_setTr, keep_emit, keep_emitSync, keep_traceEnter]
       done)
    | split
    | (dsimp +zetaHave only; split)
    | (simp +zetaDelta only [
         lasting_ite, ite_self, lasting_foldl, implies_true, lasting_eta, snd_ite, fst_ite, keep_State_setF,
         keep_State_setTr, keep_emit, keep_emitSync, keep_traceEnter]
       done)
    | rfl

@[simp] theorem keep_traceSleep (s : State) (c : Nat) (pc : Word) (machine : Bool) :
    (traceSleep s c pc machine).lasting = s.lasting := by
  unfold traceSleep
  repeat' first
    | done
    | (simp only [
         lasting_ite, ite_self, lasting_foldl, implies_true, lasting_eta, snd_ite, fst_ite, keep_State_setTr,
         keep_emit]
       done)
    | split
    | (dsimp +zetaHave only; split)
    | (simp +zetaDelta only [
         lasting_ite, ite_self, lasting_foldl, implies_true, lasting_eta, snd_ite, fst_ite, keep_State_setTr,
         keep_emit]
       done)
    | rfl

@[simp] theorem keep_traceWake (s : State) (c : Nat) (pc : Word) (machine : Bool) :
    (traceWake s c pc machine).lasting = s.lasting := by
  unfold traceWake
  repeat' first
    | done
    | (simp only [
         lasting_ite, ite_self, lasting_foldl, implies_true, lasting_eta, snd_ite, fst_ite, keep_State_setTr,
         keep_emitStamp, keep_emitSync]
       done)
    | split
    | (dsimp +zetaHave only; split)
    | (simp +zetaDelta only [
         lasting_ite, ite_self, lasting_foldl, implies_true, lasting_eta, snd_ite, fst_ite, keep_State_setTr,
         keep_emitStamp, keep_emitSync]
       done)
    | rfl

@[simp] theorem keep_traceLost (s : State) (c : Nat) :
    (traceLost s c).lasting = s.lasting := by
  simp only [traceLost, lasting_ite, ite_self, lasting_foldl, implies_true, lasting_eta, snd_ite, fst_ite,
    keep_State_setF, keep_raise, keep_State_setTr]

@[simp] theorem keep_traceSyncDue (s : State) (c : Nat) (pc : Word) (machine : Bool) :
    (traceSyncDue s c pc machine).lasting = s.lasting := by
  simp only [traceSyncDue, lasting_ite, ite_self, lasting_foldl, implies_true, lasting_eta, snd_ite, fst_ite,
    keep_emitSync]

@[simp] theorem keep_traceStampDue (s : State) (c : Nat) (pc : Word) (machine : Bool) :
    (traceStampDue s c pc machine).lasting = s.lasting := by
  simp only [traceStampDue, lasting_ite, ite_self, lasting_foldl, implies_true, lasting_eta, snd_ite, fst_ite,
    keep_emitStamp]

@[simp] theorem keep_traceStopDue (s : State) (c : Nat) :
    (traceStopDue s c).lasting = s.lasting := by
  unfold traceStopDue
  repeat' first
    | done
    | (simp only [
         lasting_ite, ite_self, lasting_foldl, implies_true, lasting_eta, snd_ite, fst_ite, keep_State_setF,
         keep_raise, keep_traceStop]
       done)
    | split
    | (dsimp +zetaHave only; split)
    | (simp +zetaDelta only [
         lasting_ite, ite_self, lasting_foldl, implies_true, lasting_eta, snd_ite, fst_ite, keep_State_setF,
         keep_raise, keep_traceStop]
       done)
    | rfl

end Sys2Proof.Machine
end

