-- ==== Sys2Proof/Laws/KeepTrigger.lean ====
section
/-! SUPPORT. Which functions of Machine/Trigger.lean keep the lasting part of the state, and that what lasts lasts through the others. -/
set_option linter.unusedSimpArgs false

namespace Sys2Proof.Machine

@[simp] theorem keep_blocksAfresh (s : State) :
    (blocksAfresh s).lasting = s.lasting := by
  simp only [blocksAfresh, lasting_ite, ite_self, lasting_foldl, implies_true, lasting_eta, snd_ite, fst_ite,
    lasting_withTrg]

@[simp] theorem keep_blockDie (s : State) (k t d : Nat) :
    (blockDie s k t d).2.lasting = s.lasting := by
  simp only [blockDie, lasting_ite, ite_self, lasting_foldl, implies_true, lasting_eta, snd_ite, fst_ite,
    lasting_withTrg, keep_State_setReg, keep_State_setReg64]
  repeat' (first | (simp only [lasting_ite, ite_self, lasting_foldl, implies_true, lasting_eta, snd_ite, fst_ite,
    lasting_withTrg, keep_State_setReg, keep_State_setReg64]; done) | split | rfl)

@[simp] theorem keep_average (s : State) (r : CycleRec) :
    (average s r).2.lasting = s.lasting := by
  simp [average]

@[simp] theorem keep_countAndTime (s : State) (ctl i : Nat) :
    (countAndTime s ctl i).lasting = s.lasting := by
  simp only [countAndTime, lasting_ite, ite_self, lasting_foldl, implies_true, lasting_eta, snd_ite, fst_ite,
    lasting_withTrg, keep_State_setReg, keep_State_setF, keep_State_bump]

@[simp] theorem keep_recordTrigger (s : State) (cycle : Nat) :
    (recordTrigger s cycle).lasting = s.lasting := by
  simp only [recordTrigger, lasting_ite, ite_self, lasting_foldl, implies_true, lasting_eta, snd_ite, fst_ite,
    keep_State_setF, keep_State_setReg64, keep_raise, keep_traceTrigger]

@[simp] theorem keep_seqSee (s : State) (r : CycleRec) :
    (seqSee s r).lasting = s.lasting := by
  simp only [seqSee, lasting_ite, ite_self, lasting_foldl, implies_true, lasting_eta, snd_ite, fst_ite,
    lasting_withTrg, keep_State_setF]

@[simp] theorem keep_seqStop (s : State) :
    (seqStop s).lasting = s.lasting := by
  simp only [seqStop, lasting_ite, ite_self, lasting_foldl, implies_true, lasting_eta, snd_ite, fst_ite,
    lasting_withCyc, keep_raise]

@[simp] theorem keep_seqAct (s : State) (cycle ctl : Nat) (auto trig stop taken : Bool) :
    (seqAct s cycle ctl auto trig stop taken).lasting = s.lasting := by
  simp only [seqAct, lasting_ite, ite_self, lasting_foldl, implies_true, lasting_eta, snd_ite, fst_ite,
    keep_State_setF, keep_raise, keep_countAndTime, keep_recordTrigger, keep_seqStop]

@[simp] theorem keep_sequence (s : State) (r : CycleRec) (act : List Bool) :
    (sequence s r act).2.lasting = s.lasting := by
  simp only [sequence, lasting_ite, ite_self, lasting_foldl, implies_true, lasting_eta, snd_ite, fst_ite,
    keep_seqSee, keep_seqAct]

@[simp] theorem keep_trgArm (s : State) :
    (trgArm s).lasting = s.lasting := by
  simp only [trgArm, lasting_ite, ite_self, lasting_foldl, implies_true, lasting_eta, snd_ite, fst_ite,
    lasting_withTrg, keep_State_setReg, keep_State_setF]

@[simp] theorem keep_State_setMeas (s : State) (k : Nat) (m : Meas) :
    (State.setMeas s k m).lasting = s.lasting := by
  simp only [State.setMeas, lasting_ite, ite_self, lasting_foldl, implies_true, lasting_eta, snd_ite, fst_ite,
    lasting_withMeas]

@[simp] theorem keep_measResult (s : State) (k last time n at_ : Nat) (mn mx : Option Nat) :
    (measResult s k last time n at_ mn mx).lasting = s.lasting := by
  unfold measResult
  repeat' (first | (simp only [lasting_ite, ite_self, lasting_foldl, implies_true, lasting_eta, snd_ite, fst_ite,
    keep_State_setF, keep_State_setReg64, keep_raise]; done) | split | rfl)

@[simp] theorem keep_measure (s : State) (r : CycleRec) (k : Nat) :
    (measure s r k).lasting = s.lasting := by
  simp only [measure, lasting_ite, ite_self, lasting_foldl, implies_true, lasting_eta, snd_ite, fst_ite,
    keep_State_setMeas, keep_measResult]
  repeat' (first | (simp only [lasting_ite, ite_self, lasting_foldl, implies_true, lasting_eta, snd_ite, fst_ite,
    keep_State_setMeas, keep_measResult]; done) | split | rfl)

@[simp] theorem keep_measArm (s : State) (k : Nat) :
    (measArm s k).lasting = s.lasting := by
  simp only [measArm, lasting_ite, ite_self, lasting_foldl, implies_true, lasting_eta, snd_ite, fst_ite,
    keep_State_setF, keep_State_setReg64, keep_raise, keep_State_setMeas]

@[simp] theorem keep_capArm (s : State) :
    (capArm s).lasting = s.lasting := by
  unfold capArm
  repeat' first
    | done
    | (simp only [
         lasting_ite, ite_self, lasting_foldl, implies_true, lasting_eta, snd_ite, fst_ite, keep_State_setF,
         keep_State_setReg, keep_capture, keep_raise, lasting_withCap]
       done)
    | split
    | (dsimp +zetaHave only; split)
    | (simp +zetaDelta only [
         lasting_ite, ite_self, lasting_foldl, implies_true, lasting_eta, snd_ite, fst_ite, keep_State_setF,
         keep_State_setReg, keep_capture, keep_raise, lasting_withCap]
       done)
    | rfl

@[simp] theorem keep_captureDone (s : State) (cycle : Nat) :
    (captureDone s cycle).lasting = s.lasting := by
  simp only [captureDone, lasting_ite, ite_self, lasting_foldl, implies_true, lasting_eta, snd_ite, fst_ite,
    keep_State_setF, keep_raise]

@[simp] theorem keep_captureSlot (s : State) (r : CycleRec) (a : SeqActs) :
    (captureSlot s r a).lasting = s.lasting := by
  unfold captureSlot
  repeat' first
    | done
    | (simp only [
         lasting_ite, ite_self, lasting_foldl, implies_true, lasting_eta, snd_ite, fst_ite, keep_State_bump,
         keep_State_mark, keep_State_setF, keep_State_setReg, keep_raise, lasting_withCap]
       done)
    | split
    | (dsimp +zetaHave only; split)
    | (simp +zetaDelta only [
         lasting_ite, ite_self, lasting_foldl, implies_true, lasting_eta, snd_ite, fst_ite, keep_State_bump,
         keep_State_mark, keep_State_setF, keep_State_setReg, keep_raise, lasting_withCap]
       done)
    | rfl

@[simp] theorem keep_captureGate (s : State) (a : SeqActs) :
    (captureGate s a).lasting = s.lasting := by
  unfold captureGate
  repeat' first
    | done
    | (simp only [
         lasting_ite, ite_self, lasting_foldl, implies_true, lasting_eta, snd_ite, fst_ite, keep_State_setF]
       done)
    | split
    | (dsimp +zetaHave only; split)
    | (simp +zetaDelta only [
         lasting_ite, ite_self, lasting_foldl, implies_true, lasting_eta, snd_ite, fst_ite, keep_State_setF]
       done)
    | rfl

@[simp] theorem keep_captureRec (s : State) (r : CycleRec) (a : SeqActs) :
    (captureRec s r a).lasting = s.lasting := by
  unfold captureRec
  repeat' first
    | done
    | (simp only [
         lasting_ite, ite_self, lasting_foldl, implies_true, lasting_eta, snd_ite, fst_ite, keep_State_setF,
         keep_State_setReg, keep_captureDone, keep_captureGate, keep_captureSlot, lasting_withCap]
       done)
    | split
    | (dsimp +zetaHave only; split)
    | (simp +zetaDelta only [
         lasting_ite, ite_self, lasting_foldl, implies_true, lasting_eta, snd_ite, fst_ite, keep_State_setF,
         keep_State_setReg, keep_captureDone, keep_captureGate, keep_captureSlot, lasting_withCap]
       done)
    | rfl

theorem lasts_captureWrite {o : Lasting} (s : State) (h : Lasts o s.lasting) :
    Lasts o (captureWrite s).lasting := by
  unfold captureWrite
  repeat' first
    | with_reducible exact h
    | with_reducible assumption
    | with_reducible apply lasts_ite'
    | with_reducible apply lasts_vnrWriteRun
    | (with_reducible apply lasts_foldl; intro _ _ _)
    | simp only [keep_State_setF, keep_capture, keep_raise, lasting_withCap, lasting_eta, snd_ite, fst_ite]
    | with_reducible refine lasts_snd_eq ‹_ = (_, _)› ?_
    | with_reducible refine lasts_snd2_eq ‹_ = (_, _, _)› ?_
    | split
    | dsimp only

@[simp] theorem keep_passRecord (s : State) (cycle : Nat) (replayed : Bool) :
    (passRecord s cycle replayed).lasting = s.lasting := by
  unfold passRecord
  repeat' first
    | done
    | (simp only [
         lasting_ite, ite_self, lasting_foldl, implies_true, lasting_eta, snd_ite, fst_ite, keep_average,
         keep_captureRec, keep_measure, keep_raiseAll, keep_sequence, lasting_withTrg]
       done)
    | split
    | (dsimp +zetaHave only; split)
    | (simp +zetaDelta only [
         lasting_ite, ite_self, lasting_foldl, implies_true, lasting_eta, snd_ite, fst_ite, keep_average,
         keep_captureRec, keep_measure, keep_raiseAll, keep_sequence, lasting_withTrg]
       done)
    | rfl

@[simp] theorem keep_cycleRecord (s : State) : (cycleRecord s).lasting = s.lasting := by
  unfold cycleRecord
  split
  · rfl
  · split
    · exact (keep_passRecord ..).trans (keep_moveStep ..)
    · rfl

@[simp] theorem keep_snapStart (s : State) :
    (snapStart s).lasting = s.lasting := by
  simp only [snapStart, lasting_ite, ite_self, lasting_foldl, implies_true, lasting_eta, snd_ite, fst_ite,
    lasting_withCap, keep_State_setF, keep_raise]

theorem lasts_copyAll {o : Lasting} (s : State) (ops : List (State → Nat × State))
    (hf : ∀ f ∈ ops, ∀ t, Lasts o t.lasting → Lasts o (f t).2.lasting) (h : Lasts o s.lasting) :
    Lasts o (copyAll s ops).2.lasting := by
  unfold copyAll
  suffices hs : ∀ a : Nat × State, Lasts o a.2.lasting → Lasts o (ops.foldl (fun (acc : Nat × State) f =>
      if acc.1 = 0 then f acc.2 else acc) a).2.lasting from hs _ h
  intro a ha
  induction ops generalizing a with
  | nil => exact ha
  | cons f r ih =>
    rw [List.foldl_cons]
    refine ih (fun g hg => hf g (List.mem_cons_of_mem _ hg)) _ ?_
    split
    · exact hf f List.mem_cons_self _ ha
    · exact ha

theorem lasts_copyLine {o : Lasting} (s : State) (src dst : Nat) (h : Lasts o s.lasting) :
    Lasts o (copyLine s src dst).2.lasting := by
  unfold copyLine
  repeat' first
    | with_reducible exact h
    | with_reducible assumption
    | with_reducible apply lasts_ite'
    | with_reducible apply lasts_netRead
    | with_reducible apply lasts_netWrite
    | (with_reducible apply lasts_foldl; intro _ _ _)
    | simp only [keep_capture, lasting_eta, snd_ite, fst_ite]
    | with_reducible refine lasts_snd_eq ‹_ = (_, _)› ?_
    | with_reducible refine lasts_snd2_eq ‹_ = (_, _, _)› ?_
    | split
    | dsimp only

theorem lasts_copyRun {o : Lasting} (s : State) (src dst n : Nat) (h : Lasts o s.lasting) :
    Lasts o (copyRun s src dst n).2.lasting := by
  refine lasts_copyAll _ _ (fun f hf t ht => ?_) h
  obtain ⟨j, -, rfl⟩ := List.mem_map.1 hf
  exact lasts_copyLine _ _ _ ht

@[simp] theorem keep_snapDone (s : State) (cls : Nat) :
    (snapDone s cls).lasting = s.lasting := by
  unfold snapDone
  repeat' first
    | done
    | (simp only [
         lasting_ite, ite_self, lasting_foldl, implies_true, lasting_eta, snd_ite, fst_ite, keep_State_setF,
         keep_State_setReg, keep_raise]
       done)
    | split
    | (dsimp +zetaHave only; split)
    | (simp +zetaDelta only [
         lasting_ite, ite_self, lasting_foldl, implies_true, lasting_eta, snd_ite, fst_ite, keep_State_setF,
         keep_State_setReg, keep_raise]
       done)
    | rfl

theorem lasts_snapOps {o : Lasting} (s : State) :
    ∀ f ∈ s.snapOps, ∀ t, Lasts o t.lasting → Lasts o (f t).2.lasting := by
  intro f hf t ht
  simp only [State.snapOps, List.mem_append, List.mem_map, List.mem_singleton] at hf
  obtain ((rfl | ⟨e, -, rfl⟩) | ⟨e, -, rfl⟩) | ⟨e, -, rfl⟩ := hf
  · exact lasts_vnrWriteRun _ _ _ _ ht
  · exact lasts_vnrWriteRun _ _ _ _ ht
  · exact lasts_vnrWriteRun _ _ _ _ ht
  · exact lasts_copyRun _ _ _ _ ht

theorem lasts_snapEnd {o : Lasting} (s : State) (h : Lasts o s.lasting) : Lasts o (snapEnd s).lasting := by
  unfold snapEnd
  refine lasts_ite' h ?_
  simpa only [keep_snapDone] using lasts_copyAll s _ (lasts_snapOps s) h

@[simp] theorem keep_restoreStart (s : State) :
    (restoreStart s).lasting = s.lasting := by
  simp only [restoreStart, lasting_ite, ite_self, lasting_foldl, implies_true, lasting_eta, snd_ite, fst_ite,
    lasting_withCap, keep_State_setF, keep_raise]

@[simp] theorem keep_restoreFails (s : State) (cls : Nat) :
    (restoreFails s cls).lasting = s.lasting := by
  unfold restoreFails
  repeat' first
    | done
    | (simp only [
         lasting_ite, ite_self, lasting_foldl, implies_true, lasting_eta, snd_ite, fst_ite, keep_State_setF,
         keep_raise]
       done)
    | split
    | (dsimp +zetaHave only; split)
    | (simp +zetaDelta only [
         lasting_ite, ite_self, lasting_foldl, implies_true, lasting_eta, snd_ite, fst_ite, keep_State_setF,
         keep_raise]
       done)
    | rfl

theorem lasts_passOps {o : Lasting} (s : State) (n : Nat) :
    ∀ f ∈ s.passOps n, ∀ t, Lasts o t.lasting → Lasts o (f t).2.lasting := by
  intro f hf t ht
  simp only [State.passOps, List.mem_map] at hf
  obtain ⟨j, -, rfl⟩ := hf
  exact lasts_netRead _ _ _ _ _ ht

theorem lasts_restorePassEnd {o : Lasting} (s : State) (h : Lasts o s.lasting) : Lasts o (restorePassEnd s).lasting := by
  unfold restorePassEnd
  refine lasts_ite' h ?_
  have h1 := lasts_vnrReadRun s .capture s.cap.base 256 h
  generalize vnrReadRun s .capture s.cap.base 256 = x at h1 ⊢
  obtain ⟨c, bs, t⟩ := x
  dsimp only at h1 ⊢
  refine lasts_ite' (by simpa only [keep_restoreFails] using h1) (lasts_ite' (by simpa only [keep_restoreFails] using h1) ?_)
  have h2 := lasts_copyAll t (t.passOps (snapLen t.panelSum (headerExts bs))) (lasts_passOps t _) h1
  generalize copyAll t (t.passOps (snapLen t.panelSum (headerExts bs))) = y at h2 ⊢
  obtain ⟨d, u⟩ := y
  exact lasts_ite' (by simpa only [keep_restoreFails] using h2) h2

theorem lasts_restoreVs {o : Lasting} (s : State) (die ph a : Nat) (h : Lasts o s.lasting) :
    Lasts o (restoreVs s die ph a).2.lasting := by
  unfold restoreVs
  repeat' first
    | with_reducible exact h
    | with_reducible assumption
    | with_reducible apply lasts_ite'
    | with_reducible apply lasts_vnrReadRun
    | (with_reducible apply lasts_foldl; intro _ _ _)
    | simp only [keep_State_setPanel, keep_capture, lasting_eta, snd_ite, fst_ite]
    | with_reducible refine lasts_snd_eq ‹_ = (_, _)› ?_
    | with_reducible refine lasts_snd2_eq ‹_ = (_, _, _)› ?_
    | split
    | dsimp only

theorem lasts_restorePr {o : Lasting} (s : State) (die ph a : Nat) (h : Lasts o s.lasting) :
    Lasts o (restorePr s die ph a).2.lasting := by
  unfold restorePr
  repeat' first
    | with_reducible exact h
    | with_reducible assumption
    | with_reducible apply lasts_ite'
    | with_reducible apply lasts_vnrReadRun
    | (with_reducible apply lasts_foldl; intro _ _ _)
    | simp only [keep_State_setPanel, keep_capture, lasting_eta, snd_ite, fst_ite]
    | with_reducible refine lasts_snd_eq ‹_ = (_, _)› ?_
    | with_reducible refine lasts_snd2_eq ‹_ = (_, _, _)› ?_
    | split
    | dsimp only

@[simp] theorem keep_restoreDone (s : State) (cls : Nat) :
    (restoreDone s cls).lasting = s.lasting := by
  simp only [restoreDone, lasting_ite, ite_self, lasting_foldl, implies_true, lasting_eta, snd_ite, fst_ite,
    lasting_withCap, keep_State_setF, keep_raise, keep_restoreFails]

theorem lasts_restoreOps {o : Lasting} (s : State) :
    ∀ f ∈ s.restoreOps, ∀ t, Lasts o t.lasting → Lasts o (f t).2.lasting := by
  intro f hf t ht
  simp only [State.restoreOps, List.mem_append, List.mem_map] at hf
  obtain (⟨e, -, rfl⟩ | ⟨e, -, rfl⟩) | ⟨e, -, rfl⟩ := hf
  · exact lasts_restoreVs _ _ _ _ ht
  · exact lasts_restorePr _ _ _ _ ht
  · exact lasts_copyRun _ _ _ _ ht

theorem lasts_restoreEnd {o : Lasting} (s : State) (h : Lasts o s.lasting) : Lasts o (restoreEnd s).lasting := by
  unfold restoreEnd
  refine lasts_ite' h ?_
  simpa only [keep_restoreDone] using lasts_copyAll s _ (lasts_restoreOps s) h

end Sys2Proof.Machine
end

