-- ==== Sys2Proof/Laws/KeepRiscv.lean ====
section
/-! SUPPORT. Which functions of Machine/Riscv.lean keep the lasting part of the state, and that what lasts lasts through the others. -/
set_option linter.unusedSimpArgs false

namespace Sys2Proof.Machine

@[simp] theorem keep_State_onCore (s : State) (c : Nat) (f : Core → Core) :
    (State.onCore s c f).lasting = s.lasting := by
  simp only [State.onCore, lasting_ite, ite_self, lasting_foldl, implies_true, lasting_eta, snd_ite, fst_ite,
    keep_State_setCore]

@[simp] theorem keep_takeTrap (s : State) (c cause : Nat) (irq : Bool) (tval : Word) :
    (takeTrap s c cause irq tval).lasting = s.lasting := by
  unfold takeTrap
  repeat' first
    | done
    | (simp only [
         lasting_ite, ite_self, lasting_foldl, implies_true, lasting_eta, snd_ite, fst_ite, keep_State_onCore,
         keep_traceTrap]
       done)
    | split
    | (dsimp +zetaHave only; split)
    | (simp +zetaDelta only [
         lasting_ite, ite_self, lasting_foldl, implies_true, lasting_eta, snd_ite, fst_ite, keep_State_onCore,
         keep_traceTrap]
       done)
    | rfl

@[simp] theorem keep_exception (s : State) (c cause : Nat) (tval : Word) :
    (exception s c cause tval).lasting = s.lasting := by
  simp only [exception, lasting_ite, ite_self, lasting_foldl, implies_true, lasting_eta, snd_ite, fst_ite,
    keep_takeTrap]

@[simp] theorem keep_illegal (s : State) (c w : Nat) :
    (illegal s c w).lasting = s.lasting := by
  simp only [illegal, lasting_ite, ite_self, lasting_foldl, implies_true, lasting_eta, snd_ite, fst_ite,
    keep_exception]

@[simp] theorem keep_clearResv (s : State) (ok : Nat → Nat → Bool) :
    (clearResv s ok).lasting = s.lasting := by
  unfold clearResv
  repeat' (first | (simp [*]; done) | split | (refine (lasting_foldl _ _ _ ?_).trans ?_ <;> intros))

@[simp] theorem keep_writeSram (s : State) (c off n v : Nat) :
    (writeSram s c off n v).lasting = s.lasting := by
  simp only [writeSram, lasting_ite, ite_self, lasting_foldl, implies_true, lasting_eta, snd_ite, fst_ite,
    keep_State_onCore, keep_clearResv]

theorem lasts_writeShared {o : Lasting} (s : State) (off n v : Nat) (h : Lasts o s.lasting) :
    Lasts o (writeShared s off n v).lasting := by
  have h1 : Lasts o (clearResv s (fun _ a => a / 4 == (0x10000000 + off) / 4)).lasting := by simpa only [keep_clearResv] using h
  unfold writeShared
  generalize s.sharedWord off = x
  obtain ⟨w, e⟩ := x
  dsimp only
  generalize clearResv s _ = t at h1 ⊢
  with_reducible refine lasts_ite' h1 ?_
  rw [lasting_withSharedErr]
  exact lasts_withShared _ _ h1 (fun e => Tab.wf_set e _ _)

@[simp] theorem keep_busEvent (s : State) (c b status cls : Nat) :
    (busEvent s c b status cls).lasting = s.lasting := by
  simp only [busEvent, lasting_ite, ite_self, lasting_foldl, implies_true, lasting_eta, snd_ite, fst_ite, keep_raise]

@[simp] theorem keep_sramEvent (s : State) (c : Nat) (e : EccClass) :
    (sramEvent s c e).lasting = s.lasting := by
  unfold sramEvent
  repeat' (first | (simp only [lasting_ite, ite_self, lasting_foldl, implies_true, lasting_eta, snd_ite, fst_ite,
    keep_busEvent]; done) | split | rfl)

@[simp] theorem keep_accessFails (s : State) (c cause status cls a : Nat) :
    (accessFails s c cause status cls a).lasting = s.lasting := by
  simp only [accessFails, lasting_ite, ite_self, lasting_foldl, implies_true, lasting_eta, snd_ite, fst_ite,
    keep_exception, keep_busEvent]

@[simp] theorem keep_loadDone (s : State) (c rd n : Nat) (signed : Bool) (a len v : Nat) :
    (loadDone s c rd n signed a len v).lasting = s.lasting := by
  simp only [loadDone, lasting_ite, ite_self, lasting_foldl, implies_true, lasting_eta, snd_ite, fst_ite,
    keep_traceData, keep_State_onCore]

@[simp] theorem keep_coreWaits (c : Nat) (w : CoreWait) (s : State) :
    (coreWaits c w s).lasting = s.lasting := by
  simp only [coreWaits, lasting_ite, ite_self, lasting_foldl, implies_true, lasting_eta, snd_ite, fst_ite,
    keep_State_onCore]

theorem keep_coreSend (s : State) (c op dst addr bytes : Nat) (data : List Nat) (amo cause a : Nat) (k : State → State)
    (hk : ∀ t, (k t).lasting = t.lasting) :
    (coreSend s c op dst addr bytes data amo cause a k).lasting = s.lasting := by
  unfold coreSend sendReq
  split
  · rfl
  · rename_i h
    split at h
    · split at h
      · injection h with h; subst h; simp only [keep_accessFails, keep_noRoute]
      · cases h
    · cases h
  · rename_i h
    split at h
    · split at h
      · cases h
      · injection h with h; subst h; simp only [hk, keep_countFlits, lasting_withNet]
    · cases h


@[simp] theorem keep_coreLoad (s : State) (c rd n : Nat) (signed : Bool) (a len : Nat) :
    (coreLoad s c rd n signed a len).lasting = s.lasting := by
  unfold coreLoad
  repeat' first
    | done
    | (simp only [
         lasting_ite, ite_self, lasting_foldl, implies_true, lasting_eta, snd_ite, fst_ite, keep_coreSend,
         keep_coreWaits, keep_exception, keep_loadDone, keep_sramEvent]
       done)
    | split
    | (dsimp +zetaHave only; split)
    | (simp +zetaDelta only [
         lasting_ite, ite_self, lasting_foldl, implies_true, lasting_eta, snd_ite, fst_ite, keep_coreSend,
         keep_coreWaits, keep_exception, keep_loadDone, keep_sramEvent]
       done)
    | rfl

@[simp] theorem keep_storeDone (k : Core) (c n a len v : Nat) (s : State) :
    (storeDone k c n a len v s).lasting = s.lasting := by
  simp only [storeDone, lasting_ite, ite_self, lasting_foldl, implies_true, lasting_eta, snd_ite, fst_ite,
    keep_traceData, keep_State_onCore]

@[simp] theorem keep_coreStore (s : State) (c n a len v : Nat) : (coreStore s c n a len v).lasting = s.lasting := by
  unfold coreStore
  extract_lets
  repeat' (first
    | exact keep_coreSend _ _ _ _ _ _ _ _ _ _ _ (fun t => keep_storeDone ..)
    | (simp only [lasting_ite, keep_exception, keep_storeDone, keep_writeSram, keep_sramEvent, ite_self]; done)
    | split)


@[simp] theorem keep_amoDone (s : State) (c rd op a len : Nat) (v res : Word) :
    (amoDone s c rd op a len v res).lasting = s.lasting := by
  simp only [amoDone, lasting_ite, ite_self, lasting_foldl, implies_true, lasting_eta, snd_ite, fst_ite,
    keep_traceData, keep_State_onCore]

@[simp] theorem keep_setResv (s : State) (c op a : Nat) :
    (setResv s c op a).lasting = s.lasting := by
  simp only [setResv, lasting_ite, ite_self, lasting_foldl, implies_true, lasting_eta, snd_ite, fst_ite,
    keep_State_onCore]

@[simp] theorem keep_coreAmo (s : State) (c rd op a len : Nat) (v : Word) :
    (coreAmo s c rd op a len v).lasting = s.lasting := by
  unfold coreAmo
  extract_lets
  repeat' (first
    | exact keep_coreSend _ _ _ _ _ _ _ _ _ _ _ (fun t => keep_coreWaits ..)
    | (simp only [lasting_ite, keep_exception, keep_amoDone, keep_setResv, keep_writeSram, keep_sramEvent, ite_self]; done)
    | (simp +zetaDelta only [lasting_ite, keep_exception, keep_amoDone, keep_setResv, keep_writeSram, keep_sramEvent,
        ite_self]; done)
    | split)


@[simp] theorem keep_execCsr (s : State) (c w len rd f3 rs1 n : Nat) :
    (execCsr s c w len rd f3 rs1 n).lasting = s.lasting := by
  simp only [execCsr, lasting_ite, ite_self, lasting_foldl, implies_true, lasting_eta, snd_ite, fst_ite,
    keep_State_onCore, keep_illegal]
  repeat' (first | (simp only [lasting_ite, ite_self, lasting_foldl, implies_true, lasting_eta, snd_ite, fst_ite,
    keep_State_onCore, keep_illegal]; done) | split | rfl)

@[simp] theorem keep_coreWfi (s : State) (c w len : Nat) :
    (coreWfi s c w len).lasting = s.lasting := by
  simp only [coreWfi, lasting_ite, ite_self, lasting_foldl, implies_true, lasting_eta, snd_ite, fst_ite,
    keep_traceSleep, keep_State_setCcSts, keep_State_onCore, keep_illegal]

@[simp] theorem keep_coreMret (s : State) (c : Nat) :
    (coreMret s c).lasting = s.lasting := by
  unfold coreMret
  repeat' first
    | done
    | (simp only [
         lasting_ite, ite_self, lasting_foldl, implies_true, lasting_eta, snd_ite, fst_ite, keep_State_onCore,
         keep_traceEnter, keep_traceIndirect]
       done)
    | split
    | (dsimp +zetaHave only; split)
    | (simp +zetaDelta only [
         lasting_ite, ite_self, lasting_foldl, implies_true, lasting_eta, snd_ite, fst_ite, keep_State_onCore,
         keep_traceEnter, keep_traceIndirect]
       done)
    | rfl

@[simp] theorem keep_execSystem (s : State) (c w raw len : Nat) :
    (execSystem s c w raw len).lasting = s.lasting := by
  unfold execSystem
  repeat' first
    | done
    | (simp only [
         lasting_ite, ite_self, lasting_foldl, implies_true, lasting_eta, snd_ite, fst_ite, keep_coreMret,
         keep_coreWfi, keep_exception, keep_illegal]
       done)
    | split
    | (dsimp +zetaHave only; split)
    | (simp +zetaDelta only [
         lasting_ite, ite_self, lasting_foldl, implies_true, lasting_eta, snd_ite, fst_ite, keep_coreMret,
         keep_coreWfi, keep_exception, keep_illegal]
       done)
    | rfl

@[simp] theorem keep_coreResult (s : State) (c rd : Nat) (pc v : Word) :
    (coreResult s c rd pc v).lasting = s.lasting := by
  simp only [coreResult, lasting_ite, ite_self, lasting_foldl, implies_true, lasting_eta, snd_ite, fst_ite,
    keep_State_onCore]

@[simp] theorem keep_loadOp (s : State) (c f3 rd a len raw : Nat) :
    (loadOp s c f3 rd a len raw).lasting = s.lasting := by
  unfold loadOp
  repeat' (first | (simp only [lasting_ite, ite_self, lasting_foldl, implies_true, lasting_eta, snd_ite, fst_ite,
    keep_illegal, keep_coreLoad]; done) | split | rfl)

@[simp] theorem keep_execWord (s : State) (c w raw len : Nat) : (execWord s c w raw len).lasting = s.lasting := by
  unfold execWord
  extract_lets
  repeat' (first
    | (simp +zetaDelta only [lasting_ite, keep_coreResult, keep_State_onCore, keep_illegal, keep_traceIndirect,
        keep_traceBranch, keep_loadOp, keep_coreStore, keep_coreAmo, keep_execSystem, keep_execCsr, ite_self]; done)
    | split
    | extract_lets)


theorem keep_fetchOver (s t : State) (c a : Nat) (p : Place) (h : fetchOver s c a p = .inr t) : t.lasting = s.lasting := by
  unfold fetchOver at h
  split at h
  · cases h
  · injection h with h
    subst h
    exact keep_coreSend _ _ _ _ _ _ _ _ _ _ _ (fun _ => keep_coreWaits ..)

theorem keep_fetchHalf (s t : State) (c a : Nat) (h : fetchHalf s c a = .inr t) : t.lasting = s.lasting := by
  unfold fetchHalf at h
  extract_lets at h
  repeat' (first
    | exact keep_fetchOver _ _ _ _ _ h
    | (injection h with h; subst h; simp +zetaDelta only [keep_exception, keep_sramEvent]; done)
    | cases h
    | split at h)

@[simp] theorem keep_fetchEvents (s : State) (c a len : Nat) : (fetchEvents s c a len).lasting = s.lasting := by
  unfold fetchEvents
  refine lasting_foldl _ _ _ fun t a => ?_
  split
  · exact keep_sramEvent ..
  · rfl

theorem keep_fetch (s t : State) (c : Nat) (h : fetch s c = .inr t) : t.lasting = s.lasting := by
  unfold fetch at h
  extract_lets at h
  split at h
  · rename_i hf; injection h with h; subst h; exact keep_fetchHalf _ _ _ _ hf
  · split at h
    · cases h
    · split at h
      · rename_i hf; injection h with h; subst h; exact (keep_fetchHalf _ _ _ _ hf).trans (keep_fetchEvents ..)
      · cases h


@[simp] theorem keep_fetchedUsed (s : State) (c : Nat) :
    (fetchedUsed s c).lasting = s.lasting := by
  unfold fetchedUsed
  repeat' first
    | done
    | (simp only [
         lasting_ite, ite_self, lasting_foldl, implies_true, lasting_eta, snd_ite, fst_ite, keep_State_onCore]
       done)
    | split
    | (dsimp +zetaHave only; split)
    | (simp +zetaDelta only [
         lasting_ite, ite_self, lasting_foldl, implies_true, lasting_eta, snd_ite, fst_ite, keep_State_onCore]
       done)
    | rfl

@[simp] theorem keep_runFetched (s : State) (c : Nat) (w : Option Nat) (raw len : Nat) :
    (runFetched s c w raw len).lasting = s.lasting := by
  unfold runFetched
  repeat' (first | (simp only [lasting_ite, ite_self, lasting_foldl, implies_true, lasting_eta, snd_ite, fst_ite,
    keep_illegal, keep_execWord]; done) | split | rfl)

@[simp] theorem keep_fetchAndRun (s : State) (c : Nat) : (fetchAndRun s c).lasting = s.lasting := by
  unfold fetchAndRun
  split
  · rename_i h; exact keep_fetch _ _ _ h
  · simp only [keep_runFetched, keep_fetchEvents, keep_traceFetch, keep_fetchedUsed]

@[simp] theorem keep_coreInstruction (s : State) (c : Nat) :
    (coreInstruction s c).lasting = s.lasting := by
  unfold coreInstruction
  repeat' first
    | done
    | (simp only [
         lasting_ite, ite_self, lasting_foldl, implies_true, lasting_eta, snd_ite, fst_ite, keep_State_onCore,
         keep_exception, keep_fetchAndRun, keep_takeTrap]
       done)
    | split
    | (dsimp +zetaHave only; split)
    | (simp +zetaDelta only [
         lasting_ite, ite_self, lasting_foldl, implies_true, lasting_eta, snd_ite, fst_ite, keep_State_onCore,
         keep_exception, keep_fetchAndRun, keep_takeTrap]
       done)
    | rfl

@[simp] theorem keep_wfi (s : State) (c : Nat) : (wfi s c).lasting = s.lasting := by
  unfold wfi
  split
  · split
    · exact keep_coreInstruction ..
    · rfl
  · rfl


@[simp] theorem keep_coreWake (s : State) (c : Nat) :
    (coreWake s c).lasting = s.lasting := by
  unfold coreWake
  repeat' first
    | done
    | (simp only [
         lasting_ite, ite_self, lasting_foldl, implies_true, lasting_eta, snd_ite, fst_ite,
         keep_State_setCcSts, keep_traceWake]
       done)
    | split
    | (dsimp +zetaHave only; split)
    | (simp +zetaDelta only [
         lasting_ite, ite_self, lasting_foldl, implies_true, lasting_eta, snd_ite, fst_ite,
         keep_State_setCcSts, keep_traceWake]
       done)
    | rfl

@[simp] theorem keep_coreInterrupt (s : State) (c n : Nat) :
    (coreInterrupt s c n).lasting = s.lasting := by
  simp only [coreInterrupt, lasting_ite, ite_self, lasting_foldl, implies_true, lasting_eta, snd_ite, fst_ite,
    keep_takeTrap, keep_coreWake]

@[simp] theorem keep_orphan (s : State) (c : Nat) :
    (orphan s c).lasting = s.lasting := by
  simp only [orphan, lasting_ite, ite_self, lasting_foldl, implies_true, lasting_eta, snd_ite, fst_ite,
    lasting_withNet]

@[simp] theorem keep_coreStart (s : State) (c : Nat) :
    (coreStart s c).lasting = s.lasting := by
  unfold coreStart
  repeat' first
    | done
    | (simp only [
         lasting_ite, ite_self, lasting_foldl, implies_true, lasting_eta, snd_ite, fst_ite,
         keep_State_setCcSts, keep_State_setCore, keep_State_setTr, keep_orphan]
       done)
    | split
    | (dsimp +zetaHave only; split)
    | (simp +zetaDelta only [
         lasting_ite, ite_self, lasting_foldl, implies_true, lasting_eta, snd_ite, fst_ite,
         keep_State_setCcSts, keep_State_setCore, keep_State_setTr, keep_orphan]
       done)
    | rfl

theorem keep_traceAt (s : State) (c : Nat) (f : State → Nat → Word → Bool → State)
    (h : ∀ t c w b, (f t c w b).lasting = t.lasting) : (traceAt s c f).lasting = s.lasting := by
  unfold traceAt; split
  · exact h _ _ _ _
  · rfl


end Sys2Proof.Machine
end

