-- ==== Sys2Proof/Laws/KeepWork.lean ====
section
/-! SUPPORT. Which functions of Machine/Work.lean keep the lasting part of the state, and that what lasts lasts through the others. -/
set_option linter.unusedSimpArgs false

namespace Sys2Proof.Machine

@[simp] theorem keep_State_setWdList (s : State) (l : Nat) (x : List (WorkItem × Nat)) :
    (State.setWdList s l x).lasting = s.lasting := by
  simp only [State.setWdList, lasting_ite, ite_self, lasting_foldl, implies_true, lasting_eta, snd_ite, fst_ite,
    lasting_withWd, keep_State_setReg]

@[simp] theorem keep_State_setWdDelay (s : State) (k : Nat) (x : List (Nat × WorkItem)) :
    (State.setWdDelay s k x).lasting = s.lasting := by
  unfold State.setWdDelay
  repeat' first
    | done
    | (simp only [
         lasting_ite, ite_self, lasting_foldl, implies_true, lasting_eta, snd_ite, fst_ite, keep_State_setF,
         keep_State_setReg, lasting_withWd]
       done)
    | split
    | (dsimp +zetaHave only; split)
    | (simp +zetaDelta only [
         lasting_ite, ite_self, lasting_foldl, implies_true, lasting_eta, snd_ite, fst_ite, keep_State_setF,
         keep_State_setReg, lasting_withWd]
       done)
    | rfl

theorem lasts_putRecord {o : Lasting} (s : State) (bs : List Nat) (h : Lasts o s.lasting) :
    Lasts o (putRecord s bs).lasting := by
  unfold putRecord
  extract_lets _ _ _
  rw [keep_State_setReg]
  exact lasts_tripWrite _ _ _ _ _ _ _ h
    (fun _ ht => lasts_foldl _ _ _ (fun _ _ hu => lasts_writeShared _ _ _ _ hu) ht)

theorem lasts_putRecords {o : Lasting} (fuel : Nat) (s : State) (h : Lasts o s.lasting) :
    Lasts o (putRecords fuel s).lasting := by
  induction fuel generalizing s with
  | zero => exact h
  | succ n ih =>
    unfold putRecords
    split
    · exact ih _ (lasts_putRecord _ _ (by rw [lasting_withWd]; exact h))
    · exact h

theorem lasts_traceWd {o : Lasting} (s : State) (event list src flow seq urg : Nat) (h : Lasts o s.lasting) :
    Lasts o (traceWd s event list src flow seq urg).lasting := by
  unfold traceWd
  with_reducible refine lasts_ite' h (lasts_ite' (by simpa only [keep_State_bump, keep_raise] using h) ?_)
  extract_lets _ _
  exact lasts_putRecords _ _ (by rw [lasting_withWd]; exact h)

theorem lasts_waitOnce {o : Lasting} (s : State) (key src list flow seq : Nat) (h : Lasts o s.lasting) :
    Lasts o (waitOnce s key src list flow seq).2.lasting := by
  unfold waitOnce
  repeat' first
    | with_reducible exact h
    | with_reducible assumption
    | with_reducible apply lasts_ite'
    | with_reducible apply lasts_traceWd
    | (with_reducible apply lasts_foldl; intro _ _ _)
    | simp only [lasting_withCyc, lasting_withWd, lasting_eta, snd_ite, fst_ite]
    | ((with_reducible refine lasts_withLdr _ _ ?hf ?hr ?_); (case hf => rfl); (case hr => rfl))
    | with_reducible refine lasts_snd_eq ‹_ = (_, _)› ?_
    | with_reducible refine lasts_snd2_eq ‹_ = (_, _, _)› ?_
    | split
    | dsimp only

@[simp] theorem keep_waitOver (s : State) (key : Nat) :
    (waitOver s key).lasting = s.lasting := by
  simp only [waitOver, lasting_ite, ite_self, lasting_foldl, implies_true, lasting_eta, snd_ite, fst_ite,
    lasting_withWd]

@[simp] theorem keep_enterList (s : State) (i : WorkItem) :
    (enterList s i).2.lasting = s.lasting := by
  simp [enterList]

@[simp] theorem keep_placeItem (s : State) (i : WorkItem) :
    (placeItem s i).2.lasting = s.lasting := by
  simp [placeItem]

theorem lasts_postRefused {o : Lasting} (s : State) (src : Nat) (i : WorkItem) (h : Lasts o s.lasting) :
    Lasts o (postRefused s src i).lasting := by
  unfold postRefused
  repeat' first
    | with_reducible exact h
    | with_reducible assumption
    | with_reducible apply lasts_ite'
    | with_reducible apply lasts_traceWd
    | (with_reducible apply lasts_foldl; intro _ _ _)
    | simp only [keep_raise, lasting_withCyc, lasting_eta, snd_ite, fst_ite]
    | ((with_reducible refine lasts_withLdr _ _ ?hf ?hr ?_); (case hf => rfl); (case hr => rfl))
    | with_reducible refine lasts_snd_eq ‹_ = (_, _)› ?_
    | with_reducible refine lasts_snd2_eq ‹_ = (_, _, _)› ?_
    | split
    | dsimp only

theorem lasts_tryPost {o : Lasting} (s : State) (src key : Nat) (i : WorkItem) (h : Lasts o s.lasting) :
    Lasts o (tryPost s src key i).2.lasting := by
  unfold tryPost
  repeat' first
    | with_reducible exact h
    | with_reducible assumption
    | with_reducible apply lasts_ite'
    | with_reducible apply lasts_postRefused
    | with_reducible apply lasts_traceWd
    | with_reducible apply lasts_waitOnce
    | (with_reducible apply lasts_foldl; intro _ _ _)
    | simp only [keep_placeItem, keep_waitOver, lasting_withCyc, lasting_eta, snd_ite, fst_ite]
    | ((with_reducible refine lasts_withLdr _ _ ?hf ?hr ?_); (case hf => rfl); (case hr => rfl))
    | with_reducible refine lasts_snd_eq ‹_ = (_, _)› ?_
    | with_reducible refine lasts_snd2_eq ‹_ = (_, _, _)› ?_
    | split
    | dsimp only

theorem lasts_settlePreempt {o : Lasting} (s : State) (h : Lasts o s.lasting) : Lasts o (settlePreempt s).lasting := by
  unfold settlePreempt
  with_reducible refine lasts_ite' h ?_
  refine lasts_foldl _ _ _ (fun t c ht => lasts_ite' ?_ ht) (by rw [lasting_withWd]; exact h)
  split
  · exact lasts_traceWd _ _ _ _ _ _ _ ht
  · exact ht

theorem lasts_inTurn {o : Lasting} (s : State) (place : Nat) (act : State → State)
    (hf : ∀ t : State, Lasts o t.lasting → Lasts o (act t).lasting) (h : Lasts o s.lasting) :
    Lasts o (inTurn s place act).lasting :=
  lasts_ite' (hf _ (by simpa only [lasting_withWd] using h)) h

theorem lasts_dispatchOne {o : Lasting} (s : State) (h : Lasts o s.lasting) :
    Lasts o (dispatchOne s).lasting := by
  unfold dispatchOne
  repeat' first
    | with_reducible exact h
    | with_reducible assumption
    | with_reducible apply lasts_ite'
    | with_reducible apply lasts_settlePreempt
    | with_reducible apply lasts_traceWd
    | (with_reducible apply lasts_foldl; intro _ _ _)
    | simp only [keep_State_setCcSts, keep_State_setReg, keep_State_setWdList, lasting_withCyc, lasting_eta, snd_ite,
        fst_ite]
    | ((with_reducible refine lasts_withLdr _ _ ?hf ?hr ?_); (case hf => rfl); (case hr => rfl))
    | with_reducible refine lasts_snd_eq ‹_ = (_, _)› ?_
    | with_reducible refine lasts_snd2_eq ‹_ = (_, _, _)› ?_
    | split
    | dsimp only

theorem lasts_dispatch {o : Lasting} (s : State) (h : Lasts o s.lasting) :
    Lasts o (dispatch s).lasting := by
  unfold dispatch
  repeat' first
    | with_reducible exact h
    | with_reducible assumption
    | with_reducible apply lasts_ite'
    | with_reducible apply lasts_dispatchOne
    | with_reducible refine lasts_inTurn _ _ _ (fun _ _ => ?_) ?_
    | (with_reducible apply lasts_foldl; intro _ _ _)
    | simp only [lasting_withCyc, lasting_eta, snd_ite, fst_ite]
    | ((with_reducible refine lasts_withLdr _ _ ?hf ?hr ?_); (case hf => rfl); (case hr => rfl))
    | with_reducible refine lasts_snd_eq ‹_ = (_, _)› ?_
    | with_reducible refine lasts_snd2_eq ‹_ = (_, _, _)› ?_
    | split
    | dsimp only

@[simp] theorem keep_setBusy (s : State) (w : PostWindow) (b : Bool) :
    (setBusy s w b).lasting = s.lasting := by
  unfold setBusy
  repeat' (first | (simp only [lasting_ite, ite_self, lasting_foldl, implies_true, lasting_eta, snd_ite, fst_ite,
    keep_State_setF, keep_State_setCcSts]; done) | split | rfl)

theorem lasts_commitPost {o : Lasting} (s : State) (w : PostWindow) (h : Lasts o s.lasting) :
    Lasts o (commitPost s w).lasting := by
  unfold commitPost
  repeat' first
    | with_reducible exact h
    | with_reducible assumption
    | with_reducible apply lasts_ite'
    | with_reducible apply lasts_postRefused
    | (with_reducible apply lasts_foldl; intro _ _ _)
    | simp only [keep_setBusy, lasting_withCyc, lasting_eta, snd_ite, fst_ite]
    | ((with_reducible refine lasts_withLdr _ _ ?hf ?hr ?_); (case hf => rfl); (case hr => rfl))
    | with_reducible refine lasts_snd_eq ‹_ = (_, _)› ?_
    | with_reducible refine lasts_snd2_eq ‹_ = (_, _, _)› ?_
    | split
    | dsimp only

@[simp] theorem keep_setSlot (s : State) (c : Nat) (i : Option WorkItem) :
    (setSlot s c i).lasting = s.lasting := by
  simp only [setSlot, lasting_ite, ite_self, lasting_foldl, implies_true, lasting_eta, snd_ite, fst_ite,
    lasting_withWd, keep_State_setCcSts]

theorem lasts_trySlot {o : Lasting} (s : State) (c : Nat) (h : Lasts o s.lasting) :
    Lasts o (trySlot s c).lasting := by
  unfold trySlot
  repeat' first
    | with_reducible exact h
    | with_reducible assumption
    | with_reducible apply lasts_ite'
    | with_reducible apply lasts_tryPost
    | (with_reducible apply lasts_foldl; intro _ _ _)
    | simp only [keep_setSlot, lasting_withCyc, lasting_eta, snd_ite, fst_ite]
    | ((with_reducible refine lasts_withLdr _ _ ?hf ?hr ?_); (case hf => rfl); (case hr => rfl))
    | with_reducible refine lasts_snd_eq ‹_ = (_, _)› ?_
    | with_reducible refine lasts_snd2_eq ‹_ = (_, _, _)› ?_
    | split
    | dsimp only

theorem lasts_tryWindow {o : Lasting} (s : State) (w : PostWindow) (h : Lasts o s.lasting) :
    Lasts o (tryWindow s w).lasting := by
  unfold tryWindow
  repeat' first
    | with_reducible exact h
    | with_reducible assumption
    | with_reducible apply lasts_ite'
    | with_reducible apply lasts_tryPost
    | (with_reducible apply lasts_foldl; intro _ _ _)
    | simp only [keep_setBusy, lasting_withCyc, lasting_eta, snd_ite, fst_ite]
    | ((with_reducible refine lasts_withLdr _ _ ?hf ?hr ?_); (case hf => rfl); (case hr => rfl))
    | with_reducible refine lasts_snd_eq ‹_ = (_, _)› ?_
    | with_reducible refine lasts_snd2_eq ‹_ = (_, _, _)› ?_
    | split
    | dsimp only

theorem lasts_postPlace {o : Lasting} (s : State) (p : PlaceFrom) (h : Lasts o s.lasting) :
    Lasts o (postPlace s p).lasting := by
  unfold postPlace
  repeat' first
    | with_reducible exact h
    | with_reducible assumption
    | with_reducible apply lasts_ite'
    | with_reducible refine lasts_inTurn _ _ _ (fun _ _ => ?_) ?_
    | with_reducible apply lasts_settlePreempt
    | with_reducible apply lasts_trySlot
    | with_reducible apply lasts_tryWindow
    | (with_reducible apply lasts_foldl; intro _ _ _)
    | simp only [lasting_withCyc, lasting_eta, snd_ite, fst_ite]
    | ((with_reducible refine lasts_withLdr _ _ ?hf ?hr ?_); (case hf => rfl); (case hr => rfl))
    | with_reducible refine lasts_snd_eq ‹_ = (_, _)› ?_
    | with_reducible refine lasts_snd2_eq ‹_ = (_, _, _)› ?_
    | split
    | dsimp only

@[simp] theorem keep_putOutcome (s : State) (f n c : Nat) (r : Option WorkItem) :
    (putOutcome s f n c r).lasting = s.lasting := by
  simp only [putOutcome, lasting_ite, ite_self, lasting_foldl, implies_true, lasting_eta, snd_ite, fst_ite,
    lasting_withWd]

@[simp] theorem keep_dropHeld (s : State) (c : Nat) :
    (dropHeld s c).lasting = s.lasting := by
  simp only [dropHeld, lasting_ite, ite_self, lasting_foldl, implies_true, lasting_eta, snd_ite, fst_ite,
    keep_State_setReg, keep_State_setCcSts]

theorem lasts_wdDone {o : Lasting} (s : State) (c v : Nat) (h : Lasts o s.lasting) :
    Lasts o (wdDone s c v).lasting := by
  unfold wdDone
  repeat' first
    | with_reducible exact h
    | with_reducible assumption
    | with_reducible apply lasts_ite'
    | with_reducible apply lasts_postRefused
    | with_reducible apply lasts_settlePreempt
    | with_reducible apply lasts_traceWd
    | (with_reducible apply lasts_foldl; intro _ _ _)
    | simp only [keep_State_setF, keep_dropHeld, keep_putOutcome, keep_raise, keep_setSlot, lasting_withCyc,
        lasting_eta, snd_ite, fst_ite]
    | ((with_reducible refine lasts_withLdr _ _ ?hf ?hr ?_); (case hf => rfl); (case hr => rfl))
    | with_reducible refine lasts_snd_eq ‹_ = (_, _)› ?_
    | with_reducible refine lasts_snd2_eq ‹_ = (_, _, _)› ?_
    | split
    | dsimp only

theorem lasts_itemLost {o : Lasting} (s : State) (c : Nat) (h : Lasts o s.lasting) :
    Lasts o (itemLost s c).lasting := by
  unfold itemLost
  repeat' first
    | with_reducible exact h
    | with_reducible assumption
    | with_reducible apply lasts_ite'
    | with_reducible apply lasts_traceWd
    | (with_reducible apply lasts_foldl; intro _ _ _)
    | simp only [keep_dropHeld, keep_putOutcome, keep_raise, lasting_withCyc, lasting_eta, snd_ite, fst_ite]
    | ((with_reducible refine lasts_withLdr _ _ ?hf ?hr ?_); (case hf => rfl); (case hr => rfl))
    | with_reducible refine lasts_snd_eq ‹_ = (_, _)› ?_
    | with_reducible refine lasts_snd2_eq ‹_ = (_, _, _)› ?_
    | split
    | dsimp only

theorem lasts_releaseNext {o : Lasting} (f : Nat) (s : State) (h : Lasts o s.lasting) :
    Lasts o (releaseNext f s).lasting := by
  unfold releaseNext
  repeat' first
    | with_reducible exact h
    | with_reducible assumption
    | with_reducible apply lasts_ite'
    | with_reducible apply lasts_postRefused
    | with_reducible apply lasts_settlePreempt
    | with_reducible apply lasts_traceWd
    | with_reducible apply lasts_waitOnce
    | (with_reducible apply lasts_foldl; intro _ _ _)
    | simp only [keep_State_setF, keep_placeItem, keep_raise, keep_waitOver, lasting_withCyc, lasting_withWd,
        lasting_eta, snd_ite, fst_ite]
    | ((with_reducible refine lasts_withLdr _ _ ?hf ?hr ?_); (case hf => rfl); (case hr => rfl))
    | with_reducible refine lasts_snd_eq ‹_ = (_, _)› ?_
    | with_reducible refine lasts_snd2_eq ‹_ = (_, _, _)› ?_
    | split
    | dsimp only

theorem lasts_flowRelease {o : Lasting} (s : State) (f : Nat) (h : Lasts o s.lasting) :
    Lasts o (flowRelease s f).lasting := by
  unfold flowRelease
  repeat' first
    | with_reducible exact h
    | with_reducible assumption
    | with_reducible apply lasts_ite'
    | with_reducible refine lasts_inTurn _ _ _ (fun _ _ => ?_) ?_
    | with_reducible apply lasts_releaseNext
    | (with_reducible apply lasts_foldl; intro _ _ _)
    | simp only [lasting_withCyc, lasting_eta, snd_ite, fst_ite]
    | ((with_reducible refine lasts_withLdr _ _ ?hf ?hr ?_); (case hf => rfl); (case hr => rfl))
    | with_reducible refine lasts_snd_eq ‹_ = (_, _)› ?_
    | with_reducible refine lasts_snd2_eq ‹_ = (_, _, _)› ?_
    | split
    | dsimp only

theorem lasts_expireHead {o : Lasting} (s : State) (k : Nat) (h : Lasts o s.lasting) :
    Lasts o (expireHead s k).lasting := by
  unfold expireHead
  repeat' first
    | with_reducible exact h
    | with_reducible assumption
    | with_reducible apply lasts_ite'
    | with_reducible apply lasts_settlePreempt
    | with_reducible apply lasts_traceWd
    | with_reducible apply lasts_waitOnce
    | (with_reducible apply lasts_foldl; intro _ _ _)
    | simp only [keep_State_setWdDelay, keep_enterList, keep_raise, keep_waitOver, lasting_withCyc, lasting_eta,
        snd_ite, fst_ite]
    | ((with_reducible refine lasts_withLdr _ _ ?hf ?hr ?_); (case hf => rfl); (case hr => rfl))
    | with_reducible refine lasts_snd_eq ‹_ = (_, _)› ?_
    | with_reducible refine lasts_snd2_eq ‹_ = (_, _, _)› ?_
    | split
    | dsimp only

@[simp] theorem keep_setNextX (s : State) (k v : Nat) :
    (setNextX s k v).lasting = s.lasting := by
  simp only [setNextX, lasting_ite, ite_self, lasting_foldl, implies_true, lasting_eta, snd_ite, fst_ite,
    lasting_withWd]

theorem lasts_delayStep {o : Lasting} (k : Nat) (s : State) (h : Lasts o s.lasting) :
    Lasts o (delayStep k s).lasting := by
  unfold delayStep
  repeat' first
    | with_reducible exact h
    | with_reducible assumption
    | with_reducible apply lasts_ite'
    | with_reducible apply lasts_expireHead
    | (with_reducible apply lasts_foldl; intro _ _ _)
    | simp only [keep_State_setReg, keep_setNextX, lasting_withCyc, lasting_eta, snd_ite, fst_ite]
    | ((with_reducible refine lasts_withLdr _ _ ?hf ?hr ?_); (case hf => rfl); (case hr => rfl))
    | with_reducible refine lasts_snd_eq ‹_ = (_, _)› ?_
    | with_reducible refine lasts_snd2_eq ‹_ = (_, _, _)› ?_
    | split
    | dsimp only

theorem lasts_delayTick {o : Lasting} (s : State) (k : Nat) (h : Lasts o s.lasting) :
    Lasts o (delayTick s k).lasting := by
  unfold delayTick
  repeat' first
    | with_reducible exact h
    | with_reducible assumption
    | with_reducible apply lasts_ite'
    | with_reducible apply lasts_delayStep
    | with_reducible refine lasts_inTurn _ _ _ (fun _ _ => ?_) ?_
    | (with_reducible apply lasts_foldl; intro _ _ _)
    | simp only [lasting_withCyc, lasting_eta, snd_ite, fst_ite]
    | ((with_reducible refine lasts_withLdr _ _ ?hf ?hr ?_); (case hf => rfl); (case hr => rfl))
    | with_reducible refine lasts_snd_eq ‹_ = (_, _)› ?_
    | with_reducible refine lasts_snd2_eq ‹_ = (_, _, _)› ?_
    | split
    | dsimp only

theorem lasts_delayDrain {o : Lasting} (s : State) (k : Nat) (h : Lasts o s.lasting) :
    Lasts o (delayDrain s k).lasting := by
  unfold delayDrain
  repeat' first
    | with_reducible exact h
    | with_reducible assumption
    | with_reducible apply lasts_ite'
    | with_reducible apply lasts_expireHead
    | with_reducible refine lasts_inTurn _ _ _ (fun _ _ => ?_) ?_
    | (with_reducible apply lasts_foldl; intro _ _ _)
    | simp only [lasting_withCyc, lasting_eta, snd_ite, fst_ite]
    | ((with_reducible refine lasts_withLdr _ _ ?hf ?hr ?_); (case hf => rfl); (case hr => rfl))
    | with_reducible refine lasts_snd_eq ‹_ = (_, _)› ?_
    | with_reducible refine lasts_snd2_eq ‹_ = (_, _, _)› ?_
    | split
    | dsimp only

@[simp] theorem keep_delayWritten (s : State) (k : Nat) :
    (delayWritten s k).lasting = s.lasting := by
  unfold delayWritten
  repeat' first
    | done
    | (simp only [
         lasting_ite, ite_self, lasting_foldl, implies_true, lasting_eta, snd_ite, fst_ite, keep_State_setF,
         keep_State_setReg, keep_setNextX]
       done)
    | split
    | (dsimp +zetaHave only; split)
    | (simp +zetaDelta only [
         lasting_ite, ite_self, lasting_foldl, implies_true, lasting_eta, snd_ite, fst_ite, keep_State_setF,
         keep_State_setReg, keep_setNextX]
       done)
    | rfl

end Sys2Proof.Machine
end

