-- ==== Sys2Proof/Laws/KeepPages.lean ====
section
/-! SUPPORT. Which functions of Machine/Pages.lean keep the lasting part of the state, and that what lasts lasts through the others. -/
set_option linter.unusedSimpArgs false

namespace Sys2Proof.Machine

@[simp] theorem keep_beginStart (s : State) (p : PageId) :
    (beginStart s p).lasting = s.lasting := by
  unfold beginStart
  repeat' first
    | done
    | (simp only [
         lasting_ite, ite_self, lasting_foldl, implies_true, lasting_eta, snd_ite, fst_ite, keep_State_setSt,
         keep_beginTraining, keep_cycChanged, lasting_withCyc]
       done)
    | split
    | (dsimp +zetaHave only; split)
    | (simp +zetaDelta only [
         lasting_ite, ite_self, lasting_foldl, implies_true, lasting_eta, snd_ite, fst_ite, keep_State_setSt,
         keep_beginTraining, keep_cycChanged, lasting_withCyc]
       done)
    | rfl

theorem lasts_blockStops {o : Lasting} (s : State) (p : PageId) (h : Lasts o s.lasting) :
    Lasts o (blockStops s p).lasting := by
  unfold blockStops
  repeat' first
    | with_reducible exact h
    | with_reducible assumption
    | with_reducible apply lasts_ite'
    | with_reducible apply lasts_ldrStops
    | with_reducible apply lasts_settlePreempt
    | (with_reducible apply lasts_foldl; intro _ _ _)
    | simp only [keep_State_setF, keep_bndStops, keep_laneStops, keep_portStops, keep_queueStops, keep_untrain,
        lasting_withCyc, lasting_eta, snd_ite, fst_ite]
    | ((with_reducible refine lasts_withLdr _ _ ?hf ?hr ?_); (case hf => rfl); (case hr => rfl))
    | with_reducible refine lasts_snd_eq ‹_ = (_, _)› ?_
    | with_reducible refine lasts_snd2_eq ‹_ = (_, _, _)› ?_
    | split
    | dsimp only

theorem lasts_beginStop {o : Lasting} (s : State) (p : PageId) (h : Lasts o s.lasting) :
    Lasts o (beginStop s p).lasting := by
  unfold beginStop
  repeat' first
    | with_reducible exact h
    | with_reducible assumption
    | with_reducible apply lasts_ite'
    | with_reducible apply lasts_blockStops
    | (with_reducible apply lasts_foldl; intro _ _ _)
    | simp only [keep_State_setSt, lasting_withCyc, lasting_eta, snd_ite, fst_ite]
    | ((with_reducible refine lasts_withLdr _ _ ?hf ?hr ?_); (case hf => rfl); (case hr => rfl))
    | with_reducible refine lasts_snd_eq ‹_ = (_, _)› ?_
    | with_reducible refine lasts_snd2_eq ‹_ = (_, _, _)› ?_
    | split
    | dsimp only

theorem lasts_restOn {o : Lasting} (s : State) (p : PageId) (h : Lasts o s.lasting) :
    Lasts o (restOn s p).lasting := by
  unfold restOn
  repeat' first
    | with_reducible exact h
    | with_reducible assumption
    | with_reducible apply lasts_ite'
    | with_reducible apply lasts_beginStop
    | (with_reducible apply lasts_foldl; intro _ _ _)
    | simp only [lasting_withCyc, lasting_eta, snd_ite, fst_ite]
    | ((with_reducible refine lasts_withLdr _ _ ?hf ?hr ?_); (case hf => rfl); (case hr => rfl))
    | with_reducible refine lasts_snd_eq ‹_ = (_, _)› ?_
    | with_reducible refine lasts_snd2_eq ‹_ = (_, _, _)› ?_
    | split
    | dsimp only

@[simp] theorem keep_restOff (s : State) (p : PageId) :
    (restOff s p).lasting = s.lasting := by
  simp only [restOff, lasting_ite, ite_self, lasting_foldl, implies_true, lasting_eta, snd_ite, fst_ite,
    keep_beginStart]

@[simp] theorem keep_startFails (s : State) (p : PageId) (info : Nat) :
    (startFails s p info).lasting = s.lasting := by
  unfold startFails
  repeat' (first | (simp only [lasting_ite, ite_self, lasting_foldl, implies_true, lasting_eta, snd_ite, fst_ite,
    keep_State_setSt, keep_raise, keep_untrain, keep_cycChanged]; done) | split | rfl)

theorem lasts_blockStarts {o : Lasting} (s : State) (p : PageId) (h : Lasts o s.lasting) :
    Lasts o (blockStarts s p).lasting := by
  unfold blockStarts
  repeat' first
    | with_reducible exact h
    | with_reducible assumption
    | with_reducible apply lasts_ite'
    | with_reducible apply lasts_settlePreempt
    | (with_reducible apply lasts_foldl; intro _ _ _)
    | simp only [keep_bndStarts, keep_coreStart, keep_laneStarts, keep_portStarts, lasting_withCyc,
        lasting_eta, snd_ite, fst_ite]
    | ((with_reducible refine lasts_withLdr _ _ ?hf ?hr ?_); (case hf => rfl); (case hr => rfl))
    | with_reducible refine lasts_snd_eq ‹_ = (_, _)› ?_
    | with_reducible refine lasts_snd2_eq ‹_ = (_, _, _)› ?_
    | split
    | dsimp only

theorem lasts_cycStartChecks {o : Lasting} (s : State) (timeout : Bool) (h : Lasts o s.lasting) :
    Lasts o (cycStartChecks s timeout).lasting := by
  unfold cycStartChecks
  repeat' first
    | with_reducible exact h
    | with_reducible assumption
    | with_reducible apply lasts_ite'
    | with_reducible apply lasts_restOn
    | (with_reducible apply lasts_foldl; intro _ _ _)
    | simp only [keep_cycStarted, keep_startFails, lasting_withCyc, lasting_eta, snd_ite, fst_ite]
    | ((with_reducible refine lasts_withLdr _ _ ?hf ?hr ?_); (case hf => rfl); (case hr => rfl))
    | with_reducible refine lasts_snd_eq ‹_ = (_, _)› ?_
    | with_reducible refine lasts_snd2_eq ‹_ = (_, _, _)› ?_
    | split
    | dsimp only

theorem lasts_startSequenceEnd {o : Lasting} (s : State) (p : PageId) (ok : Bool) (h : Lasts o s.lasting) :
    Lasts o (startSequenceEnd s p ok).lasting := by
  unfold startSequenceEnd
  repeat' first
    | with_reducible exact h
    | with_reducible assumption
    | with_reducible apply lasts_ite'
    | with_reducible apply lasts_blockStarts
    | with_reducible apply lasts_cycStartChecks
    | with_reducible apply lasts_restOn
    | (with_reducible apply lasts_foldl; intro _ _ _)
    | simp only [keep_State_setSt, keep_startFails, lasting_withCyc, lasting_eta, snd_ite, fst_ite]
    | ((with_reducible refine lasts_withLdr _ _ ?hf ?hr ?_); (case hf => rfl); (case hr => rfl))
    | with_reducible refine lasts_snd_eq ‹_ = (_, _)› ?_
    | with_reducible refine lasts_snd2_eq ‹_ = (_, _, _)› ?_
    | split
    | dsimp only

theorem lasts_blockOff {o : Lasting} (s : State) (p : PageId) (h : Lasts o s.lasting) :
    Lasts o (blockOff s p).lasting := by
  unfold blockOff
  repeat' first
    | with_reducible exact h
    | with_reducible assumption
    | with_reducible apply lasts_ite'
    | with_reducible apply lasts_itemLost
    | with_reducible apply lasts_settlePreempt
    | (with_reducible apply lasts_foldl; intro _ _ _)
    | simp only [keep_State_setCcSts, keep_State_setPanel, keep_cycChanged, keep_cycStopped, keep_orphan,
        keep_queueStops, lasting_withCyc, lasting_eta, snd_ite, fst_ite]
    | ((with_reducible refine lasts_withLdr _ _ ?hf ?hr ?_); (case hf => rfl); (case hr => rfl))
    | with_reducible refine lasts_snd_eq ‹_ = (_, _)› ?_
    | with_reducible refine lasts_snd2_eq ‹_ = (_, _, _)› ?_
    | split
    | dsimp only

theorem lasts_stopped {o : Lasting} (s : State) (p : PageId) (ok : Bool) (h : Lasts o s.lasting) :
    Lasts o (stopped s p ok).lasting := by
  unfold stopped
  repeat' first
    | with_reducible exact h
    | with_reducible assumption
    | with_reducible apply lasts_ite'
    | with_reducible apply lasts_blockOff
    | (with_reducible apply lasts_foldl; intro _ _ _)
    | simp only [keep_State_setSt, keep_raise, lasting_withCyc, lasting_eta, snd_ite, fst_ite]
    | ((with_reducible refine lasts_withLdr _ _ ?hf ?hr ?_); (case hf => rfl); (case hr => rfl))
    | with_reducible refine lasts_snd_eq ‹_ = (_, _)› ?_
    | with_reducible refine lasts_snd2_eq ‹_ = (_, _, _)› ?_
    | split
    | dsimp only

theorem lasts_stopSequenceEnd {o : Lasting} (s : State) (p : PageId) (ok timeUp : Bool) (h : Lasts o s.lasting) :
    Lasts o (stopSequenceEnd s p ok timeUp).lasting := by
  unfold stopSequenceEnd
  repeat' first
    | with_reducible exact h
    | with_reducible assumption
    | with_reducible apply lasts_ite'
    | with_reducible apply lasts_stopped
    | (with_reducible apply lasts_foldl; intro _ _ _)
    | simp only [keep_restOff, lasting_withCyc, lasting_eta, snd_ite, fst_ite]
    | ((with_reducible refine lasts_withLdr _ _ ?hf ?hr ?_); (case hf => rfl); (case hr => rfl))
    | with_reducible refine lasts_snd_eq ‹_ = (_, _)› ?_
    | with_reducible refine lasts_snd2_eq ‹_ = (_, _, _)› ?_
    | split
    | dsimp only

theorem lasts_enWritten {o : Lasting} (s : State) (p : PageId) (old : Bool) (h : Lasts o s.lasting) :
    Lasts o (enWritten s p old).lasting := by
  unfold enWritten
  repeat' first
    | with_reducible exact h
    | with_reducible assumption
    | with_reducible apply lasts_ite'
    | with_reducible apply lasts_beginStop
    | (with_reducible apply lasts_foldl; intro _ _ _)
    | simp only [keep_beginStart, lasting_withCyc, lasting_eta, snd_ite, fst_ite]
    | ((with_reducible refine lasts_withLdr _ _ ?hf ?hr ?_); (case hf => rfl); (case hr => rfl))
    | with_reducible refine lasts_snd_eq ‹_ = (_, _)› ?_
    | with_reducible refine lasts_snd2_eq ‹_ = (_, _, _)› ?_
    | split
    | dsimp only

end Sys2Proof.Machine
end

