-- ==== Sys2Proof/Laws/KeepPciConfig.lean ====
section
/-! SUPPORT. Which functions of Machine/PciConfig.lean keep the lasting part of the state, and that what lasts lasts through the others. -/
set_option linter.unusedSimpArgs false

namespace Sys2Proof.Machine

@[simp] theorem keep_State_setCfg (s : State) (off : Nat) (v : Word) :
    (State.setCfg s off v).lasting = s.lasting := by
  unfold State.setCfg
  repeat' first
    | done
    | (simp only [
         lasting_ite, ite_self, lasting_foldl, implies_true, lasting_eta, snd_ite, fst_ite, lasting_withHst]
       done)
    | split
    | (dsimp +zetaHave only; split)
    | (simp +zetaDelta only [
         lasting_ite, ite_self, lasting_foldl, implies_true, lasting_eta, snd_ite, fst_ite, lasting_withHst]
       done)
    | rfl

@[simp] theorem keep_State_orCfg (s : State) (off bits : Nat) :
    (State.orCfg s off bits).lasting = s.lasting := by
  unfold State.orCfg
  repeat' first
    | done
    | (simp only [
         lasting_ite, ite_self, lasting_foldl, implies_true, lasting_eta, snd_ite, fst_ite, keep_State_setCfg]
       done)
    | split
    | (dsimp +zetaHave only; split)
    | (simp +zetaDelta only [
         lasting_ite, ite_self, lasting_foldl, implies_true, lasting_eta, snd_ite, fst_ite, keep_State_setCfg]
       done)
    | rfl

@[simp] theorem keep_errorMessage (s : State) (b k : Nat) :
    (errorMessage s b k).lasting = s.lasting := by
  unfold errorMessage
  repeat' first
    | done
    | (simp only [
         lasting_ite, ite_self, lasting_foldl, implies_true, lasting_eta, snd_ite, fst_ite, keep_State_send]
       done)
    | split
    | (dsimp +zetaHave only; split)
    | (simp +zetaDelta only [
         lasting_ite, ite_self, lasting_foldl, implies_true, lasting_eta, snd_ite, fst_ite, keep_State_send]
       done)
    | rfl

@[simp] theorem keep_aerStatusSet (s : State) (b : Nat) :
    (aerStatusSet s b).lasting = s.lasting := by
  unfold aerStatusSet
  repeat' first
    | done
    | (simp only [
         lasting_ite, ite_self, lasting_foldl, implies_true, lasting_eta, snd_ite, fst_ite, keep_State_orCfg,
         keep_State_setCfg, lasting_withFree]
       done)
    | split
    | (dsimp +zetaHave only; split)
    | (simp +zetaDelta only [
         lasting_ite, ite_self, lasting_foldl, implies_true, lasting_eta, snd_ite, fst_ite, keep_State_orCfg,
         keep_State_setCfg, lasting_withFree]
       done)
    | rfl

@[simp] theorem keep_aerCorrected (s : State) (b why : Nat) :
    (aerCorrected s b why).lasting = s.lasting := by
  unfold aerCorrected
  repeat' first
    | done
    | (simp only [
         lasting_ite, ite_self, lasting_foldl, implies_true, lasting_eta, snd_ite, fst_ite, keep_State_orCfg,
         keep_errorMessage]
       done)
    | split
    | (dsimp +zetaHave only; split)
    | (simp +zetaDelta only [
         lasting_ite, ite_self, lasting_foldl, implies_true, lasting_eta, snd_ite, fst_ite, keep_State_orCfg,
         keep_errorMessage]
       done)
    | rfl

@[simp] theorem keep_aerCorrectable (s : State) (b : Nat) : (aerCorrectable s b).lasting = s.lasting := keep_aerCorrected ..

@[simp] theorem keep_aerUncorrectable (s : State) (b : Nat) :
    (aerUncorrectable s b).lasting = s.lasting := by
  unfold aerUncorrectable
  repeat' first
    | done
    | (simp only [
         lasting_ite, ite_self, lasting_foldl, implies_true, lasting_eta, snd_ite, fst_ite, keep_State_orCfg,
         keep_aerStatusSet, keep_errorMessage]
       done)
    | split
    | (dsimp +zetaHave only; split)
    | (simp +zetaDelta only [
         lasting_ite, ite_self, lasting_foldl, implies_true, lasting_eta, snd_ite, fst_ite, keep_State_orCfg,
         keep_aerStatusSet, keep_errorMessage]
       done)
    | rfl

@[simp] theorem keep_aerAdvises (s : State) (b : Nat) :
    (aerAdvises s b).lasting = s.lasting := by
  unfold aerAdvises
  repeat' first
    | done
    | (simp only [
         lasting_ite, ite_self, lasting_foldl, implies_true, lasting_eta, snd_ite, fst_ite,
         keep_aerCorrected, keep_aerStatusSet, keep_aerUncorrectable]
       done)
    | split
    | (dsimp +zetaHave only; split)
    | (simp +zetaDelta only [
         lasting_ite, ite_self, lasting_foldl, implies_true, lasting_eta, snd_ite, fst_ite,
         keep_aerCorrected, keep_aerStatusSet, keep_aerUncorrectable]
       done)
    | rfl

@[simp] theorem keep_logUnsupported (s : State) (wr : Bool) :
    (logUnsupported s wr).lasting = s.lasting := by
  unfold logUnsupported
  repeat' first
    | done
    | (simp only [
         lasting_ite, ite_self, lasting_foldl, implies_true, lasting_eta, snd_ite, fst_ite, keep_State_orCfg,
         keep_aerAdvises, keep_aerUncorrectable]
       done)
    | split
    | (dsimp +zetaHave only; split)
    | (simp +zetaDelta only [
         lasting_ite, ite_self, lasting_foldl, implies_true, lasting_eta, snd_ite, fst_ite, keep_State_orCfg,
         keep_aerAdvises, keep_aerUncorrectable]
       done)
    | rfl

@[simp] theorem keep_linkTakes (s : State) (f : TlpFault) :
    (linkTakes s f).2.lasting = s.lasting := by
  unfold linkTakes
  repeat' first
    | done
    | (simp only [
         lasting_ite, ite_self, lasting_foldl, implies_true, lasting_eta, snd_ite, fst_ite,
         keep_aerCorrectable, keep_aerUncorrectable]
       done)
    | split
    | (dsimp +zetaHave only; split)
    | (simp +zetaDelta only [
         lasting_ite, ite_self, lasting_foldl, implies_true, lasting_eta, snd_ite, fst_ite,
         keep_aerCorrectable, keep_aerUncorrectable]
       done)
    | rfl

end Sys2Proof.Machine
end

