-- ==== Sys2Proof/Laws/KeepReset.lean ====
section
/-! SUPPORT. Which functions of Machine/Reset.lean keep the lasting part of the state, and that what lasts lasts through the others. -/
set_option linter.unusedSimpArgs false

namespace Sys2Proof.Machine

@[simp] theorem keep_restoreWords (s : State) (t : Tab Word) :
    (restoreWords s t).lasting = s.lasting := by
  unfold restoreWords
  dsimp only
  repeat' (first | (simp; done) | split | (refine (lasting_foldl _ _ _ ?_).trans ?_ <;> intros))

@[simp] theorem keep_drawerCommit (s : State) :
    (drawerCommit s).lasting = s.lasting := by
  simp only [drawerCommit, lasting_ite, ite_self, lasting_foldl, implies_true, lasting_eta, snd_ite, fst_ite,
    lasting_mixDrw, lasting_withDrw, keep_State_setF, keep_raise]

@[simp] theorem keep_drawerSettles (s : State) : (drawerSettles s).lasting = s.lasting := by
  simp only [drawerSettles, lasting_ite, lasting_withDrw, lasting_mixDrw, lasting_eta, ite_self]

@[simp] theorem keep_drawerCommitEnd (s : State) (ok : Bool) :
    (drawerCommitEnd s ok).lasting = s.lasting := by
  rw [← keep_drawerSettles s]
  unfold drawerCommitEnd
  generalize drawerSettles s = u
  dsimp only
  repeat' (first | (simp only [lasting_ite, ite_self, lasting_foldl, implies_true, lasting_eta, snd_ite, fst_ite,
    lasting_mixDrw, lasting_withDrw, keep_State_setF, keep_raise]; done) | split | rfl)

@[simp] theorem keep_drawerWindow (s : State) (rq : Requester) (off : Nat) (be : BitVec 4) (v : Word) :
    (drawerWindow s rq off be v).lasting = s.lasting := by
  simp only [drawerWindow, lasting_ite, ite_self, lasting_foldl, implies_true, lasting_eta, snd_ite, fst_ite,
    lasting_mixDrw, lasting_withDrw, keep_raise]

@[simp] theorem keep_firmwareMark (s : State) (die panel : Nat) :
    (firmwareMark s die panel).lasting = s.lasting := by
  simp only [firmwareMark, lasting_ite, ite_self, lasting_foldl, implies_true, lasting_eta, snd_ite, fst_ite,
    keep_raise, keep_markPanel]

@[simp] theorem keep_lockRetired (s : State) (die panel : Nat) :
    (lockRetired s die panel).lasting = s.lasting := by
  simp only [lockRetired, lasting_ite, ite_self, lasting_foldl, implies_true, lasting_eta, snd_ite, fst_ite,
    keep_State_setF]

@[simp] theorem keep_retireMarks (s : State) :
    (retireMarks s).lasting = s.lasting := by
  simp only [retireMarks, lasting_ite, ite_self, lasting_foldl, implies_true, lasting_eta, snd_ite, fst_ite,
    lasting_mixDrw, lasting_withDrw, keep_State_setReason]

@[simp] theorem keep_retiredEvents (s : State) (m : List (Nat × Nat)) :
    (retiredEvents s m).lasting = s.lasting := by
  simp only [retiredEvents, lasting_ite, ite_self, lasting_foldl, implies_true, lasting_eta, snd_ite, fst_ite,
    keep_raiseAll]

@[simp] theorem keep_bist (s : State) (fails : List (Nat × Nat)) (retest rebuilt : Bool) :
    (bist s fails retest rebuilt).lasting = s.lasting := by
  simp only [bist, lasting_ite, ite_self, lasting_foldl, implies_true, lasting_eta, snd_ite, fst_ite, lasting_mixDrw,
    lasting_withDrw, keep_State_setReason]

@[simp] theorem keep_cut (d : Drawer) : d.cut.serial = d.serial ∧ d.cut.factory = d.factory := by
  unfold Drawer.cut; split <;> exact ⟨rfl, rfl⟩

theorem lasts_bareReset {o : Lasting} (s : State) (cause : Nat) (h : Lasts o s.lasting) :
    Lasts o (bareReset s cause).lasting := by
  have hc := keep_cut s.drw
  refine h.trans ⟨rfl, by simp only [bareReset, lasting_mk, hc]; rfl, by simp only [bareReset, lasting_mk, hc]; rfl,
    fun _ _ e => e, fun _ e => e, fun e => ?_⟩
  simp only [State.lasting, Memories.ordered, State.memories, Bool.and_eq_true, bareReset] at e ⊢
  by_cases w : isWarm cause
  · simpa only [w, if_true] using e
  · simp [w, Tab.wf]

@[simp] theorem keep_statusAfterReset (s old : State) (cause req source : Nat) :
    (statusAfterReset s old cause req source).lasting = s.lasting := by
  simp only [statusAfterReset, lasting_ite, keep_State_setReg, ite_self]


@[simp] theorem keep_mapCured (s : State) :
    (mapCured s).lasting = s.lasting := by
  simp only [mapCured, lasting_ite, ite_self, lasting_foldl, implies_true, lasting_eta, snd_ite, fst_ite,
    lasting_mixDrw, lasting_withDrw]

@[simp] theorem keep_startPhases (s old : State) (cause req source : Nat) (words : Tab Word)
    (retest always rebuilt : Bool) (fails : List (Nat × Nat)) :
    (startPhases s old cause req source words retest always rebuilt fails).lasting = s.lasting := by
  unfold startPhases
  extract_lets
  simp +zetaDelta only [lasting_ite, keep_bist, keep_statusAfterReset, keep_restoreWords, keep_retireMarks, keep_lockRetired,
    keep_retiredEvents, lasting_withCyc, lasting_foldl, implies_true, ite_self]


@[simp] theorem keep_asDormant (s old : State) :
    (asDormant s old).lasting = s.lasting := by
  unfold asDormant
  repeat' first
    | done
    | (simp only [
         lasting_ite, ite_self, lasting_foldl, implies_true, lasting_eta, snd_ite, fst_ite, keep_State_setReg]
       done)
    | split
    | (dsimp +zetaHave only; split)
    | (simp +zetaDelta only [
         lasting_ite, ite_self, lasting_foldl, implies_true, lasting_eta, snd_ite, fst_ite, keep_State_setReg]
       done)
    | rfl

@[simp] theorem keep_startReports (s : State) : (startReports s).lasting = s.lasting := by
  simp only [startReports, lasting_ite, ite_self, lasting_foldl, implies_true, lasting_eta, snd_ite, fst_ite,
    lasting_mixLdr, lasting_withLdr, keep_raise]

@[simp] theorem keep_wakeReports (s : State) : (wakeReports s).lasting = s.lasting := by
  simp only [wakeReports, lasting_ite, keep_raise, ite_self]

theorem lasts_startUp {o : Lasting} (old : State) (cause req : Nat) (f : StartupFindings) (h : Lasts o old.lasting) :
    Lasts o (startUp old cause req f).lasting := by
  unfold startUp
  repeat' first
    | with_reducible exact h
    | with_reducible assumption
    | with_reducible apply lasts_ite'
    | with_reducible apply lasts_bareReset
    | (with_reducible apply lasts_foldl; intro _ _ _)
    | simp only [keep_asDormant, keep_mapCured, keep_startPhases, lasting_withCyc, lasting_withPwr, lasting_eta,
        snd_ite, fst_ite]
    | ((with_reducible refine lasts_withLdr _ _ ?hf ?hr ?_); (case hf => rfl); (case hr => rfl))
    | with_reducible refine lasts_snd_eq ‹_ = (_, _)› ?_
    | with_reducible refine lasts_snd2_eq ‹_ = (_, _, _)› ?_
    | split
    | dsimp only

theorem lasts_warmReset {o : Lasting} (s : State) (cause req : Nat) (f : StartupFindings) (h : Lasts o s.lasting) :
    Lasts o (warmReset s cause req f).lasting := by
  unfold warmReset
  repeat' first
    | with_reducible exact h
    | with_reducible assumption
    | with_reducible apply lasts_ite'
    | with_reducible apply lasts_startUp
    | (with_reducible apply lasts_foldl; intro _ _ _)
    | simp only [lasting_withCyc, lasting_eta, snd_ite, fst_ite]
    | ((with_reducible refine lasts_withLdr _ _ ?hf ?hr ?_); (case hf => rfl); (case hr => rfl))
    | with_reducible refine lasts_snd_eq ‹_ = (_, _)› ?_
    | with_reducible refine lasts_snd2_eq ‹_ = (_, _, _)› ?_
    | split
    | dsimp only

theorem lasts_drwRst {o : Lasting} (s : State) (rq : Requester) (v : Word) (f : Option StartupFindings) (h : Lasts o
    s.lasting) :
    Lasts o (drwRst s rq v f).lasting := by
  unfold drwRst
  repeat' first
    | with_reducible exact h
    | with_reducible assumption
    | with_reducible apply lasts_ite'
    | with_reducible apply lasts_warmReset
    | (with_reducible apply lasts_foldl; intro _ _ _)
    | simp only [keep_raise, lasting_withCyc, lasting_withFree, lasting_eta, snd_ite, fst_ite]
    | ((with_reducible refine lasts_withLdr _ _ ?hf ?hr ?_); (case hf => rfl); (case hr => rfl))
    | with_reducible refine lasts_snd_eq ‹_ = (_, _)› ?_
    | with_reducible refine lasts_snd2_eq ‹_ = (_, _, _)› ?_
    | split
    | dsimp only

theorem lasts_warmRst {o : Lasting} (s : State) (b : Bool) (f : StartupFindings) (h : Lasts o s.lasting) :
    Lasts o (warmRst s b f).lasting := by
  unfold warmRst
  repeat' first
    | with_reducible exact h
    | with_reducible assumption
    | with_reducible apply lasts_ite'
    | with_reducible apply lasts_warmReset
    | (with_reducible apply lasts_foldl; intro _ _ _)
    | simp only [lasting_withCyc, lasting_eta, snd_ite, fst_ite]
    | ((with_reducible refine lasts_withLdr _ _ ?hf ?hr ?_); (case hf => rfl); (case hr => rfl))
    | with_reducible refine lasts_snd_eq ‹_ = (_, _)› ?_
    | with_reducible refine lasts_snd2_eq ‹_ = (_, _, _)› ?_
    | split
    | dsimp only

@[simp] theorem keep_noSeal (s : State) (stack : Nat) :
    (noSeal s stack).lasting = s.lasting := by
  simp only [noSeal, lasting_ite, ite_self, lasting_foldl, implies_true, lasting_eta, snd_ite, fst_ite,
    lasting_withVnr]

@[simp] theorem keep_noPoison (s : State) (stack : Nat) :
    (noPoison s stack).lasting = s.lasting := by
  unfold noPoison
  repeat' first
    | done
    | (simp only [
         lasting_ite, ite_self, lasting_foldl, implies_true, lasting_eta, snd_ite, fst_ite, lasting_withVnr]
       done)
    | split
    | (dsimp +zetaHave only; split)
    | (simp +zetaDelta only [
         lasting_ite, ite_self, lasting_foldl, implies_true, lasting_eta, snd_ite, fst_ite, lasting_withVnr]
       done)
    | rfl

@[simp] theorem keep_keptSwitches (s : State) (p : Nat) :
    (keptSwitches s p).lasting = s.lasting := by
  unfold keptSwitches
  repeat' first
    | done
    | (simp only [
         lasting_ite, ite_self, lasting_foldl, implies_true, lasting_eta, snd_ite, fst_ite, lasting_withPins]
       done)
    | split
    | (dsimp +zetaHave only; split)
    | (simp +zetaDelta only [
         lasting_ite, ite_self, lasting_foldl, implies_true, lasting_eta, snd_ite, fst_ite, lasting_withPins]
       done)
    | rfl

theorem lasts_resetBlock {o : Lasting} (s : State) (p : PageId) (h : Lasts o s.lasting) :
    Lasts o (resetBlock s p).lasting := by
  unfold resetBlock
  repeat' first
    | with_reducible exact h
    | with_reducible assumption
    | with_reducible apply lasts_ite'
    | with_reducible apply lasts_settlePreempt
    | (with_reducible apply lasts_foldl; intro _ _ _)
    | simp only [keep_State_setBundle, keep_State_setF, keep_State_setGauge, keep_State_setMeas, keep_State_setPort,
        keep_State_setTr, keep_clearKeyData, keep_emptyAllKeys, keep_keptSwitches, keep_lnTestWritten, keep_noPoison,
        keep_noSeal, keep_setSlot, lasting_withCap, lasting_withCyc, lasting_withNet, lasting_withPins,
        lasting_withTrg, lasting_withWd, keep_edgeSources, keep_untrain, lasting_eta, snd_ite, fst_ite]
    | ((with_reducible refine lasts_withLdr _ _ ?hf ?hr ?_); (case hf => rfl); (case hr => rfl))
    | with_reducible refine lasts_snd_eq ‹_ = (_, _)› ?_
    | with_reducible refine lasts_snd2_eq ‹_ = (_, _, _)› ?_
    | split
    | dsimp only

@[simp] theorem keep_resetReg (old : State) (p : PageId) (s : State) (off : Nat) :
    (resetReg old p s off).lasting = s.lasting := by
  unfold resetReg
  repeat' first
    | done
    | (simp only [
         lasting_ite, ite_self, lasting_foldl, implies_true, lasting_eta, snd_ite, fst_ite, keep_State_setReg]
       done)
    | split
    | (dsimp +zetaHave only; split)
    | (simp +zetaDelta only [
         lasting_ite, ite_self, lasting_foldl, implies_true, lasting_eta, snd_ite, fst_ite, keep_State_setReg]
       done)
    | rfl

@[simp] theorem keep_dropLows (s : State) (p : PageId) :
    (dropLows s p).lasting = s.lasting := by
  simp only [dropLows, lasting_ite, ite_self, lasting_foldl, implies_true, lasting_eta, snd_ite, fst_ite,
    lasting_withLows]

theorem lasts_pageReset {o : Lasting} (s : State) (p : PageId) (h : Lasts o s.lasting) :
    Lasts o (pageReset s p).lasting := by
  unfold pageReset
  repeat' first
    | with_reducible exact h
    | with_reducible assumption
    | with_reducible apply lasts_ite'
    | with_reducible apply lasts_resetBlock
    | (with_reducible apply lasts_foldl; intro _ _ _)
    | simp only [keep_dropLows, keep_resetReg, lasting_withCyc, lasting_eta, snd_ite, fst_ite]
    | ((with_reducible refine lasts_withLdr _ _ ?hf ?hr ?_); (case hf => rfl); (case hr => rfl))
    | with_reducible refine lasts_snd_eq ‹_ = (_, _)› ?_
    | with_reducible refine lasts_snd2_eq ‹_ = (_, _, _)› ?_
    | split
    | dsimp only

end Sys2Proof.Machine
end

