-- ==== Sys2Proof/Laws/KeepPower.lean ====
section
/-! SUPPORT. Which functions of Machine/Power.lean keep the lasting part of the state, and that what lasts lasts through the others. -/
set_option linter.unusedSimpArgs false

namespace Sys2Proof.Machine

@[simp] theorem keep_beginMove (s : State) (t : Nat) :
    (beginMove s t).lasting = s.lasting := by
  simp only [beginMove, lasting_ite, ite_self, lasting_foldl, implies_true, lasting_eta, snd_ite, fst_ite,
    lasting_withPwr, keep_State_setF]

@[simp] theorem keep_showL1 (s : State) (b : Bool) :
    (showL1 s b).lasting = s.lasting := by
  unfold showL1
  repeat' first
    | done
    | (simp only [
         lasting_ite, ite_self, lasting_foldl, implies_true, lasting_eta, snd_ite, fst_ite, keep_State_setF]
       done)
    | split
    | (dsimp +zetaHave only; split)
    | (simp +zetaDelta only [
         lasting_ite, ite_self, lasting_foldl, implies_true, lasting_eta, snd_ite, fst_ite, keep_State_setF]
       done)
    | rfl

theorem lasts_enterDormant {o : Lasting} (old : State) (cause : Nat) (h : Lasts o old.lasting) :
    Lasts o (enterDormant old cause).lasting := by
  unfold enterDormant
  repeat' first
    | with_reducible exact h
    | with_reducible assumption
    | with_reducible apply lasts_ite'
    | with_reducible apply lasts_bareReset
    | (with_reducible apply lasts_foldl; intro _ _ _)
    | simp only [keep_State_setReg, keep_showL1, lasting_withCyc, lasting_withPwr, lasting_eta, snd_ite, fst_ite]
    | ((with_reducible refine lasts_withLdr _ _ ?hf ?hr ?_); (case hf => rfl); (case hr => rfl))
    | with_reducible refine lasts_snd_eq ‹_ = (_, _)› ?_
    | with_reducible refine lasts_snd2_eq ‹_ = (_, _, _)› ?_
    | split
    | dsimp only

theorem lasts_forceDormant {o : Lasting} (s : State) (cause : Nat) (h : Lasts o s.lasting) :
    Lasts o (forceDormant s cause).lasting := by
  unfold forceDormant
  repeat' first
    | with_reducible exact h
    | with_reducible assumption
    | with_reducible apply lasts_ite'
    | with_reducible apply lasts_enterDormant
    | (with_reducible apply lasts_foldl; intro _ _ _)
    | simp only [keep_State_setF, lasting_withCyc, lasting_withPwr, lasting_eta, snd_ite, fst_ite]
    | ((with_reducible refine lasts_withLdr _ _ ?hf ?hr ?_); (case hf => rfl); (case hr => rfl))
    | with_reducible refine lasts_snd_eq ‹_ = (_, _)› ?_
    | with_reducible refine lasts_snd2_eq ‹_ = (_, _, _)› ?_
    | split
    | dsimp only

theorem lasts_vinFault {o : Lasting} (s : State) (cause : Nat) (h : Lasts o s.lasting) :
    Lasts o (vinFault s cause).lasting := by
  unfold vinFault
  repeat' first
    | with_reducible exact h
    | with_reducible assumption
    | with_reducible apply lasts_ite'
    | with_reducible apply lasts_enterDormant
    | with_reducible apply lasts_forceDormant
    | (with_reducible apply lasts_foldl; intro _ _ _)
    | simp only [lasting_withCyc, lasting_withPwr, lasting_eta, snd_ite, fst_ite]
    | ((with_reducible refine lasts_withLdr _ _ ?hf ?hr ?_); (case hf => rfl); (case hr => rfl))
    | with_reducible refine lasts_snd_eq ‹_ = (_, _)› ?_
    | with_reducible refine lasts_snd2_eq ‹_ = (_, _, _)› ?_
    | split
    | dsimp only

theorem lasts_vinUv {o : Lasting} (s : State) (h : Lasts o s.lasting) :
    Lasts o (vinUv s).lasting := by
  unfold vinUv
  repeat' first
    | with_reducible exact h
    | with_reducible assumption
    | with_reducible apply lasts_ite'
    | with_reducible apply lasts_vinFault
    | (with_reducible apply lasts_foldl; intro _ _ _)
    | simp only [lasting_withCyc, lasting_withPwr, lasting_eta, snd_ite, fst_ite]
    | ((with_reducible refine lasts_withLdr _ _ ?hf ?hr ?_); (case hf => rfl); (case hr => rfl))
    | with_reducible refine lasts_snd_eq ‹_ = (_, _)› ?_
    | with_reducible refine lasts_snd2_eq ‹_ = (_, _, _)› ?_
    | split
    | dsimp only

@[simp] theorem keep_vinLow (s : State) :
    (vinLow s).lasting = s.lasting := by
  simp only [vinLow, lasting_ite, ite_self, lasting_foldl, implies_true, lasting_eta, snd_ite, fst_ite, keep_raise]

theorem lasts_vstbyLoss {o : Lasting} (old : State) (h : Lasts o old.lasting) :
    Lasts o (vstbyLoss old).lasting := by
  unfold vstbyLoss
  repeat' first
    | with_reducible exact h
    | with_reducible assumption
    | with_reducible apply lasts_ite'
    | with_reducible apply lasts_bareReset
    | (with_reducible apply lasts_foldl; intro _ _ _)
    | simp only [lasting_withCyc, lasting_withPwr, lasting_eta, snd_ite, fst_ite]
    | ((with_reducible refine lasts_withLdr _ _ ?hf ?hr ?_); (case hf => rfl); (case hr => rfl))
    | with_reducible refine lasts_snd_eq ‹_ = (_, _)› ?_
    | with_reducible refine lasts_snd2_eq ‹_ = (_, _, _)› ?_
    | split
    | dsimp only

@[simp] theorem keep_beginWake (s : State) (code : Nat) :
    (beginWake s code).lasting = s.lasting := by
  simp only [beginWake, lasting_ite, ite_self, lasting_foldl, implies_true, lasting_eta, snd_ite, fst_ite,
    lasting_withPwr, keep_State_setF, keep_beginMove]

@[simp] theorem keep_wakeEvent (s : State) (code : Nat) :
    (wakeEvent s code).lasting = s.lasting := by
  unfold wakeEvent
  repeat' (first | (simp only [lasting_ite, ite_self, lasting_foldl, implies_true, lasting_eta, snd_ite, fst_ite,
    lasting_withPwr, keep_beginWake]; done) | split | rfl)

@[simp] theorem keep_wakePin (s : State) (k : Nat) :
    (wakePin s k).lasting = s.lasting := by
  simp only [wakePin, lasting_ite, ite_self, lasting_foldl, implies_true, lasting_eta, snd_ite, fst_ite, keep_raise,
    keep_wakeEvent]

@[simp] theorem keep_wakeTimer (s : State) :
    (wakeTimer s).lasting = s.lasting := by
  simp only [wakeTimer, lasting_ite, ite_self, lasting_foldl, implies_true, lasting_eta, snd_ite, fst_ite,
    keep_wakeEvent]

@[simp] theorem keep_bundleWake (s : State) (b : Nat) :
    (bundleWake s b).lasting = s.lasting := by
  unfold bundleWake
  repeat' first
    | done
    | (simp only [
         lasting_ite, ite_self, lasting_foldl, implies_true, lasting_eta, snd_ite, fst_ite, keep_wakeEvent]
       done)
    | split
    | (dsimp +zetaHave only; split)
    | (simp +zetaDelta only [
         lasting_ite, ite_self, lasting_foldl, implies_true, lasting_eta, snd_ite, fst_ite, keep_wakeEvent]
       done)
    | rfl

@[simp] theorem keep_vinRestored (s : State) :
    (vinRestored s).lasting = s.lasting := by
  simp only [vinRestored, lasting_ite, ite_self, lasting_foldl, implies_true, lasting_eta, snd_ite, fst_ite,
    lasting_withPwr, keep_wakeEvent]

theorem lasts_powerOn {o : Lasting} (s : State) (f : StartupFindings) (h : Lasts o s.lasting) :
    Lasts o (powerOn s f).lasting := by
  unfold powerOn
  repeat' first
    | with_reducible exact h
    | with_reducible assumption
    | with_reducible apply lasts_ite'
    | with_reducible apply lasts_startUp
    | (with_reducible apply lasts_foldl; intro _ _ _)
    | simp only [lasting_withCyc, lasting_eta, snd_ite, fst_ite]
    | ((with_reducible refine lasts_withLdr _ _ ?hf ?hr ?_); (case hf => rfl); (case hr => rfl))
    | with_reducible refine lasts_snd_eq ‹_ = (_, _)› ?_
    | with_reducible refine lasts_snd2_eq ‹_ = (_, _, _)› ?_
    | split
    | dsimp only

@[simp] theorem keep_refuseMove (s : State) (reason : Nat) :
    (refuseMove s reason).lasting = s.lasting := by
  simp only [refuseMove, lasting_ite, ite_self, lasting_foldl, implies_true, lasting_eta, snd_ite, fst_ite,
    keep_raise]

@[simp] theorem keep_examine (s : State) (t code : Nat) :
    (examine s t code).lasting = s.lasting := by
  unfold examine
  repeat' (first | (simp only [lasting_ite, ite_self, lasting_foldl, implies_true, lasting_eta, snd_ite, fst_ite,
    keep_beginMove, keep_wakeEvent, keep_refuseMove]; done) | split | rfl)

@[simp] theorem keep_powerRequest (s : State) (rq : Requester) (t : Nat) :
    (powerRequest s rq t).lasting = s.lasting := by
  unfold powerRequest
  repeat' first
    | done
    | (simp only [
         lasting_ite, ite_self, lasting_foldl, implies_true, lasting_eta, snd_ite, fst_ite, keep_State_setF,
         keep_examine, keep_refuseMove, lasting_withPwr]
       done)
    | split
    | (dsimp +zetaHave only; split)
    | (simp +zetaDelta only [
         lasting_ite, ite_self, lasting_foldl, implies_true, lasting_eta, snd_ite, fst_ite, keep_State_setF,
         keep_examine, keep_refuseMove, lasting_withPwr]
       done)
    | rfl

@[simp] theorem keep_enterIdle (s : State) :
    (enterIdle s).lasting = s.lasting := by
  simp only [enterIdle, lasting_ite, ite_self, lasting_foldl, implies_true, lasting_eta, snd_ite, fst_ite,
    keep_State_setF, keep_bndStops, keep_clockStops]

@[simp] theorem keep_leaveIdle (s : State) :
    (leaveIdle s).lasting = s.lasting := by
  unfold leaveIdle
  repeat' first
    | done
    | (simp only [
         lasting_ite, ite_self, lasting_foldl, implies_true, lasting_eta, snd_ite, fst_ite, keep_State_setF,
         keep_beginTraining, keep_restBundle, keep_untrain]
       done)
    | split
    | (dsimp +zetaHave only; split)
    | (simp +zetaDelta only [
         lasting_ite, ite_self, lasting_foldl, implies_true, lasting_eta, snd_ite, fst_ite, keep_State_setF,
         keep_beginTraining, keep_restBundle, keep_untrain]
       done)
    | rfl

theorem lasts_enterRetain {o : Lasting} (s : State) (h : Lasts o s.lasting) :
    Lasts o (enterRetain s).lasting := by
  unfold enterRetain
  repeat' first
    | with_reducible exact h
    | with_reducible assumption
    | with_reducible apply lasts_ite'
    | with_reducible apply lasts_traceDrain
    | (with_reducible apply lasts_foldl; intro _ _ _)
    | simp only [keep_State_setF, keep_showL1, keep_traceSleep, lasting_withCyc, lasting_withPwr, lasting_eta,
        snd_ite, fst_ite]
    | ((with_reducible refine lasts_withLdr _ _ ?hf ?hr ?_); (case hf => rfl); (case hr => rfl))
    | with_reducible refine lasts_snd_eq ‹_ = (_, _)› ?_
    | with_reducible refine lasts_snd2_eq ‹_ = (_, _, _)› ?_
    | split
    | dsimp only

theorem lasts_restartCore {o : Lasting} (s : State) (c : Nat) (h : Lasts o s.lasting) :
    Lasts o (restartCore s c).lasting := by
  unfold restartCore
  repeat' first
    | with_reducible exact h
    | with_reducible assumption
    | with_reducible apply lasts_ite'
    | with_reducible apply lasts_itemLost
    | with_reducible apply lasts_settlePreempt
    | (with_reducible apply lasts_foldl; intro _ _ _)
    | simp only [keep_coreStart, keep_orphan, lasting_withCyc, lasting_eta, snd_ite, fst_ite]
    | ((with_reducible refine lasts_withLdr _ _ ?hf ?hr ?_); (case hf => rfl); (case hr => rfl))
    | with_reducible refine lasts_snd_eq ‹_ = (_, _)› ?_
    | with_reducible refine lasts_snd2_eq ‹_ = (_, _, _)› ?_
    | split
    | dsimp only

theorem lasts_leaveRetain {o : Lasting} (s : State) (h : Lasts o s.lasting) :
    Lasts o (leaveRetain s).lasting := by
  unfold leaveRetain
  repeat' first
    | with_reducible exact h
    | with_reducible assumption
    | with_reducible apply lasts_ite'
    | with_reducible apply lasts_restartCore
    | (with_reducible apply lasts_foldl; intro _ _ _)
    | simp only [keep_State_setF, keep_gaugesStopped, keep_raise, keep_showL1, keep_traceLost, lasting_withCyc,
        lasting_eta, snd_ite, fst_ite]
    | ((with_reducible refine lasts_withLdr _ _ ?hf ?hr ?_); (case hf => rfl); (case hr => rfl))
    | with_reducible refine lasts_snd_eq ‹_ = (_, _)› ?_
    | with_reducible refine lasts_snd2_eq ‹_ = (_, _, _)› ?_
    | split
    | dsimp only

@[simp] theorem keep_afterMove (s : State) :
    (afterMove s).lasting = s.lasting := by
  simp only [afterMove, lasting_ite, ite_self, lasting_foldl, implies_true, lasting_eta, snd_ite, fst_ite,
    lasting_withPwr, keep_State_setF, keep_wakeEvent, keep_examine]
  repeat' (first | (simp only [lasting_ite, ite_self, lasting_foldl, implies_true, lasting_eta, snd_ite, fst_ite,
    lasting_withPwr, keep_State_setF, keep_wakeEvent, keep_examine]; done) | split | rfl)

theorem lasts_transitionEnd {o : Lasting} (s : State) (h : Lasts o s.lasting) :
    Lasts o (transitionEnd s).lasting := by
  unfold transitionEnd
  repeat' first
    | with_reducible exact h
    | with_reducible assumption
    | with_reducible apply lasts_ite'
    | with_reducible apply lasts_enterDormant
    | with_reducible apply lasts_enterRetain
    | with_reducible apply lasts_leaveRetain
    | (with_reducible apply lasts_foldl; intro _ _ _)
    | simp only [keep_State_setF, keep_afterMove, keep_beginWake, keep_enterIdle, keep_leaveIdle, lasting_withCyc,
        lasting_withPwr, lasting_eta, snd_ite, fst_ite]
    | ((with_reducible refine lasts_withLdr _ _ ?hf ?hr ?_); (case hf => rfl); (case hr => rfl))
    | with_reducible refine lasts_snd_eq ‹_ = (_, _)› ?_
    | with_reducible refine lasts_snd2_eq ‹_ = (_, _, _)› ?_
    | split
    | dsimp only

@[simp] theorem keep_holdReached (s : State) :
    (holdReached s).lasting = s.lasting := by
  unfold holdReached
  repeat' first
    | done
    | (simp only [
         lasting_ite, ite_self, lasting_foldl, implies_true, lasting_eta, snd_ite, fst_ite, keep_State_setF,
         keep_State_setReg]
       done)
    | split
    | (dsimp +zetaHave only; split)
    | (simp +zetaDelta only [
         lasting_ite, ite_self, lasting_foldl, implies_true, lasting_eta, snd_ite, fst_ite, keep_State_setF,
         keep_State_setReg]
       done)
    | rfl

@[simp] theorem keep_startupEnd (s : State) :
    (startupEnd s).lasting = s.lasting := by
  unfold startupEnd
  repeat' first
    | done
    | (simp only [
         lasting_ite, ite_self, lasting_foldl, implies_true, lasting_eta, snd_ite, fst_ite, keep_State_setF,
         keep_afterMove, keep_beginStart, keep_holdReached, keep_startReports, keep_traceLost,
         keep_wakeReports, lasting_withCyc, lasting_withPwr, lasting_withTicks]
       done)
    | split
    | (dsimp +zetaHave only; split)
    | (simp +zetaDelta only [
         lasting_ite, ite_self, lasting_foldl, implies_true, lasting_eta, snd_ite, fst_ite, keep_State_setF,
         keep_afterMove, keep_beginStart, keep_holdReached, keep_startReports, keep_traceLost,
         keep_wakeReports, lasting_withCyc, lasting_withPwr, lasting_withTicks]
       done)
    | rfl

@[simp] theorem keep_capSample (s : State) :
    (capSample s).lasting = s.lasting := by
  simp only [capSample, lasting_ite, ite_self, lasting_foldl, implies_true, lasting_eta, snd_ite, fst_ite,
    keep_State_setF, keep_State_bump, keep_raise]

@[simp] theorem keep_powerSample (s : State) (m : PowerReading) :
    (powerSample s m).lasting = s.lasting := by
  simp only [powerSample, lasting_ite, ite_self, lasting_foldl, implies_true, lasting_eta, snd_ite, fst_ite,
    lasting_withPwr, keep_State_setReg, keep_State_setReg64, keep_capSample]

@[simp] theorem keep_showTemp (s : State) (t : List (Option (BitVec 16))) (i : Nat) :
    (showTemp s t i).lasting = s.lasting := by
  unfold showTemp
  repeat' (first | (simp only [lasting_ite, ite_self, lasting_foldl, implies_true, lasting_eta, snd_ite, fst_ite,
    keep_State_setReg, keep_State_setF]; done) | split | rfl)

@[simp] theorem keep_thermSample (s : State) (t : List (Option (BitVec 16))) :
    (thermSample s t).1.lasting = s.lasting := by
  unfold thermSample
  repeat' (first | (simp only [lasting_ite, ite_self, lasting_foldl, implies_true, lasting_eta, snd_ite, fst_ite,
    keep_State_setF]; done) | split | rfl)

@[simp] theorem keep_thermalShow (s : State) (t : List (Option (BitVec 16))) :
    (thermalShow s t).lasting = s.lasting := by
  simp only [thermalShow, lasting_ite, ite_self, lasting_foldl, implies_true, lasting_eta, snd_ite, fst_ite,
    keep_State_setReg, keep_raise, keep_showTemp, keep_thermSample]
  repeat' (first | (simp only [lasting_ite, ite_self, lasting_foldl, implies_true, lasting_eta, snd_ite, fst_ite,
    keep_State_setReg, keep_raise, keep_showTemp, keep_thermSample]; done) | split | rfl)

theorem lasts_thermalSample {o : Lasting} (s : State) (t : List (Option (BitVec 16))) (h : Lasts o s.lasting) :
    Lasts o (thermalSample s t).lasting := by
  unfold thermalSample
  repeat' first
    | with_reducible exact h
    | with_reducible assumption
    | with_reducible apply lasts_ite'
    | with_reducible apply lasts_forceDormant
    | (with_reducible apply lasts_foldl; intro _ _ _)
    | simp only [keep_State_setReg, keep_thermalShow, lasting_withCyc, lasting_withPwr, lasting_eta, snd_ite, fst_ite]
    | ((with_reducible refine lasts_withLdr _ _ ?hf ?hr ?_); (case hf => rfl); (case hr => rfl))
    | with_reducible refine lasts_snd_eq ‹_ = (_, _)› ?_
    | with_reducible refine lasts_snd2_eq ‹_ = (_, _, _)› ?_
    | split
    | dsimp only

@[simp] theorem keep_stepClkChanged (s : State) :
    (stepClkChanged s).lasting = s.lasting := by
  unfold stepClkChanged
  repeat' first
    | done
    | (simp only [
         lasting_ite, ite_self, lasting_foldl, implies_true, lasting_eta, snd_ite, fst_ite, keep_beginTraining,
         keep_eqAgain, keep_leaveTo, keep_setMhz]
       done)
    | split
    | (dsimp +zetaHave only; split)
    | (simp +zetaDelta only [
         lasting_ite, ite_self, lasting_foldl, implies_true, lasting_eta, snd_ite, fst_ite, keep_beginTraining,
         keep_eqAgain, keep_leaveTo, keep_setMhz]
       done)
    | rfl

end Sys2Proof.Machine
end

