-- ==== Sys2Proof/Laws/KeepTick.lean ====
section
/-! SUPPORT. Which functions of Machine/Tick.lean keep the lasting part of the state, and that what lasts lasts through the others. -/
set_option linter.unusedSimpArgs false

namespace Sys2Proof.Machine

@[simp] theorem keep_countCycle (s : State) (c : Nat) :
    (countCycle s c).lasting = s.lasting := by
  unfold countCycle
  repeat' first
    | done
    | (simp only [
         lasting_ite, ite_self, lasting_foldl, implies_true, lasting_eta, snd_ite, fst_ite, keep_State_setCore]
       done)
    | split
    | (dsimp +zetaHave only; split)
    | (simp +zetaDelta only [
         lasting_ite, ite_self, lasting_foldl, implies_true, lasting_eta, snd_ite, fst_ite, keep_State_setCore]
       done)
    | rfl

theorem lasts_tick {o : Lasting} (s : State) (t : TargetLevels) (h : Lasts o s.lasting) :
    Lasts o (tick s t).lasting := by
  unfold tick
  repeat' first
    | with_reducible exact h
    | with_reducible assumption
    | with_reducible apply lasts_ite'
    | with_reducible apply lasts_traceDrain
    | (with_reducible apply lasts_foldl; intro _ _ _)
    | simp only [keep_countCycle, keep_drawerSettles, keep_referenceTick, lasting_withCyc, lasting_withHst,
        lasting_withPwr, lasting_withWd, lasting_eta, snd_ite, fst_ite]
    | ((with_reducible refine lasts_withLdr _ _ ?hf ?hr ?_); (case hf => rfl); (case hr => rfl))
    | with_reducible refine lasts_snd_eq ‹_ = (_, _)› ?_
    | with_reducible refine lasts_snd2_eq ‹_ = (_, _, _)› ?_
    | split
    | dsimp only

end Sys2Proof.Machine
end

