-- ==== Sys2Proof/Laws/KeepRegRead.lean ====
section
/-! SUPPORT. Which functions of Machine/RegRead.lean keep the lasting part of the state, and that what lasts lasts through the others. -/
set_option linter.unusedSimpArgs false

namespace Sys2Proof.Machine

@[simp] theorem keep_State_setHeld (s : State) (rq : Requester) (v : Option (Nat × Word)) :
    (State.setHeld s rq v).lasting = s.lasting := by
  simp only [State.setHeld, lasting_ite, ite_self, lasting_foldl, implies_true, lasting_eta, snd_ite, fst_ite,
    lasting_withHold]

@[simp] theorem keep_readBy (s : State) (rq : Requester) (p : PageId) (off : Nat) :
    (readBy s rq p off).2.lasting = s.lasting := by
  unfold readBy
  repeat' (first | (simp only [lasting_ite, ite_self, lasting_foldl, implies_true, lasting_eta, snd_ite, fst_ite,
    keep_State_setHeld]; done) | split | rfl)

end Sys2Proof.Machine
end

