-- ==== Sys2Proof/Laws/KeepRegWrite.lean ====
section
/-! SUPPORT. Which functions of Machine/RegWrite.lean keep the lasting part of the state, and that what lasts lasts through the others. -/
set_option linter.unusedSimpArgs false

namespace Sys2Proof.Machine

@[simp] theorem keep_clearSticky (s : State) (p : PageId) (x : Word) :
    (clearSticky s p x).lasting = s.lasting := by
  unfold clearSticky
  repeat' first
    | done
    | (simp only [
         lasting_ite, ite_self, lasting_foldl, implies_true, lasting_eta, snd_ite, fst_ite, keep_State_setReg]
       done)
    | split
    | (dsimp +zetaHave only; split)
    | (simp +zetaDelta only [
         lasting_ite, ite_self, lasting_foldl, implies_true, lasting_eta, snd_ite, fst_ite, keep_State_setReg]
       done)
    | rfl

@[simp] theorem keep_clearFirst (s : State) (p : PageId) :
    (clearFirst s p).lasting = s.lasting := by
  unfold clearFirst
  repeat' first
    | done
    | (simp only [
         lasting_ite, ite_self, lasting_foldl, implies_true, lasting_eta, snd_ite, fst_ite, keep_State_mark,
         keep_State_setReg, keep_State_setReg64]
       done)
    | split
    | (dsimp +zetaHave only; split)
    | (simp +zetaDelta only [
         lasting_ite, ite_self, lasting_foldl, implies_true, lasting_eta, snd_ite, fst_ite, keep_State_mark,
         keep_State_setReg, keep_State_setReg64]
       done)
    | rfl

@[simp] theorem keep_clearSecond (s : State) (p : PageId) :
    (clearSecond s p).lasting = s.lasting := by
  simp only [clearSecond, lasting_ite, ite_self, lasting_foldl, implies_true, lasting_eta, snd_ite, fst_ite,
    keep_State_setReg, keep_State_setReg64]

theorem lasts_softReset {o : Lasting} (s : State) (p : PageId) (wasLocked : Bool) (h : Lasts o s.lasting) :
    Lasts o (softReset s p wasLocked).lasting := by
  unfold softReset
  repeat' first
    | with_reducible exact h
    | with_reducible assumption
    | with_reducible apply lasts_ite'
    | with_reducible apply lasts_pageReset
    | (with_reducible apply lasts_foldl; intro _ _ _)
    | simp only [keep_raise, lasting_withCyc, lasting_eta, snd_ite, fst_ite]
    | ((with_reducible refine lasts_withLdr _ _ ?hf ?hr ?_); (case hf => rfl); (case hr => rfl))
    | with_reducible refine lasts_snd_eq ‹_ = (_, _)› ?_
    | with_reducible refine lasts_snd2_eq ‹_ = (_, _, _)› ?_
    | split
    | dsimp only

theorem lasts_ctlWritten {o : Lasting} (s : State) (p : PageId) (w : Write) (oldEn wasLocked : Bool) (h : Lasts o
    s.lasting) :
    Lasts o (ctlWritten s p w oldEn wasLocked).lasting := by
  unfold ctlWritten
  repeat' first
    | with_reducible exact h
    | with_reducible assumption
    | with_reducible apply lasts_ite'
    | with_reducible apply lasts_enWritten
    | with_reducible apply lasts_softReset
    | (with_reducible apply lasts_foldl; intro _ _ _)
    | simp only [keep_State_setF, lasting_withCyc, lasting_eta, snd_ite, fst_ite]
    | ((with_reducible refine lasts_withLdr _ _ ?hf ?hr ?_); (case hf => rfl); (case hr => rfl))
    | with_reducible refine lasts_snd_eq ‹_ = (_, _)› ?_
    | with_reducible refine lasts_snd2_eq ‹_ = (_, _, _)› ?_
    | split
    | dsimp only

@[simp] theorem keep_dropLow (s : State) (p : PageId) (off : Nat) :
    (dropLow s p off).lasting = s.lasting := by
  simp only [dropLow, lasting_ite, ite_self, lasting_foldl, implies_true, lasting_eta, snd_ite, fst_ite,
    lasting_withLows]

@[simp] theorem keep_holdLow (s : State) (p : PageId) (off : Nat) (v : Word) :
    (holdLow s p off v).lasting = s.lasting := by
  simp only [holdLow, lasting_ite, ite_self, lasting_foldl, implies_true, lasting_eta, snd_ite, fst_ite,
    lasting_withLows]

@[simp] theorem keep_splitHigh (s : State) (p : PageId) (off : Nat) (v : Word) :
    (splitHigh s p off v).lasting = s.lasting := by
  unfold splitHigh; split <;> simp

@[simp] theorem keep_hostHoldWritten (s : State) :
    (hostHoldWritten s).lasting = s.lasting := by
  simp only [hostHoldWritten, lasting_ite, ite_self, lasting_foldl, implies_true, lasting_eta, snd_ite, fst_ite,
    lasting_mixLdr, lasting_withLdr, keep_State_setF]

@[simp] theorem keep_bndWritten (s : State) (b off : Nat) (w : Write) (old : Word) :
    (bndWritten s b off w old).lasting = s.lasting := by
  simp only [bndWritten, lasting_ite, ite_self, lasting_foldl, implies_true, lasting_eta, snd_ite, fst_ite,
    keep_State_setF, keep_meshSend, keep_meshPop, keep_bndRetrain, keep_bndFailover, keep_trainEnWritten,
    keep_clkChanged, keep_injArm]

@[simp] theorem keep_pinWritten (s : State) (p : Nat) (off : Nat) (w : Write) (old : Word) (oldFn : Nat → Nat) :
    (pinWritten s p off w old oldFn).lasting = s.lasting := by
  unfold pinWritten
  repeat' first
    | done
    | (simp only [
         lasting_ite, ite_self, lasting_foldl, implies_true, lasting_eta, snd_ite, fst_ite, keep_edgeSources, keep_fnWritten,
         keep_gpioWritten, keep_i2cStart, keep_uartDrop, keep_uartSend, keep_writeLock, keep_writeLockKey]
       done)
    | split
    | (dsimp +zetaHave only; split)
    | (simp +zetaDelta only [
         lasting_ite, ite_self, lasting_foldl, implies_true, lasting_eta, snd_ite, fst_ite, keep_edgeSources, keep_fnWritten,
         keep_gpioWritten, keep_i2cStart, keep_uartDrop, keep_uartSend, keep_writeLock, keep_writeLockKey]
       done)
    | rfl

@[simp] theorem keep_vnrWritten (s : State) (k off : Nat) (w : Write) (old : Word) :
    (vnrWritten s k off w old).lasting = s.lasting := by
  simp only [vnrWritten]; (repeat' split) <;> simp

@[simp] theorem keep_gauWritten (s : State) (k off : Nat) (w : Write) (old : Word) :
    (gauWritten s k off w old).lasting = s.lasting := by
  unfold gauWritten
  repeat' first
    | done
    | (simp only [
         lasting_ite, ite_self, lasting_foldl, implies_true, lasting_eta, snd_ite, fst_ite, keep_gauArm,
         keep_gauDisarm, keep_sourceWritten]
       done)
    | split
    | (dsimp +zetaHave only; split)
    | (simp +zetaDelta only [
         lasting_ite, ite_self, lasting_foldl, implies_true, lasting_eta, snd_ite, fst_ite, keep_gauArm,
         keep_gauDisarm, keep_sourceWritten]
       done)
    | rfl

@[simp] theorem keep_trgWritten (s : State) (off : Nat) (w : Write) (old : Word) :
    (trgWritten s off w old).lasting = s.lasting := by
  simp only [trgWritten, lasting_ite, ite_self, lasting_foldl, implies_true, lasting_eta, snd_ite, fst_ite,
    keep_blocksAfresh, keep_trgArm]

@[simp] theorem keep_capWritten (s : State) (off : Nat) (w : Write) (old : Word) :
    (capWritten s off w old).lasting = s.lasting := by
  simp only [capWritten, lasting_ite, ite_self, lasting_foldl, implies_true, lasting_eta, snd_ite, fst_ite,
    keep_capArm, keep_snapStart, keep_restoreStart]

@[simp] theorem keep_measWritten (s : State) (k off : Nat) (old : Word) :
    (measWritten s k off old).lasting = s.lasting := by
  simp only [measWritten, lasting_ite, ite_self, lasting_foldl, implies_true, lasting_eta, snd_ite, fst_ite,
    keep_measArm]

@[simp] theorem keep_trcWritten (s : State) (c off : Nat) (w : Write) (old : Word) :
    (trcWritten s c off w old).lasting = s.lasting := by
  unfold trcWritten
  repeat' first
    | done
    | (simp only [
         lasting_ite, ite_self, lasting_foldl, implies_true, lasting_eta, snd_ite, fst_ite, keep_traceRun,
         keep_traceStop, keep_traceTrigger]
       done)
    | split
    | (dsimp +zetaHave only; split)
    | (simp +zetaDelta only [
         lasting_ite, ite_self, lasting_foldl, implies_true, lasting_eta, snd_ite, fst_ite, keep_traceRun,
         keep_traceStop, keep_traceTrigger]
       done)
    | rfl

@[simp] theorem keep_rprWritten (s : State) (off : Nat) (w : Write) :
    (rprWritten s off w).lasting = s.lasting := by
  simp only [rprWritten, lasting_ite, ite_self, lasting_foldl, implies_true, lasting_eta, snd_ite, fst_ite,
    keep_firmwareMark]

@[simp] theorem keep_clpWritten (s : State) (off : Nat) (w : Write) :
    (clpWritten s off w).lasting = s.lasting := by
  simp only [clpWritten, lasting_ite, ite_self, lasting_foldl, implies_true, lasting_eta, snd_ite, fst_ite,
    keep_releaseFault, keep_releaseStopif, keep_releaseTrigStop, keep_hostHoldWritten]

@[simp] theorem keep_ackAlarm (s : State) (i : Nat) :
    (ackAlarm s i).lasting = s.lasting := by
  simp only [ackAlarm, lasting_ite, ite_self, lasting_foldl, implies_true, lasting_eta, snd_ite, fst_ite,
    lasting_withAlarms]

theorem lasts_ccWritten {o : Lasting} (s : State) (c off : Nat) (w : Write) (h : Lasts o s.lasting) :
    Lasts o (ccWritten s c off w).lasting := by
  unfold ccWritten
  repeat' first
    | with_reducible exact h
    | with_reducible assumption
    | with_reducible apply lasts_ite'
    | with_reducible apply lasts_commitPost
    | with_reducible apply lasts_settlePreempt
    | with_reducible apply lasts_wdDone
    | (with_reducible apply lasts_foldl; intro _ _ _)
    | simp only [keep_ackAlarm, lasting_withCyc, lasting_eta, snd_ite, fst_ite]
    | ((with_reducible refine lasts_withLdr _ _ ?hf ?hr ?_); (case hf => rfl); (case hr => rfl))
    | with_reducible refine lasts_snd_eq ‹_ = (_, _)› ?_
    | with_reducible refine lasts_snd2_eq ‹_ = (_, _, _)› ?_
    | split
    | dsimp only

theorem lasts_wdWritten {o : Lasting} (s : State) (off : Nat) (w : Write) (h : Lasts o s.lasting) :
    Lasts o (wdWritten s off w).lasting := by
  unfold wdWritten
  repeat' first
    | with_reducible exact h
    | with_reducible assumption
    | with_reducible apply lasts_ite'
    | with_reducible apply lasts_commitPost
    | with_reducible apply lasts_settlePreempt
    | (with_reducible apply lasts_foldl; intro _ _ _)
    | simp only [keep_delayWritten, lasting_withCyc, lasting_eta, snd_ite, fst_ite]
    | ((with_reducible refine lasts_withLdr _ _ ?hf ?hr ?_); (case hf => rfl); (case hr => rfl))
    | with_reducible refine lasts_snd_eq ‹_ = (_, _)› ?_
    | with_reducible refine lasts_snd2_eq ‹_ = (_, _, _)› ?_
    | split
    | dsimp only

@[simp] theorem keep_hstWritten (s : State) (off : Nat) (w : Write) :
    (hstWritten s off w).lasting = s.lasting := by
  unfold hstWritten
  repeat' (first | (simp only [lasting_ite, ite_self, lasting_foldl, implies_true, lasting_eta, snd_ite, fst_ite,
    keep_State_setReg, keep_vectorEvent, keep_ackAlarm]; done) | split | rfl)

@[simp] theorem keep_ringWritten (s : State) (inst off : Nat) (old : Word) :
    (ringWritten s inst off old).lasting = s.lasting := by
  unfold ringWritten
  repeat' (first | (simp only [lasting_ite, ite_self, lasting_foldl, implies_true, lasting_eta, snd_ite, fst_ite,
    lasting_withOldRoutes]; done) | split | rfl)

@[simp] theorem keep_releaseVector (s : State) (v : Nat) :
    (releaseVector s v).lasting = s.lasting := by
  simp only [releaseVector, lasting_ite, ite_self, lasting_foldl, implies_true, lasting_eta, snd_ite, fst_ite,
    keep_vectorEvent]

@[simp] theorem keep_writeMsix (s : State) (off : Nat) (w : Write) :
    (writeMsix s off w).lasting = s.lasting := by
  simp only [writeMsix, lasting_ite, ite_self, lasting_foldl, implies_true, lasting_eta, snd_ite, fst_ite,
    lasting_withHst, keep_releaseVector]

@[simp] theorem keep_writeWindow (s : State) (p : PageId) (off : Nat) (be : BitVec 4) (w : Write) :
    (writeWindow s p off be w).lasting = s.lasting := by
  unfold writeWindow
  repeat' (first | (simp only [lasting_ite, ite_self, lasting_foldl, implies_true, lasting_eta, snd_ite, fst_ite,
    keep_raise, keep_drawerWindow, keep_writeMsix]; done) | split | rfl)

end Sys2Proof.Machine
end

