-- ==== Sys2Proof/Laws/Lasts.lean ====
section
/-! SUPPORT. What lasts through the functions that may burn or retire a key slot: register writes. -/
set_option linter.unusedSimpArgs false

namespace Sys2Proof.Machine

/-- BURN programs only a slot that holds no key. -/
theorem lasts_keyBurn {o : Lasting} (s : State) (slot : Nat) (h : Lasts o s.lasting) :
    Lasts o (keyBurn s slot).lasting := by
  unfold keyBurn
  split
  · simpa [keyFail] using h
  · rename_i hn
    refine h.trans ⟨rfl, rfl, rfl, ?_, fun _ e => e, fun e => e⟩
    intro i key hk
    by_cases hi : i = slot
    · subst hi
      simp only [State.lasting] at hk
      simp [hk] at hn
    · change Tab.get (fun _ => none) (Tab.set (fun _ => none) s.ldr.fuses slot (some s.ldr.keyData)) i = some key
      rw [Tab.get_set_other _ _ hi]
      exact hk

/-- RETIRE only adds to the retired slots. -/
theorem lasts_keySlotRetire {o : Lasting} (s : State) (slot : Nat) (h : Lasts o s.lasting) :
    Lasts o (keySlotRetire s slot).lasting := by
  refine h.trans ⟨rfl, rfl, rfl, fun _ _ e => e, ?_, fun e => e⟩
  intro i e
  simp only [State.lasting] at e
  simp [keySlotRetire, State.lasting, State.withLdr, e]

theorem lasts_ldrWritten {o : Lasting} (s : State) (off : Nat) (w : Write) (h : Lasts o s.lasting) :
    Lasts o (ldrWritten s off w).lasting := by
  unfold ldrWritten
  split
  · repeat' first
      | with_reducible exact h
      | with_reducible apply lasts_ite'
      | with_reducible apply lasts_ldrGo
      | with_reducible apply lasts_ldrEnd
      | with_reducible apply lasts_ldrAbort
      | simp only [keep_ldrCommit]
      | dsimp only
      | split
  · split
    · generalize s.f ldrPg 0x74 1 0 = slot
      have h1 : Lasts o (if w.has 8 = true then keyBurn s slot else s).lasting :=
        lasts_when _ (fun t => keyBurn t slot) s h (fun t => lasts_keyBurn t slot)
      have h2 := lasts_when (w.has 9) (fun t => keySlotRetire t slot) _ h1 (fun t => lasts_keySlotRetire t slot)
      dsimp only
      split <;> (repeat' split) <;> simp_all
    · split
      · exact h
      · exact h

/-- A write of a DRW_ register. -/
theorem lasts_drwWritten {o : Lasting} (s : State) (off : Nat) (w : Write) (f : Option StartupFindings) (h : Lasts o s.lasting) :
    Lasts o (if off = 0x40 then (if w.has 0 then drawerCommit s else s)
      else if off = 0x4c then (if w.mask = 0 then s else drwRst s w.rq w.x f) else s).lasting :=
  lasts_ite' (lasts_ite' (by simpa only [keep_drawerCommit] using h) h)
    (lasts_ite' (lasts_ite' h (lasts_drwRst _ _ _ _ h)) h)

theorem lasts_blockWritten {o : Lasting} (s : State) (p : PageId) (off : Nat) (w : Write) (old : Word)
    (oldFn : Nat → Nat) (f : Option StartupFindings) (h : Lasts o s.lasting) :
    Lasts o (blockWritten s p off w old oldFn f).lasting := by
  unfold blockWritten
  split
  all_goals first
    | with_reducible exact h
    | with_reducible exact lasts_ldrWritten _ _ _ h
    | with_reducible exact lasts_ccWritten _ _ _ _ h
    | with_reducible exact lasts_wdWritten _ _ _ h
    | with_reducible exact lasts_drwWritten s off w f h
    | (simp only [keep_hstWritten, keep_rprWritten, keep_clpWritten, keep_vnrWritten, keep_bndWritten, keep_gauWritten,
        keep_trgWritten, keep_capWritten, keep_measWritten, keep_trcWritten,
        keep_ringWritten, keep_pinWritten]; with_reducible exact h)
    | (simp only [lasting_ite, keep_retrain, keep_powerRequest, keep_stepClkChanged, keep_State_setReg,
        keep_drawerCommit, keep_lnTestWritten, keep_lnInject, keep_State_send, keep_edgeSources, ite_self]; with_reducible exact h)

theorem lasts_applyWrite {o : Lasting} (s : State) (p : PageId) (off : Nat) (w : Write) (v : Word) (f : Option StartupFindings)
    (h : Lasts o s.lasting) : Lasts o (applyWrite s p off w v f).lasting := by
  unfold applyWrite
  dsimp only
  split
  · split
    · exact lasts_ctlWritten _ _ _ _ _ (by simpa only [keep_State_setReg] using h)
    all_goals
      simp only [lasting_ite, keep_clearSticky, keep_clearFirst, keep_clearSecond, keep_State_setReg, ite_self]
      exact h
  · exact lasts_blockWritten _ _ _ _ _ _ _ (by simpa only [keep_State_setReg] using h)

theorem lasts_writeField {o : Lasting} (s : State) (p : PageId) (off : Nat) (w : Write) (f : Option StartupFindings)
    (h : Lasts o s.lasting) : Lasts o (writeField s p off w f).lasting := by
  unfold writeField
  dsimp only
  rw [keep_raiseAll]
  exact lasts_applyWrite _ _ _ _ _ _ h

theorem lasts_writeAt {o : Lasting} (s : State) (rq : Requester) (p : PageId) (off : Nat) (be : BitVec 4) (v : Word)
    (m : Bool) (f : Option StartupFindings) (h : Lasts o s.lasting) : Lasts o (writeAt s rq p off be v m f).lasting := by
  unfold writeAt
  dsimp only
  with_reducible apply lasts_ite' h
  with_reducible apply lasts_ite'
  · with_reducible apply lasts_ite' h
    simpa only [keep_raise] using h
  · split
    · simpa only [keep_writeWindow] using h
    · repeat' (with_reducible apply lasts_ite')
      all_goals first
        | with_reducible exact lasts_writeField _ _ _ _ _ h
        | with_reducible exact lasts_writeWrPtr _ _ h
        | simpa only [keep_raise, keep_raiseAll, keep_holdLow, keep_splitHigh] using h

theorem lasts_writeReg {o : Lasting} (s : State) (rq : Requester) (p : PageId) (off : Nat) (be : BitVec 4) (v : Word)
    (m : Bool) (f : Option StartupFindings) (h : Lasts o s.lasting) : Lasts o (writeReg s rq p off be v m f).lasting := by
  simp only [writeReg, lasting_ite, keep_keepTick, ite_self]
  exact lasts_writeAt _ _ _ _ _ _ _ _ h

theorem lasts_writeAll {o : Lasting} (s : State) (rq : Requester) (code off : Nat) (be : BitVec 4) (v : Word) (m : Bool)
    (h : Lasts o s.lasting) : Lasts o (writeAll s rq code off be v m).lasting := by
  unfold writeAll
  split
  · refine lasts_ite' h ?_
    simpa only [keep_raise] using h
  · exact lasts_foldl _ _ _ (fun t p ht => lasts_writeReg t rq p off be v m _ ht) h

theorem lasts_regWrite {o : Lasting} (s : State) (rq : Requester) (p : PageId) (off : Nat) (be : BitVec 4) (v : Word)
    (f : Option StartupFindings) (h : Lasts o s.lasting) : Lasts o (regWrite s rq p off be v f).lasting := by
  unfold regWrite
  exact lasts_ite' (lasts_writeReg _ _ _ _ _ _ _ _ h) h

theorem lasts_regPut {o : Lasting} (s : State) (rq : Requester) (p : PageId) (off v : Nat) (h : Lasts o s.lasting) :
    Lasts o (regPut s rq p off v).lasting := lasts_regWrite _ _ _ _ _ _ _ h

end Sys2Proof.Machine
end

