-- ==== Sys2Proof/Laws/LastsCmd.lean ====
section
/-! SUPPORT. What lasts through the functions of Machine/Commit, RegCmds, Ring, HostLink and Tap. -/
set_option linter.unusedSimpArgs false

namespace Sys2Proof.Machine

/-! ### Commit -/

@[simp] theorem keep_ldrSet (s : State) (p : PageId) (off v : Nat) : (ldrSet s p off v).lasting = s.lasting :=
  (keep_tripWrite _ _ _ _ _ _ _ (fun t => keep_State_setReg t ..)).trans (keep_awaitBuffer ..)

@[simp] theorem keep_ldrSetF (s : State) (p : PageId) (off hi lo v : Nat) :
    (ldrSetF s p off hi lo v).lasting = s.lasting := keep_ldrSet ..

@[simp] theorem keep_bindOne (s : State) (g p ph : Nat) : (bindOne s g p ph).lasting = s.lasting := by
  simp only [bindOne, keep_ldrSet, keep_ldrSetF]

theorem lasts_ldrWrite {o : Lasting} (s : State) (p : PageId) (off : Nat) (bs : List Nat) (act : State → State)
    (h : Lasts o s.lasting) (hf : ∀ t, Lasts o t.lasting → Lasts o (act t).lasting) :
    Lasts o (ldrWrite s p off bs act).lasting :=
  lasts_tripWrite _ _ _ _ _ _ _ (by simpa only [keep_awaitBuffer] using h) hf

theorem lasts_ldrPut {o : Lasting} (s : State) (p : PageId) (off v : Nat) (h : Lasts o s.lasting) :
    Lasts o (ldrPut s p off v).lasting := lasts_ldrWrite _ _ _ _ _ h (fun _ ht => lasts_writeReg _ _ _ _ _ _ _ _ ht)

theorem lasts_ldrEn {o : Lasting} (s : State) (p : PageId) (en : Bool) (h : Lasts o s.lasting) :
    Lasts o (ldrEn s p en).lasting := lasts_ldrWrite _ _ _ _ _ h (fun _ ht => lasts_writeReg _ _ _ _ _ _ _ _ ht)

theorem lasts_bindGroup {o : Lasting} (s : State) (g n : Nat) (h : Lasts o s.lasting) :
    Lasts o (bindGroup s g n).lasting := by
  unfold bindGroup
  dsimp only
  refine lasts_foldl _ _ _ (fun t ph ht => lasts_ldrEn _ _ _ ht) ?_
  refine lasts_foldl _ _ _ (fun t e ht => by simpa only [keep_bindOne] using ht) ?_
  refine lasts_foldl _ _ _ (fun t e ht => by simpa only [keep_ldrSet] using ht) ?_
  exact lasts_foldl _ _ _ (fun t e ht => by simpa only [keep_ldrSet] using ht) h

@[simp] theorem keep_loadGroup (s : State) (i : Image) (g : Nat) : (loadGroup s i g).lasting = s.lasting := by
  unfold loadGroup
  refine lasting_foldl _ _ _ (fun t p => ?_)
  split
  · rfl
  · simp only [keep_State_setPanel]

@[simp] theorem keep_loadTables (s : State) (i : Image) : (loadTables s i).lasting = s.lasting := by
  unfold loadTables
  simp only [lasting_withFab]

theorem lasts_loadDvts {o : Lasting} (s : State) (i : Image) (h : Lasts o s.lasting) :
    Lasts o (loadDvts s i).lasting := by
  unfold loadDvts
  dsimp only
  have h1 := lasts_foldl (fun s g => ldrEn s (dvtPg g) (groupNeeds s i g)) (List.range 4) s
    (fun t e ht => lasts_ldrEn _ _ _ ht) h
  generalize (List.range 4).foldl (fun s g => ldrEn s (dvtPg g) (groupNeeds s i g)) s = t at h1 ⊢
  with_reducible apply lasts_ite'
  · simp only [keep_ldrSetF, lasting_withLdr, lasting_eta]
    exact h1
  · refine lasts_foldl _ _ _ (fun t e ht => by simpa only [keep_ldrSetF] using ht) ?_
    simp only [lasting_withLdr, lasting_eta]
    exact h1

@[simp] theorem keep_loadPins (s : State) (d : List Nat) : (loadPins s d).lasting = s.lasting := by
  unfold loadPins
  rw [lasting_withPins]

theorem lasts_loadQueues {o : Lasting} (s : State) (d : List Nat) (h : Lasts o s.lasting) :
    Lasts o (loadQueues s d).lasting := by
  unfold loadQueues
  dsimp only
  refine lasts_foldl _ _ _ (fun t q ht => lasts_ldrEn _ _ _ ?_) ?_
  · simpa only [keep_ldrSet] using ht
  · simpa only [lasting_withWinMap] using h

theorem lasts_loadGauge {o : Lasting} (s : State) (k : Nat) (e : List Nat) (h : Lasts o s.lasting) :
    Lasts o (loadGauge s k e).lasting := by
  have hp : ∀ (s : State) (l : List (Nat × Nat)), Lasts o s.lasting →
      Lasts o (l.foldl (fun s x => ldrPut s (gauPg k) x.1 x.2) s).lasting :=
    fun s l hs => lasts_foldl _ _ _ (fun t e ht => lasts_ldrPut _ _ _ _ ht) hs
  unfold loadGauge
  dsimp only
  have h1 : Lasts o (if (at_ e 0 1).testBit 0 = true then _ else s).lasting :=
    lasts_ite' (lasts_ldrEn _ (gauPg k) true (hp s [(0x40, at_ e 4 4), (0x50, at_ e 8 4), (0x54, at_ e 12 1),
      (0x70, at_ e 16 4), (0x74, at_ e 20 4), (0x78, at_ e 24 1), (0x7c, at_ e 25 1)] h)) h
  have h2 := lasts_ite' (c := (at_ e 0 1).testBit 1 = true) (hp _ [(0xc0, at_ e 32 4), (0xd8, at_ e 36 4), (0xc8, at_ e 40 4), (0xcc, at_ e 44 4),
      (0xd0, at_ e 48 4), (0xd4, at_ e 52 4)] h1) h1
  with_reducible apply lasts_ite'
  · simp only [keep_ldrSetF]
    exact h2
  · exact h2

theorem lasts_loadGauges {o : Lasting} (s : State) (d : List Nat) (h : Lasts o s.lasting) :
    Lasts o (loadGauges s d).lasting := by
  unfold loadGauges
  dsimp only
  refine lasts_foldl _ _ _ (fun t k ht => lasts_loadGauge _ _ _ ht) ?_
  exact lasts_foldl _ _ _ (fun t e ht => by simpa only [keep_ldrSetF] using ht) h

theorem lasts_withFrame {o : Lasting} (s : State) (i : Image) (ty : Nat) (f : State → List Nat → State)
    (h : Lasts o s.lasting) (hf : ∀ t d, Lasts o t.lasting → Lasts o (f t d).lasting) :
    Lasts o (withFrame s i ty f).lasting := by
  unfold withFrame
  split
  · exact h
  · exact hf _ _ h

theorem lasts_commitFull {o : Lasting} (s : State) (i : Image) (h : Lasts o s.lasting) :
    Lasts o (commitFull s i).lasting := by
  unfold commitFull
  dsimp only
  simp only [keep_ldrSetF, keep_State_setF]
  refine lasts_withFrame _ _ _ _ (lasts_withFrame _ _ _ _ (lasts_withFrame _ _ _ _ ?_ ?_) ?_) ?_
  · refine lasts_loadDvts _ _ ?_
    simp only [keep_loadTables]
    refine lasts_foldl _ _ _ (fun t g ht => lasts_bindGroup _ _ _ ht) ?_
    simp only [keep_ldrSet, lasting_withLdr, lasting_eta]
    exact h
  · intro t d ht; simpa only [keep_loadPins] using ht
  · intro t d ht; exact lasts_loadQueues _ _ ht
  · intro t d ht; exact lasts_loadGauges _ _ ht

theorem lasts_retireAll {o : Lasting} (s : State) (h : Lasts o s.lasting) :
    Lasts o (retireAll s).lasting := by
  unfold retireAll
  repeat' first
    | with_reducible exact h
    | with_reducible assumption
    | with_reducible apply lasts_ite'
    | with_reducible apply lasts_enWritten
    | (with_reducible apply lasts_foldl; intro _ _ _)
    | simp only [keep_lockRetired, keep_retireMarks, keep_retiredEvents, lasting_withCyc, lasting_eta, snd_ite,
        fst_ite]
    | ((with_reducible refine lasts_withLdr _ _ ?hf ?hr ?_); (case hf => rfl); (case hr => rfl))
    | with_reducible refine lasts_snd_eq ‹_ = (_, _)› ?_
    | with_reducible refine lasts_snd2_eq ‹_ = (_, _, _)› ?_
    | split
    | dsimp only

theorem lasts_commitBegin {o : Lasting} (s : State) (h : Lasts o s.lasting) :
    Lasts o (commitBegin s).lasting := by
  unfold commitBegin
  repeat' first
    | with_reducible exact h
    | with_reducible assumption
    | with_reducible apply lasts_ite'
    | with_reducible apply lasts_retireAll
    | (with_reducible apply lasts_foldl; intro _ _ _)
    | simp only [keep_State_setF, keep_State_setLdSt, lasting_withCyc, lasting_eta, snd_ite, fst_ite]
    | ((with_reducible refine lasts_withLdr _ _ ?hf ?hr ?_); (case hf => rfl); (case hr => rfl))
    | with_reducible refine lasts_snd_eq ‹_ = (_, _)› ?_
    | with_reducible refine lasts_snd2_eq ‹_ = (_, _, _)› ?_
    | split
    | dsimp only

@[simp] theorem keep_endHoldWait (s : State) : (endHoldWait s).lasting = s.lasting := by
  unfold endHoldWait
  split
  · rw [lasting_withLdr]
    exact lasting_mixLdr _ s (keep_State_setF s clpPg 0x48 0 0 0)
  · rfl

theorem lasts_commitEnd {o : Lasting} (s : State) (h : Lasts o s.lasting) : Lasts o (commitEnd s).lasting := by
  unfold commitEnd
  split
  · split
    · exact h
    · dsimp only
      simp only [keep_endHoldWait, keep_finishLoad, keep_chainDone]
      refine lasts_foldl _ _ _ (fun t g ht => by simpa only [keep_loadGroup] using ht) ?_
      exact lasts_ite' (lasts_commitFull _ _ h) h
  · exact h

/-! ### Register commands -/

theorem lasts_postWord {o : Lasting} (s : State) (w : PostWindow) (v : Word) (h : Lasts o s.lasting) :
    Lasts o (postWord s w v).lasting := by
  unfold postWord
  split <;> exact lasts_regWrite _ _ _ _ _ _ _ h

theorem lasts_pinHalfWrite {o : Lasting} (s : State) (rq : Requester) (p pin : Nat) (v : BitVec 16)
    (h : Lasts o s.lasting) : Lasts o (pinHalfWrite s rq p pin v).lasting := by
  unfold pinHalfWrite
  exact lasts_ite' (lasts_regWrite _ _ _ _ _ _ _ h) (lasts_regWrite _ _ _ _ _ _ _ h)

/-! ### The ring -/

@[simp] theorem keep_State_setRequest (s : State) (src tag : Nat) (f : RingReq → RingReq) :
    (s.setRequest src tag f).lasting = s.lasting := rfl

@[simp] theorem keep_State_dropRequest (s : State) (src tag : Nat) :
    (s.dropRequest src tag).lasting = s.lasting := rfl

theorem lasts_performRead {o : Lasting} (s : State) (r : RingReq) (h : Lasts o s.lasting) :
    Lasts o (performRead s r).2.lasting := by
  unfold performRead
  repeat' first
    | with_reducible exact h
    | with_reducible assumption
    | with_reducible apply lasts_ite'
    | with_reducible apply lasts_vnrRead
    | (with_reducible apply lasts_foldl; intro _ _ _)
    | simp only [keep_readBy, lasting_withCyc, lasting_eta, snd_ite, fst_ite]
    | ((with_reducible refine lasts_withLdr _ _ ?hf ?hr ?_); (case hf => rfl); (case hr => rfl))
    | with_reducible refine lasts_snd_eq ‹_ = (_, _)› ?_
    | with_reducible refine lasts_snd2_eq ‹_ = (_, _, _)› ?_
    | split
    | dsimp only

theorem lasts_performWrite {o : Lasting} (s : State) (r : RingReq) (h : Lasts o s.lasting) :
    Lasts o (performWrite s r).2.lasting := by
  unfold performWrite
  repeat' first
    | with_reducible exact h
    | with_reducible assumption
    | with_reducible apply lasts_ite'
    | with_reducible apply lasts_vnrWrite
    | with_reducible apply lasts_writeReg
    | with_reducible apply lasts_writeShared
    | (with_reducible apply lasts_foldl; intro _ _ _)
    | simp only [keep_raise, keep_writeSram, lasting_withCyc, lasting_eta, snd_ite, fst_ite]
    | ((with_reducible refine lasts_withLdr _ _ ?hf ?hr ?_); (case hf => rfl); (case hr => rfl))
    | with_reducible refine lasts_snd_eq ‹_ = (_, _)› ?_
    | with_reducible refine lasts_snd2_eq ‹_ = (_, _, _)› ?_
    | split
    | dsimp only

theorem lasts_performBcastWrite {o : Lasting} (s : State) (r : RingReq) (h : Lasts o s.lasting) :
    Lasts o (performBcastWrite s r).2.lasting := by
  unfold performBcastWrite
  split
  · exact lasts_writeAll _ _ _ _ _ _ _ h
  · exact h

@[simp] theorem keep_performBcastRead (s : State) (r : RingReq) : (performBcastRead s r).2.lasting = s.lasting := by
  unfold performBcastRead
  split <;> rfl

theorem lasts_performAmo {o : Lasting} (s : State) (r : RingReq) (h : Lasts o s.lasting) :
    Lasts o (performAmo s r).2.lasting := by
  unfold performAmo
  repeat' first
    | with_reducible exact h
    | with_reducible assumption
    | with_reducible apply lasts_ite'
    | with_reducible apply lasts_writeShared
    | (with_reducible apply lasts_foldl; intro _ _ _)
    | simp only [keep_setResv, lasting_withCyc, lasting_eta, snd_ite, fst_ite]
    | ((with_reducible refine lasts_withLdr _ _ ?hf ?hr ?_); (case hf => rfl); (case hr => rfl))
    | with_reducible refine lasts_snd_eq ‹_ = (_, _)› ?_
    | with_reducible refine lasts_snd2_eq ‹_ = (_, _, _)› ?_
    | split
    | dsimp only

@[simp] theorem keep_foretell (s : State) (src tag op : Nat) (g : RingReq → RingReq) :
    (foretell s src tag op g).lasting = s.lasting := by
  unfold foretell
  split <;> simp only [lasting_ite, lasting_withNet, keep_State_setRequest, ite_self]

theorem lasts_deliver {o : Lasting} (s : State) (op src tag : Nat) (fault : RingFault)
    (act : State → RingReq → RingStage × State) (h : Lasts o s.lasting)
    (hf : ∀ t r, Lasts o t.lasting → Lasts o (act t r).2.lasting) :
    Lasts o (deliver s op src tag fault act).lasting := by
  unfold deliver
  split
  · simpa only [lasting_ite, keep_foretell, ite_self] using h
  · split
    · exact h
    · split
      · split
        · simpa only [keep_State_setRequest, keep_flitError] using h
        · dsimp only
          simpa only [keep_State_setRequest] using hf _ _ h
      · exact h

@[simp] theorem keep_lateFault (s : State) (c a : Nat) : (lateFault s c a).lasting = s.lasting := by
  unfold lateFault
  split
  · simp only [keep_State_onCore]
  · dsimp only
    rw [keep_exception]
    simp only [lasting_ite, keep_traceWake, keep_State_setCcSts, ite_self]

@[simp] theorem keep_answerEvent (s : State) (c status cls : Nat) (e : EccClass) :
    (answerEvent s c status cls e).lasting = s.lasting := by
  unfold answerEvent
  split
  · exact keep_sramEvent ..
  · exact keep_busEvent ..

@[simp] theorem keep_completeAt (s : State) (r : RingReq) (status cls : Nat) (e : EccClass) (d : List Nat) :
    (completeAt s r status cls e d).lasting = s.lasting := by
  unfold completeAt
  dsimp only
  split
  · rfl
  · have h := keep_answerEvent s r.src status cls e
    generalize answerEvent s r.src status cls e = t at h ⊢
    split
    · simp only [lasting_ite, keep_lateFault, ite_self, h]
    · split
      · simp only [lasting_ite, keep_loadDone, keep_exception, ite_self, h]
      · simp only [lasting_ite, keep_amoDone, keep_exception, ite_self, h]
      · simp only [lasting_ite, keep_State_onCore, keep_exception, ite_self, h]
      · exact h

@[simp] theorem keep_respond (s : State) (src : Nat) (a : RingAnswer) (k : Nat → Bool → Bool) :
    (respond s src a k).lasting = s.lasting := by
  unfold respond
  dsimp only
  split
  · simp only [lasting_ite, keep_foretell, ite_self]
  · split
    · split
      · split
        · rfl
        · split
          · simp only [keep_flitError, keep_State_setRequest, keep_countFlits]
          · split
            · simp only [keep_raise, keep_State_bump, keep_State_setRequest, keep_countFlits]
            · simp only [keep_completeAt, keep_State_dropRequest, keep_countFlits]
      · rfl
    · simp only [lasting_ite, keep_foretell, ite_self]
    · rfl

@[simp] theorem keep_ringTimeout (s : State) (src tag : Nat) : (ringTimeout s src tag).lasting = s.lasting := by
  unfold ringTimeout
  split
  · exact keep_foretell ..
  · split
    · rfl
    · split
      · rfl
      · simp only [keep_completeAt, keep_ringTimedOut, keep_State_setRequest]

@[simp] theorem keep_urgencyRise (s : State) (src : Nat) (hd : RingHeader) (ring stop : Nat) :
    (urgencyRise s src hd ring stop).lasting = s.lasting := by
  have h : (if isUnit src = true then foretell s src hd.tag 0 id else s).lasting = s.lasting := by
    simp only [lasting_ite, keep_foretell, ite_self]
  unfold urgencyRise
  dsimp only
  generalize (if isUnit src = true then foretell s src hd.tag 0 id else s) = u at h ⊢
  split
  · exact h
  · simp only [lasting_ite, keep_raise, keep_State_bump, keep_State_setRequest, ite_self]
    exact h

@[simp] theorem keep_routeUpdate (s : State) (node dst : Nat) : (routeUpdate s node dst).lasting = s.lasting := by
  unfold routeUpdate
  split <;> rfl

/-! ### The host link -/

@[simp] theorem keep_bar0Err (s : State) (status addr : Nat) : (bar0Err s status addr).lasting = s.lasting := by
  unfold bar0Err
  rw [keep_raise]

@[simp] theorem keep_complete (s : State) (wr : Bool) (status : Nat) (d : List Nat) :
    (complete s wr status d).lasting = s.lasting := by
  unfold complete
  split <;> rfl

theorem lasts_hostWrite {o : Lasting} (s : State) (a : Nat) (be : BitVec 4) (v : Word) (h : Lasts o s.lasting) :
    Lasts o (hostWrite s a be v).lasting := by
  unfold hostWrite
  refine lasts_ite' h ?_
  split
  · exact lasts_writeReg _ _ _ _ _ _ _ _ h
  · exact lasts_writeAll _ _ _ _ _ _ _ h
  · refine lasts_ite' h ?_
    simpa only [keep_raise] using h

@[simp] theorem keep_hostRead (s : State) (a : Nat) : (hostRead s a).2.lasting = s.lasting := by
  unfold hostRead
  split
  · simp only [keep_readBy]
  · rfl
  · rfl

theorem lasts_hostAccess {o : Lasting} (s : State) (wr : Bool) (addr len : Nat) (d : BitVec 64)
    (h : Lasts o s.lasting) : Lasts o (hostAccess s wr addr len d).2.lasting := by
  unfold hostAccess
  dsimp only
  split
  · exact lasts_foldl _ _ _ (fun t i ht => lasts_hostWrite _ _ _ _ ht) h
  · dsimp only
    rw [lasting_foldl2]
    · exact h
    · intro t i
      dsimp only
      rw [keep_hostRead]

@[simp] theorem keep_unsupported (s : State) (wr : Bool) : (unsupported s wr).lasting = s.lasting := by
  simp only [unsupported, keep_logUnsupported, keep_complete]

@[simp] theorem keep_aborted (s : State) (wr : Bool) : (aborted s wr).lasting = s.lasting := by
  simp only [aborted, lasting_ite, keep_aerAdvises, keep_complete, ite_self]

theorem lasts_hostArrives {o : Lasting} (s : State) (wr : Bool) (f : TlpFault) (takes : Bool) (act : State → State)
    (h : Lasts o s.lasting) (hf : ∀ t, Lasts o t.lasting → Lasts o (act t).lasting) :
    Lasts o (hostArrives s wr f takes act).lasting := by
  have h1 := keep_linkTakes s f
  unfold hostArrives
  split
  · exact h
  · split <;> rename_i e <;> rw [e] at h1
    · exact h1 ▸ h
    · dsimp only at h1
      split
      · exact hf _ (h1 ▸ h)
      · simp only [lasting_ite, keep_unsupported, keep_complete, ite_self]
        exact h1 ▸ h

theorem lasts_inL0 {o : Lasting} (s : State) (act : State → State) (h : Lasts o s.lasting)
    (hf : ∀ t, Lasts o t.lasting → Lasts o (act t).lasting) : Lasts o (inL0 s act).lasting := by
  unfold inL0
  refine lasts_ite' ?_ (hf _ h)
  dsimp only
  rw [keep_showL1]
  exact hf _ (by simpa only [keep_State_setF] using h)

theorem lasts_bar0Perform {o : Lasting} (s : State) (op : HostAccess) (addr len : Nat) (d : BitVec 64)
    (h : Lasts o s.lasting) : Lasts o (bar0Perform s op addr len d).lasting := by
  unfold bar0Perform
  dsimp only
  have h1 := keep_tripGo s (s.unitReq 9 (nodeOfBar0 addr) (bar0Op op.wr addr) addr len
    (if op.wr then bytesLE len d.toNat else [])) op.trip
  split <;> rename_i e <;> rw [e] at h1
  · simp only [keep_complete, keep_tripEnd]
    exact lasts_hostAccess _ _ _ _ _ (h1 ▸ h)
  · simp only [keep_bar0Err, keep_aborted]
    exact h1 ▸ h

theorem lasts_bar2ReadRun {o : Lasting} (fuel addr n : Nat) (t : HostTrip) (acc : Nat × List Nat × State)
    (h : Lasts o acc.2.2.lasting) : Lasts o (bar2ReadRun fuel addr n t acc).2.2.2.lasting := by
  induction fuel generalizing addr n t acc with
  | zero => exact h
  | succ fuel ih =>
    rw [bar2ReadRun]
    refine iteInduction (motive := fun x : (Nat × Nat) × Nat × List Nat × State => Lasts o x.2.2.2.lasting) (fun _ => h) (fun _ => ?_)
    have h1 := lasts_netRead acc.2.2 .host addr (min n (64 - addr % 64)) t h
    exact ih (acc := (_, _, (netRead acc.2.2 .host addr (min n (64 - addr % 64)) t).2.2)) _ _ _ h1

theorem lasts_bar2WriteRun {o : Lasting} (fuel addr : Nat) (bs : List Nat) (t : HostTrip) (acc : Nat × State)
    (h : Lasts o acc.2.lasting) : Lasts o (bar2WriteRun fuel addr bs t acc).2.2.lasting := by
  induction fuel generalizing addr bs t acc with
  | zero => exact h
  | succ fuel ih =>
    rw [bar2WriteRun]
    refine iteInduction (motive := fun x : (Nat × List Nat) × Nat × State => Lasts o x.2.2.lasting) (fun _ => h) (fun _ => ?_)
    have h1 := lasts_netWrite acc.2 .host addr (bs.take (min bs.length (64 - addr % 64))) (2 ^ min bs.length (64 - addr % 64) - 1) t h
    exact ih (acc := (_, (netWrite acc.2 .host addr (bs.take (min bs.length (64 - addr % 64)))
      (2 ^ min bs.length (64 - addr % 64) - 1) t).2)) _ _ _ h1

@[simp] theorem keep_bar2ReadEnd (s : State) (cls : Nat) (bs : List Nat) : (bar2ReadEnd s cls bs).lasting = s.lasting := by
  simp only [bar2ReadEnd, lasting_ite, keep_raise, keep_complete, keep_aborted, ite_self]

@[simp] theorem keep_bar2WriteEnd (s : State) (cls : Nat) : (bar2WriteEnd s cls).lasting = s.lasting := by
  simp only [bar2WriteEnd, lasting_ite, keep_raise, ite_self]

@[simp] theorem keep_waitFirst (s : State) (r : HostReq) : (waitFirst s r).lasting = s.lasting := lasting_withHst ..

theorem lasts_bar2ReadPerform {o : Lasting} (s : State) (addr n : Nat) (t : HostTrip) (cls : Nat) (got : List Nat)
    (h : Lasts o s.lasting) : Lasts o (bar2ReadPerform s addr n t cls got).lasting := by
  have h1 := lasts_bar2ReadRun (n / 64 + 2) addr n t (cls, got, s) h
  unfold bar2ReadPerform
  split <;> rename_i e <;> rw [e] at h1
  · simpa only [keep_bar2ReadEnd] using h1
  · simpa only [keep_waitFirst] using h1

theorem lasts_bar2WritePerform {o : Lasting} (s : State) (addr : Nat) (d : List Nat) (t : HostTrip) (cls : Nat)
    (h : Lasts o s.lasting) : Lasts o (bar2WritePerform s addr d t cls).lasting := by
  have h1 := lasts_bar2WriteRun (d.length / 64 + 2) addr d t (cls, s) h
  unfold bar2WritePerform
  split <;> rename_i e <;> rw [e] at h1
  · simpa only [keep_bar2WriteEnd] using h1
  · simpa only [keep_waitFirst] using h1

theorem lasts_hostPerform {o : Lasting} (s : State) (r : HostReq) (h : Lasts o s.lasting) :
    Lasts o (hostPerform s r).lasting := by
  cases r with
  | bar0 op addr len d => exact lasts_bar0Perform _ _ _ _ _ h
  | read addr n t cls got => exact lasts_bar2ReadPerform _ _ _ _ _ _ h
  | write addr d t cls => exact lasts_bar2WritePerform _ _ _ _ _ h

theorem lasts_hostSend {o : Lasting} (s : State) (r : HostReq) (h : Lasts o s.lasting) :
    Lasts o (hostSend s r).lasting := lasts_ite' (lasts_hostPerform _ _ h) h

theorem lasts_hostResume {o : Lasting} (n : Nat) (s : State) (h : Lasts o s.lasting) :
    Lasts o (hostResume n s).lasting := by
  induction n generalizing s with
  | zero => exact h
  | succ n ih =>
    unfold hostResume
    split
    · exact h
    · exact lasts_ite' (ih _ (lasts_hostPerform _ _ h)) h

theorem lasts_quarantineEnd {o : Lasting} (s : State) (src tag : Nat) (h : Lasts o s.lasting) :
    Lasts o (quarantineEnd s src tag).lasting := by
  unfold quarantineEnd
  split
  · refine lasts_ite' ?_ h
    dsimp only
    have h1 : Lasts o (s.dropRequest src tag).lasting := by simpa only [keep_State_dropRequest] using h
    exact lasts_ite' (lasts_hostResume _ _ h1) (lasts_ite' (lasts_pump _ h1) (lasts_ite' (lasts_putRecords _ _ h1) h1))
  · exact h

theorem lasts_bar0Request {o : Lasting} (s : State) (op : HostAccess) (addr len : Nat) (d : BitVec 64)
    (h : Lasts o s.lasting) : Lasts o (bar0Request s op addr len d).lasting := by
  unfold bar0Request
  refine lasts_hostArrives _ _ _ _ _ h (fun t ht => ?_)
  dsimp only
  refine lasts_ite' ?_ (lasts_ite' ?_ (lasts_ite' ?_ (lasts_hostSend _ _ ht)))
  · simpa only [keep_aerUncorrectable, keep_State_send] using ht
  · simp only [keep_complete]
    exact lasts_hostAccess _ _ _ _ _ ht
  · simpa only [keep_bar0Err, keep_unsupported] using ht

theorem lasts_bar2Read {o : Lasting} (s : State) (addr : Nat) (p : HostSpan) (h : Lasts o s.lasting) :
    Lasts o (bar2Read s addr p).lasting := lasts_hostArrives _ _ _ _ _ h (fun _ ht => lasts_hostSend _ _ ht)

theorem lasts_bar2Write {o : Lasting} (s : State) (addr : Nat) (d : List (BitVec 8)) (t : HostTlp)
    (h : Lasts o s.lasting) : Lasts o (bar2Write s addr d t).lasting := by
  unfold bar2Write
  refine lasts_hostArrives _ _ _ _ _ h (fun u hu => lasts_ite' ?_ (lasts_hostSend _ _ hu))
  simpa only [keep_raise, keep_aerUncorrectable, keep_State_send] using hu

theorem lasts_resetFunction {o : Lasting} (s : State) (h : Lasts o s.lasting) : Lasts o (resetFunction s).lasting := by
  unfold resetFunction
  dsimp only
  refine lasts_enWritten _ _ _ ?_
  rw [lasting_withHst, lasting_withAlarms, keep_State_setHeld, keep_State_setReg, lasting_foldl, lasting_foldl]
  · exact h
  · intro t i; rw [keep_State_setReg]
  · intro t i; rw [keep_State_setReg]

@[simp] theorem keep_showLink (s : State) : (showLink s).lasting = s.lasting := by
  simp only [showLink, keep_showL1, keep_State_setF]

@[simp] theorem keep_resetEnded (s : State) : (resetEnded s).lasting = s.lasting := by
  simp only [resetEnded, lasting_ite, keep_raise, lasting_withHst, ite_self]

theorem lasts_beginFlr {o : Lasting} (s : State) (h : Lasts o s.lasting) :
    Lasts o (beginFlr s).lasting := by
  unfold beginFlr
  repeat' first
    | with_reducible exact h
    | with_reducible assumption
    | with_reducible apply lasts_ite'
    | with_reducible apply lasts_resetFunction
    | (with_reducible apply lasts_foldl; intro _ _ _)
    | simp only [lasting_withCyc, lasting_withHst, lasting_eta, snd_ite, fst_ite]
    | ((with_reducible refine lasts_withLdr _ _ ?hf ?hr ?_); (case hf => rfl); (case hr => rfl))
    | with_reducible refine lasts_snd_eq ‹_ = (_, _)› ?_
    | with_reducible refine lasts_snd2_eq ‹_ = (_, _, _)› ?_
    | split
    | dsimp only

@[simp] theorem keep_flrComplete (s : State) : (flrComplete s).lasting = s.lasting := by
  simp only [flrComplete, lasting_ite, keep_resetEnded, keep_showLink, lasting_withHst, ite_self]

@[simp] theorem keep_linkGone (s : State) : (linkGone s).lasting = s.lasting := by
  simp only [linkGone, lasting_withHst, keep_State_setF]

theorem lasts_linkReset {o : Lasting} (s : State) (h : Lasts o s.lasting) :
    Lasts o (linkReset s).lasting := by
  unfold linkReset
  repeat' first
    | with_reducible exact h
    | with_reducible assumption
    | with_reducible apply lasts_ite'
    | with_reducible apply lasts_resetFunction
    | (with_reducible apply lasts_foldl; intro _ _ _)
    | simp only [keep_linkGone, lasting_withCyc, lasting_withHst, lasting_eta, snd_ite, fst_ite]
    | ((with_reducible refine lasts_withLdr _ _ ?hf ?hr ?_); (case hf => rfl); (case hr => rfl))
    | with_reducible refine lasts_snd_eq ‹_ = (_, _)› ?_
    | with_reducible refine lasts_snd2_eq ‹_ = (_, _, _)› ?_
    | split
    | dsimp only

@[simp] theorem keep_linkDown (s : State) : (linkDown s).lasting = s.lasting := by
  simp only [linkDown, lasting_ite, keep_raise, keep_linkGone, ite_self]

theorem lasts_linkRetrained {o : Lasting} (s : State) (speed : BitVec 4) (width : BitVec 5) (h : Lasts o s.lasting) :
    Lasts o (linkRetrained s speed width).lasting := by
  unfold linkRetrained
  repeat' first
    | with_reducible exact h
    | with_reducible assumption
    | with_reducible apply lasts_ite'
    | with_reducible apply lasts_linkReset
    | (with_reducible apply lasts_foldl; intro _ _ _)
    | simp only [keep_resetEnded, keep_showLink, lasting_withCyc, lasting_withHst, lasting_eta, snd_ite, fst_ite]
    | ((with_reducible refine lasts_withLdr _ _ ?hf ?hr ?_); (case hf => rfl); (case hr => rfl))
    | with_reducible refine lasts_snd_eq ‹_ = (_, _)› ?_
    | with_reducible refine lasts_snd2_eq ‹_ = (_, _, _)› ?_
    | split
    | dsimp only

theorem keep_configArrives (s : State) (act : State → State) (h : (act s).lasting = s.lasting) :
    (configArrives s act).lasting = s.lasting := by
  simp only [configArrives, lasting_ite, keep_complete, h, ite_self]

theorem lasts_configArrives {o : Lasting} (s : State) (act : State → State) (h : Lasts o s.lasting)
    (hf : Lasts o (act s).lasting) : Lasts o (configArrives s act).lasting := by
  unfold configArrives
  exact lasts_ite' h (lasts_ite' (by simpa only [keep_complete] using h) hf)

theorem lasts_functionReset {o : Lasting} (s : State) (h : Lasts o s.lasting) : Lasts o (functionReset s).lasting :=
  lasts_configArrives _ _ h (lasts_beginFlr s h)

@[simp] theorem keep_enterD3 (s : State) (e : Bool) : (enterD3 s e).lasting = s.lasting :=
  (keep_State_setF ..).trans (keep_State_setCfg ..)

@[simp] theorem keep_d3hot (s : State) (e : Bool) : (d3hot s e).lasting = s.lasting :=
  keep_configArrives _ _ (keep_enterD3 s e)

@[simp] theorem keep_releaseVectors (s : State) : (releaseVectors s).lasting = s.lasting :=
  lasting_foldl _ _ _ (fun t v => keep_releaseVector t v)

@[simp] theorem keep_unmaskVector (s : State) (v : Nat) : (unmaskVector s v).lasting = s.lasting := by
  simp only [unmaskVector, lasting_ite, keep_releaseVector, lasting_withHst, ite_self]

@[simp] theorem keep_setFnMask (s : State) (m : Bool) : (setFnMask s m).lasting = s.lasting := by
  simp only [setFnMask, keep_releaseVectors, lasting_withHst]

@[simp] theorem keep_setBusMaster (s : State) (m : Bool) : (setBusMaster s m).lasting = s.lasting := by
  simp only [setBusMaster, keep_releaseVectors, lasting_withHst]

theorem lasts_configWrite {o : Lasting} (s : State) (off : Nat) (be : BitVec 4) (v : Word) (h : Lasts o s.lasting) :
    Lasts o (configWrite s off be v).lasting := by
  unfold configWrite
  repeat' first
    | with_reducible exact h
    | with_reducible assumption
    | with_reducible apply lasts_ite'
    | with_reducible apply lasts_beginFlr
    | (with_reducible apply lasts_foldl; intro _ _ _)
    | simp only [keep_State_setCfg, keep_enterD3, keep_setBusMaster, keep_setFnMask, keep_showL1, lasting_withCyc,
        lasting_eta, snd_ite, fst_ite]
    | ((with_reducible refine lasts_withLdr _ _ ?hf ?hr ?_); (case hf => rfl); (case hr => rfl))
    | with_reducible refine lasts_snd_eq ‹_ = (_, _)› ?_
    | with_reducible refine lasts_snd2_eq ‹_ = (_, _, _)› ?_
    | split
    | dsimp only

theorem lasts_msixUnmask {o : Lasting} (s : State) (u : MsixUnmask) (h : Lasts o s.lasting) :
    Lasts o (msixUnmask s u).lasting := by
  cases u with
  | vector v =>
    exact lasts_hostArrives _ _ _ _ _ h (fun t ht => by simpa only [keep_unmaskVector] using ht)
  | function => simpa only [msixUnmask, keep_configArrives, keep_setFnMask, keep_State_setCfg] using h
  | busMaster => simpa only [msixUnmask, keep_configArrives, keep_setBusMaster] using h
  | config off be v =>
    refine lasts_configArrives _ _ h ?_
    rw [keep_complete]
    exact lasts_ite' (lasts_configWrite _ _ _ _ h) h
  | configRead off => simpa only [msixUnmask, keep_configArrives, keep_complete] using h

/-! ### The test port -/

@[simp] theorem keep_handBack (s : State) (pin : Nat) : (handBack s pin).lasting = s.lasting := by
  unfold handBack
  dsimp only
  split
  · rw [keep_drivePad]
  · rfl

@[simp] theorem keep_selectIr (s : State) (code : BitVec 8) : (selectIr s code).lasting = s.lasting := by
  unfold selectIr
  dsimp only
  split
  · rw [lasting_foldl _ _ _ (fun t p => keep_handBack t p), lasting_withTap, keep_State_send]
  · rw [lasting_withTap, keep_State_send]

@[simp] theorem keep_scanCells (s : State) (x : BoundaryScan) : (scanCells s x).lasting = s.lasting := by
  simp only [scanCells, lasting_withTap, keep_State_send, keep_targetDrives]

@[simp] theorem keep_drivePads (s : State) : (drivePads s).lasting = s.lasting :=
  lasting_foldl _ _ _ (fun t p => keep_extestPads t p)

@[simp] theorem keep_throughBypass (s : State) (n v : Nat) : (throughBypass s n v).lasting = s.lasting := by
  simp only [throughBypass, lasting_withTap, keep_State_send]

@[simp] theorem keep_scanBypass (s : State) : (scanBypass s).lasting = s.lasting := by
  simp only [scanBypass, keep_throughBypass, lasting_withFree]

@[simp] theorem keep_extest (s : State) (x : BoundaryScan) : (extest s x).lasting = s.lasting := by
  simp only [extest, lasting_ite, keep_drivePads, keep_scanCells, keep_throughBypass, lasting_withTap, keep_selectIr, ite_self]

@[simp] theorem keep_samplePreload (s : State) (x : BoundaryScan) : (samplePreload s x).lasting = s.lasting := by
  simp only [samplePreload, lasting_ite, keep_scanCells, keep_selectIr, ite_self]

@[simp] theorem keep_selectOnly (s : State) (code : BitVec 8) : (selectOnly s code).lasting = s.lasting := by
  unfold selectOnly
  split
  · rfl
  · rw [keep_selectIr]

theorem lasts_ldrCtrl {o : Lasting} (s : State) (w : BitVec 8) (h : Lasts o s.lasting) :
    Lasts o (ldrCtrl s w).lasting := by
  unfold ldrCtrl
  dsimp only
  have h1 : Lasts o (selectOnly s 0x39).lasting := by simpa only [keep_selectOnly] using h
  exact lasts_ite' (lasts_writeReg _ _ _ _ _ _ _ _ h1) h1

/-- What a command leaves is what its effect leaves: what follows by itself keeps the lasting part. -/
theorem lasts_done {o : Lasting} {s t : State} (h : done s = .next t) (k : Lasts o s.lasting) : Lasts o t.lasting := by
  injection h with h
  rw [← h]
  simpa only [keep_settle] using k

end Sys2Proof.Machine
end

