-- ==== Sys2Proof/Laws/Memory.lean ====
section
/-! SUPPORT. The addressed memories: the three operations that change one (a write of stored HBM bytes, a write of a shared
SRAM word, a reset) keep the canonical form; and the read after a write. -/
namespace Sys2Proof.Machine

theorem hbmPut_below (m : Tab (BitVec 8)) (a j : Nat) (bs : List Nat) (h : j < a) :
    Tab.get (zeroAt 8) (hbmPut m a bs) j = Tab.get (zeroAt 8) m j := by
  induction bs generalizing m a with
  | nil => rfl
  | cons b r ih =>
    exact (ih _ (a + 1) (by omega)).trans (Tab.get_set_other (zeroAt 8) m (by omega) _)

/-- A byte written reads back, and every other byte reads as before. -/
theorem hbmPut_get (m : Tab (BitVec 8)) (a j : Nat) (bs : List Nat) :
    Tab.get (zeroAt 8) (hbmPut m a bs) j =
      if a ≤ j ∧ j < a + bs.length then BitVec.ofNat 8 (bs.getD (j - a) 0) else Tab.get (zeroAt 8) m j := by
  induction bs generalizing m a with
  | nil => rw [if_neg (by simp only [List.length_nil]; omega)]; rfl
  | cons b r ih =>
    have e := ih (Tab.set (zeroAt 8) m a (BitVec.ofNat 8 b)) (a + 1)
    simp only [hbmPut, List.length_cons]
    by_cases hj : j = a
    · subst hj
      rw [hbmPut_below _ _ _ _ (by omega), Tab.get_set_same, if_pos (by omega)]
      simp
    · rw [e]
      by_cases hi : a + 1 ≤ j ∧ j < a + 1 + r.length
      · rw [if_pos hi, if_pos (by omega), show j - a = (j - (a + 1)) + 1 by omega]
        simp
      · rw [if_neg hi, if_neg (by omega), Tab.get_set_other (zeroAt 8) m hj]

theorem State.hbmWrite_wf (s : State) (a : Nat) (bs : List Nat) (h : s.memories.wf) : (s.hbmWrite a bs).memories.wf :=
  ⟨hbmPut_wf _ _ _ h.1, h.2⟩

@[simp] theorem State.onCore_memories (s : State) (c : Nat) (f : Core → Core) :
    (s.onCore c f).memories = s.memories := rfl

@[simp] theorem clearResv_memories (s : State) (ok : Nat → Nat → Bool) : (clearResv s ok).memories = s.memories := by
  unfold clearResv
  refine memories_foldl _ _ _ fun t c => ?_
  split
  · split <;> rfl
  · rfl

/-- What a write of shared SRAM leaves in the memories: HBM as it is, and one word replaced unless that word is
uncorrectable and only a part of it is written (R412). -/
theorem writeShared_memories (s : State) (off n v : Nat) :
    (writeShared s off n v).memories =
      if (s.sharedWord off).2 = .uncorrectable ∧ n < 4 then s.memories
      else ⟨s.hbm, Tab.set (zeroAt 32) s.shared (off / 4) (putBytes (s.sharedWord off).1 off n v)⟩ := by
  have h := clearResv_memories s (fun _ a => a / 4 == (0x10000000 + off) / 4)
  have hh : (clearResv s (fun _ a => a / 4 == (0x10000000 + off) / 4)).hbm = s.hbm := congrArg Memories.hbm h
  have hs : (clearResv s (fun _ a => a / 4 == (0x10000000 + off) / 4)).shared = s.shared := congrArg Memories.shared h
  unfold writeShared
  generalize s.sharedWord off = we
  obtain ⟨w, e⟩ := we
  generalize clearResv s _ = u at h hh hs ⊢
  simp only [memories_ite, memories_withSharedErr, memories_withShared, h, hh, hs]

theorem writeShared_wf (s : State) (off n v : Nat) (h : s.memories.wf) : (writeShared s off n v).memories.wf := by
  rw [writeShared_memories]
  split
  · exact h
  · exact ⟨h.1, Tab.wf_set h.2 _ _⟩

theorem bareReset_wf (s : State) (cause : Nat) (h : s.memories.wf) : (bareReset s cause).memories.wf := by
  by_cases w : isWarm cause
  · simp only [bareReset, State.memories, Memories.wf, w, if_true]; exact h
  · simp [bareReset, State.memories, Memories.wf, w, Tab.wf]

theorem reset_memories_wf : State.reset.memories.wf := ⟨rfl, rfl⟩

end Sys2Proof.Machine
end

