-- ==== Sys2Proof/Laws/Settle.lean ====
section
/-! SUPPORT. What follows a command by itself (`settle`) reaches only the messages, the vectors and the pads. -/
namespace Sys2Proof.Machine

/-- Everything but the messages sent, the host interface and the pads. -/
structure Rest where
  pending : List Instr
  regs : Tab Word
  hold : Tab (Option (Nat × Word))
  recent : List Nat
  free : Nat
  panels : Tab Panel
  fab : Fabric
  cyc : Cycle
  drw : Drawer
  vnr : Veneer
  hbm : Tab (BitVec 8)
  hbmUe : List Nat
  alarms : Tab Bool
  queues : Tab Queue
  winMap : Tab (BitVec 16)
  pinWin : Tab (BitVec 128)
  exports : Tab (Nat × Nat × Nat)
  ldr : Loader
  bundles : Tab Bundle
  topo : Topology
  trg : Trigger
  cap : Capture
  meas : Tab Meas
  traces : Tab TraceUnit
  cores : Tab Core
  shared : Tab Word
  sharedErr : Tab EccClass
  net : List RingReq
  oldRoutes : Tab (Option (BitVec 2))
  wd : Dispatcher
  gauges : Tab Gauge
  lows : Tab (Option Word)
  ticks : Nat
  pwr : Power
  tap : TestPort

/-- That part of a state. -/
def State.rest (s : State) : Rest :=
  ⟨s.pending, s.regs, s.hold, s.recent, s.free, s.panels, s.fab, s.cyc, s.drw, s.vnr, s.hbm, s.hbmUe, s.alarms, s.queues, s.winMap, s.pinWin, s.exports, s.ldr, s.bundles, s.topo, s.trg, s.cap, s.meas, s.traces, s.cores, s.shared, s.sharedErr, s.net, s.oldRoutes, s.wd, s.gauges, s.lows, s.ticks, s.pwr, s.tap⟩

theorem rest_vectorEvent (s : State) (v : Nat) : (vectorEvent s v).rest = s.rest := by
  unfold vectorEvent
  split <;> rfl

theorem rest_drivePad (s : State) (pin : Nat) (v : BitVec 2) : (drivePad s pin v).rest = s.rest := by
  unfold drivePad
  split <;> rfl

theorem rest_foldl {α : Type} (f : State → α → State) (l : List α) (s : State) (h : ∀ t a, (f t a).rest = t.rest) :
    (l.foldl f s).rest = s.rest := by
  induction l generalizing s with
  | nil => rfl
  | cons a r ih => rw [List.foldl_cons, ih, h]

theorem rest_settleTrig (s : State) : (settleTrig s).rest = s.rest := by
  unfold settleTrig
  dsimp only
  split
  · rfl
  · rw [rest_foldl]
    · rfl
    · intro t a
      split
      · exact rest_drivePad _ _ _
      · rfl

theorem rest_settlePulses (s : State) : (settlePulses s).rest = s.rest := by
  unfold settlePulses
  dsimp only
  split
  · rfl
  · rw [rest_foldl]
    · rfl
    · intro t a
      split <;> rfl

theorem rest_settleVectors (s : State) : (settleVectors s).rest = s.rest := by
  unfold settleVectors
  dsimp only
  split
  · rfl
  · rw [rest_foldl]
    · rfl
    · intro t a
      split
      · exact rest_vectorEvent _ _
      · rfl

/-- `settle` leaves everything else alone. -/
theorem rest_settle (s : State) : (settle s).rest = s.rest := by
  unfold settle
  rw [rest_settleVectors, rest_settlePulses, rest_settleTrig]

theorem rest_pending (s : State) : s.rest.pending = s.pending := rfl
theorem rest_regs (s : State) : s.rest.regs = s.regs := rfl
theorem rest_hold (s : State) : s.rest.hold = s.hold := rfl
theorem rest_recent (s : State) : s.rest.recent = s.recent := rfl
theorem rest_free (s : State) : s.rest.free = s.free := rfl
theorem rest_panels (s : State) : s.rest.panels = s.panels := rfl
theorem rest_fab (s : State) : s.rest.fab = s.fab := rfl
theorem rest_cyc (s : State) : s.rest.cyc = s.cyc := rfl
theorem rest_drw (s : State) : s.rest.drw = s.drw := rfl
theorem rest_vnr (s : State) : s.rest.vnr = s.vnr := rfl
theorem rest_hbm (s : State) : s.rest.hbm = s.hbm := rfl
theorem rest_hbmUe (s : State) : s.rest.hbmUe = s.hbmUe := rfl
theorem rest_alarms (s : State) : s.rest.alarms = s.alarms := rfl
theorem rest_queues (s : State) : s.rest.queues = s.queues := rfl
theorem rest_winMap (s : State) : s.rest.winMap = s.winMap := rfl
theorem rest_pinWin (s : State) : s.rest.pinWin = s.pinWin := rfl
theorem rest_exports (s : State) : s.rest.exports = s.exports := rfl
theorem rest_ldr (s : State) : s.rest.ldr = s.ldr := rfl
theorem rest_bundles (s : State) : s.rest.bundles = s.bundles := rfl
theorem rest_topo (s : State) : s.rest.topo = s.topo := rfl
theorem rest_trg (s : State) : s.rest.trg = s.trg := rfl
theorem rest_cap (s : State) : s.rest.cap = s.cap := rfl
theorem rest_meas (s : State) : s.rest.meas = s.meas := rfl
theorem rest_traces (s : State) : s.rest.traces = s.traces := rfl
theorem rest_cores (s : State) : s.rest.cores = s.cores := rfl
theorem rest_shared (s : State) : s.rest.shared = s.shared := rfl
theorem rest_sharedErr (s : State) : s.rest.sharedErr = s.sharedErr := rfl
theorem rest_net (s : State) : s.rest.net = s.net := rfl
theorem rest_oldRoutes (s : State) : s.rest.oldRoutes = s.oldRoutes := rfl
theorem rest_wd (s : State) : s.rest.wd = s.wd := rfl
theorem rest_gauges (s : State) : s.rest.gauges = s.gauges := rfl
theorem rest_lows (s : State) : s.rest.lows = s.lows := rfl
theorem rest_ticks (s : State) : s.rest.ticks = s.ticks := rfl
theorem rest_pwr (s : State) : s.rest.pwr = s.pwr := rfl
theorem rest_tap (s : State) : s.rest.tap = s.tap := rfl
@[simp] theorem settle_pending (s : State) : (settle s).pending = s.pending := by rw [← rest_pending, rest_settle, rest_pending]
@[simp] theorem settle_regs (s : State) : (settle s).regs = s.regs := by rw [← rest_regs, rest_settle, rest_regs]
@[simp] theorem settle_hold (s : State) : (settle s).hold = s.hold := by rw [← rest_hold, rest_settle, rest_hold]
@[simp] theorem settle_recent (s : State) : (settle s).recent = s.recent := by rw [← rest_recent, rest_settle, rest_recent]
@[simp] theorem settle_free (s : State) : (settle s).free = s.free := by rw [← rest_free, rest_settle, rest_free]
@[simp] theorem settle_panels (s : State) : (settle s).panels = s.panels := by rw [← rest_panels, rest_settle, rest_panels]
@[simp] theorem settle_fab (s : State) : (settle s).fab = s.fab := by rw [← rest_fab, rest_settle, rest_fab]
@[simp] theorem settle_cyc (s : State) : (settle s).cyc = s.cyc := by rw [← rest_cyc, rest_settle, rest_cyc]
@[simp] theorem settle_drw (s : State) : (settle s).drw = s.drw := by rw [← rest_drw, rest_settle, rest_drw]
@[simp] theorem settle_vnr (s : State) : (settle s).vnr = s.vnr := by rw [← rest_vnr, rest_settle, rest_vnr]
@[simp] theorem settle_hbm (s : State) : (settle s).hbm = s.hbm := by rw [← rest_hbm, rest_settle, rest_hbm]
@[simp] theorem settle_hbmUe (s : State) : (settle s).hbmUe = s.hbmUe := by rw [← rest_hbmUe, rest_settle, rest_hbmUe]
@[simp] theorem settle_alarms (s : State) : (settle s).alarms = s.alarms := by rw [← rest_alarms, rest_settle, rest_alarms]
@[simp] theorem settle_queues (s : State) : (settle s).queues = s.queues := by rw [← rest_queues, rest_settle, rest_queues]
@[simp] theorem settle_winMap (s : State) : (settle s).winMap = s.winMap := by rw [← rest_winMap, rest_settle, rest_winMap]
@[simp] theorem settle_pinWin (s : State) : (settle s).pinWin = s.pinWin := by rw [← rest_pinWin, rest_settle, rest_pinWin]
@[simp] theorem settle_exports (s : State) : (settle s).exports = s.exports := by rw [← rest_exports, rest_settle, rest_exports]
@[simp] theorem settle_ldr (s : State) : (settle s).ldr = s.ldr := by rw [← rest_ldr, rest_settle, rest_ldr]
@[simp] theorem settle_bundles (s : State) : (settle s).bundles = s.bundles := by rw [← rest_bundles, rest_settle, rest_bundles]
@[simp] theorem settle_topo (s : State) : (settle s).topo = s.topo := by rw [← rest_topo, rest_settle, rest_topo]
@[simp] theorem settle_trg (s : State) : (settle s).trg = s.trg := by rw [← rest_trg, rest_settle, rest_trg]
@[simp] theorem settle_cap (s : State) : (settle s).cap = s.cap := by rw [← rest_cap, rest_settle, rest_cap]
@[simp] theorem settle_meas (s : State) : (settle s).meas = s.meas := by rw [← rest_meas, rest_settle, rest_meas]
@[simp] theorem settle_traces (s : State) : (settle s).traces = s.traces := by rw [← rest_traces, rest_settle, rest_traces]
@[simp] theorem settle_cores (s : State) : (settle s).cores = s.cores := by rw [← rest_cores, rest_settle, rest_cores]
@[simp] theorem settle_shared (s : State) : (settle s).shared = s.shared := by rw [← rest_shared, rest_settle, rest_shared]
@[simp] theorem settle_sharedErr (s : State) : (settle s).sharedErr = s.sharedErr := by rw [← rest_sharedErr, rest_settle, rest_sharedErr]
@[simp] theorem settle_net (s : State) : (settle s).net = s.net := by rw [← rest_net, rest_settle, rest_net]
@[simp] theorem settle_oldRoutes (s : State) : (settle s).oldRoutes = s.oldRoutes := by rw [← rest_oldRoutes, rest_settle, rest_oldRoutes]
@[simp] theorem settle_wd (s : State) : (settle s).wd = s.wd := by rw [← rest_wd, rest_settle, rest_wd]
@[simp] theorem settle_gauges (s : State) : (settle s).gauges = s.gauges := by rw [← rest_gauges, rest_settle, rest_gauges]
@[simp] theorem settle_lows (s : State) : (settle s).lows = s.lows := by rw [← rest_lows, rest_settle, rest_lows]
@[simp] theorem settle_ticks (s : State) : (settle s).ticks = s.ticks := by rw [← rest_ticks, rest_settle, rest_ticks]
@[simp] theorem settle_pwr (s : State) : (settle s).pwr = s.pwr := by rw [← rest_pwr, rest_settle, rest_pwr]
@[simp] theorem settle_tap (s : State) : (settle s).tap = s.tap := by rw [← rest_tap, rest_settle, rest_tap]

@[simp] theorem settle_reg (s : State) (p : PageId) (off : Nat) : (settle s).reg p off = s.reg p off := by
  simp only [State.reg, settle_regs]

@[simp] theorem settle_f (s : State) (p : PageId) (off hi lo : Nat) : (settle s).f p off hi lo = s.f p off hi lo := by
  simp only [State.f, settle_reg]

/-- A reading that the elementary actions of `settle` keep, `settle` keeps. -/
theorem settle_keeps {β : Type} (g : State → β) (s : State) (hv : ∀ t v, g (vectorEvent t v) = g t)
    (hd : ∀ t p v, g (drivePad t p v) = g t) (h1 : ∀ t x, g (t.withPins { t.pins with trig := x }) = g t)
    (h2 : ∀ t x, g (t.withPins { t.pins with pulses := x }) = g t)
    (h3 : ∀ t x, g (t.withPins { t.pins with late := x }) = g t)
    (h4 : ∀ t x y, g (t.withHst { t.hst with conds := x, rearms := y }) = g t) : g (settle s) = g s := by
  have hf : ∀ {α : Type} (f : State → α → State) (l : List α) (s : State),
      (∀ t a, g (f t a) = g t) → g (l.foldl f s) = g s := by
    intro α f l
    induction l with
    | nil => intro s _; rfl
    | cons a r ih => intro s h; rw [List.foldl_cons, ih _ h, h]
  have e1 : ∀ t, g (settleTrig t) = g t := by
    intro t
    unfold settleTrig
    dsimp only
    split
    · rfl
    · rw [hf, h1]
      intro t a
      split
      · exact hd _ _ _
      · rfl
  have e2 : ∀ t, g (settlePulses t) = g t := by
    intro t
    unfold settlePulses
    dsimp only
    split
    · rfl
    · rw [hf, h2]
      intro t a
      split
      · exact h3 _ _
      · rfl
  have e3 : ∀ t, g (settleVectors t) = g t := by
    intro t
    unfold settleVectors
    dsimp only
    split
    · rfl
    · rw [hf, h4]
      intro t a
      split
      · exact hv _ _
      · rfl
  unfold settle
  rw [e3, e2, e1]

theorem pins_vectorEvent (t : State) (v : Nat) : (vectorEvent t v).pins = t.pins := by
  unfold vectorEvent
  split <;> rfl

theorem hst_drivePad (t : State) (p : Nat) (v : BitVec 2) : (drivePad t p v).hst = t.hst := by
  unfold drivePad
  split <;> rfl

@[simp] theorem settle_pins_ports (s : State) : (settle s).pins.ports = s.pins.ports := by
  refine settle_keeps (fun t => t.pins.ports) s ?_ ?_ (fun _ _ => rfl) (fun _ _ => rfl) (fun _ _ => rfl) (fun _ _ _ => rfl)
  · intro t v; rw [pins_vectorEvent]
  · intro t p v; unfold drivePad; split <;> rfl

@[simp] theorem settle_pins_outMap (s : State) : (settle s).pins.outMap = s.pins.outMap := by
  refine settle_keeps (fun t => t.pins.outMap) s ?_ ?_ (fun _ _ => rfl) (fun _ _ => rfl) (fun _ _ => rfl) (fun _ _ _ => rfl)
  · intro t v; rw [pins_vectorEvent]
  · intro t p v; unfold drivePad; split <;> rfl

@[simp] theorem settle_pins_smpMap (s : State) : (settle s).pins.smpMap = s.pins.smpMap := by
  refine settle_keeps (fun t => t.pins.smpMap) s ?_ ?_ (fun _ _ => rfl) (fun _ _ => rfl) (fun _ _ => rfl) (fun _ _ _ => rfl)
  · intro t v; rw [pins_vectorEvent]
  · intro t p v; unfold drivePad; split <;> rfl

@[simp] theorem settle_pins_pendFn (s : State) : (settle s).pins.pendFn = s.pins.pendFn := by
  refine settle_keeps (fun t => t.pins.pendFn) s ?_ ?_ (fun _ _ => rfl) (fun _ _ => rfl) (fun _ _ => rfl) (fun _ _ _ => rfl)
  · intro t v; rw [pins_vectorEvent]
  · intro t p v; unfold drivePad; split <;> rfl

@[simp] theorem settle_pins_tgt (s : State) : (settle s).pins.tgt = s.pins.tgt := by
  refine settle_keeps (fun t => t.pins.tgt) s ?_ ?_ (fun _ _ => rfl) (fun _ _ => rfl) (fun _ _ => rfl) (fun _ _ _ => rfl)
  · intro t v; rw [pins_vectorEvent]
  · intro t p v; unfold drivePad; split <;> rfl

@[simp] theorem settle_pins_ball (s : State) : (settle s).pins.ball = s.pins.ball := by
  refine settle_keeps (fun t => t.pins.ball) s ?_ ?_ (fun _ _ => rfl) (fun _ _ => rfl) (fun _ _ => rfl) (fun _ _ _ => rfl)
  · intro t v; rw [pins_vectorEvent]
  · intro t p v; unfold drivePad; split <;> rfl

@[simp] theorem settle_pins_sync1 (s : State) : (settle s).pins.sync1 = s.pins.sync1 := by
  refine settle_keeps (fun t => t.pins.sync1) s ?_ ?_ (fun _ _ => rfl) (fun _ _ => rfl) (fun _ _ => rfl) (fun _ _ _ => rfl)
  · intro t v; rw [pins_vectorEvent]
  · intro t p v; unfold drivePad; split <;> rfl

@[simp] theorem settle_pins_sync2 (s : State) : (settle s).pins.sync2 = s.pins.sync2 := by
  refine settle_keeps (fun t => t.pins.sync2) s ?_ ?_ (fun _ _ => rfl) (fun _ _ => rfl) (fun _ _ => rfl) (fun _ _ _ => rfl)
  · intro t v; rw [pins_vectorEvent]
  · intro t p v; unfold drivePad; split <;> rfl

@[simp] theorem settle_pins_edl1 (s : State) : (settle s).pins.edl1 = s.pins.edl1 := by
  refine settle_keeps (fun t => t.pins.edl1) s ?_ ?_ (fun _ _ => rfl) (fun _ _ => rfl) (fun _ _ => rfl) (fun _ _ _ => rfl)
  · intro t v; rw [pins_vectorEvent]
  · intro t p v; unfold drivePad; split <;> rfl

@[simp] theorem settle_pins_edl2 (s : State) : (settle s).pins.edl2 = s.pins.edl2 := by
  refine settle_keeps (fun t => t.pins.edl2) s ?_ ?_ (fun _ _ => rfl) (fun _ _ => rfl) (fun _ _ => rfl) (fun _ _ _ => rfl)
  · intro t v; rw [pins_vectorEvent]
  · intro t p v; unfold drivePad; split <;> rfl

@[simp] theorem settle_pins_edl3 (s : State) : (settle s).pins.edl3 = s.pins.edl3 := by
  refine settle_keeps (fun t => t.pins.edl3) s ?_ ?_ (fun _ _ => rfl) (fun _ _ => rfl) (fun _ _ => rfl) (fun _ _ _ => rfl)
  · intro t v; rw [pins_vectorEvent]
  · intro t p v; unfold drivePad; split <;> rfl

@[simp] theorem settle_pins_edl4 (s : State) : (settle s).pins.edl4 = s.pins.edl4 := by
  refine settle_keeps (fun t => t.pins.edl4) s ?_ ?_ (fun _ _ => rfl) (fun _ _ => rfl) (fun _ _ => rfl) (fun _ _ _ => rfl)
  · intro t v; rw [pins_vectorEvent]
  · intro t p v; unfold drivePad; split <;> rfl

@[simp] theorem settle_pins_edlBad (s : State) : (settle s).pins.edlBad = s.pins.edlBad := by
  refine settle_keeps (fun t => t.pins.edlBad) s ?_ ?_ (fun _ _ => rfl) (fun _ _ => rfl) (fun _ _ => rfl) (fun _ _ _ => rfl)
  · intro t v; rw [pins_vectorEvent]
  · intro t p v; unfold drivePad; split <;> rfl

@[simp] theorem settle_pins_keys (s : State) : (settle s).pins.keys = s.pins.keys := by
  refine settle_keeps (fun t => t.pins.keys) s ?_ ?_ (fun _ _ => rfl) (fun _ _ => rfl) (fun _ _ => rfl) (fun _ _ _ => rfl)
  · intro t v; rw [pins_vectorEvent]
  · intro t p v; unfold drivePad; split <;> rfl

@[simp] theorem settle_hst_table (s : State) : (settle s).hst.table = s.hst.table := by
  refine settle_keeps (fun t => t.hst.table) s ?_ ?_ (fun _ _ => rfl) (fun _ _ => rfl) (fun _ _ => rfl) (fun _ _ _ => rfl)
  · intro t v; unfold vectorEvent; split <;> rfl
  · intro t p v; rw [hst_drivePad]

@[simp] theorem settle_hst_fnMask (s : State) : (settle s).hst.fnMask = s.hst.fnMask := by
  refine settle_keeps (fun t => t.hst.fnMask) s ?_ ?_ (fun _ _ => rfl) (fun _ _ => rfl) (fun _ _ => rfl) (fun _ _ _ => rfl)
  · intro t v; unfold vectorEvent; split <;> rfl
  · intro t p v; rw [hst_drivePad]

@[simp] theorem settle_hst_busMaster (s : State) : (settle s).hst.busMaster = s.hst.busMaster := by
  refine settle_keeps (fun t => t.hst.busMaster) s ?_ ?_ (fun _ _ => rfl) (fun _ _ => rfl) (fun _ _ => rfl) (fun _ _ _ => rfl)
  · intro t v; unfold vectorEvent; split <;> rfl
  · intro t p v; rw [hst_drivePad]

@[simp] theorem settle_hst_flr (s : State) : (settle s).hst.flr = s.hst.flr := by
  refine settle_keeps (fun t => t.hst.flr) s ?_ ?_ (fun _ _ => rfl) (fun _ _ => rfl) (fun _ _ => rfl) (fun _ _ _ => rfl)
  · intro t v; unfold vectorEvent; split <;> rfl
  · intro t p v; rw [hst_drivePad]

@[simp] theorem settle_hst_linkReset (s : State) : (settle s).hst.linkReset = s.hst.linkReset := by
  refine settle_keeps (fun t => t.hst.linkReset) s ?_ ?_ (fun _ _ => rfl) (fun _ _ => rfl) (fun _ _ => rfl) (fun _ _ _ => rfl)
  · intro t v; unfold vectorEvent; split <;> rfl
  · intro t p v; rw [hst_drivePad]


/-- A message that has been sent stays sent. -/
theorem settle_out_mem (s : State) (m : OutMsg) (h : m ∈ s.out) : m ∈ (settle s).out := by
  have hf : ∀ {α : Type} (f : State → α → State) (l : List α) (s : State),
      (∀ t a, m ∈ t.out → m ∈ (f t a).out) → m ∈ s.out → m ∈ (l.foldl f s).out := by
    intro α f l
    induction l with
    | nil => intro s _ k; exact k
    | cons a r ih => intro s k1 k2; exact ih _ k1 (k1 _ _ k2)
  have e1 : ∀ t : State, m ∈ t.out → m ∈ (settleTrig t).out := by
    intro t k
    unfold settleTrig
    dsimp only
    split
    · exact k
    · refine hf _ _ _ ?_ k
      intro t a k
      split
      · unfold drivePad; split <;> exact k
      · exact k
  have e2 : ∀ t : State, m ∈ t.out → m ∈ (settlePulses t).out := by
    intro t k
    unfold settlePulses
    dsimp only
    split
    · exact k
    · refine hf _ _ _ ?_ k
      intro t a k
      split <;> exact k
  have e3 : ∀ t : State, m ∈ t.out → m ∈ (settleVectors t).out := by
    intro t k
    unfold settleVectors
    dsimp only
    split
    · exact k
    · refine hf _ _ _ ?_ k
      intro t a k
      split
      · unfold vectorEvent
        split
        · exact List.mem_cons_of_mem _ k
        · exact k
      · exact k
  unfold settle
  exact e3 _ (e2 _ (e1 _ h))

end Sys2Proof.Machine
end

