-- ==== Sys2Proof/Laws/Reg.lean ====
section
/-! SUPPORT. Reads after writes of registers and their fields, and what a register write comes to where nothing stands in
its way. -/
namespace Sys2Proof.Machine

/-! ### Reads after writes -/

@[simp] theorem reg_setReg_same (s : State) (p : PageId) (off : Nat) (v : Word) : (s.setReg p off v).reg p off = v := by
  simp only [State.reg, State.setReg, State.withRegs_fields, Tab.get_set_same]

theorem reg_setReg_other (s : State) {p q : PageId} {off o : Nat} (v : Word) (h : regKey q o ≠ regKey p off) :
    (s.setReg p off v).reg q o = s.reg q o := by
  simp only [State.reg, State.setReg, State.withRegs_fields]
  exact Tab.get_set_other _ _ h v

@[simp] theorem f_setReg_same (s : State) (p : PageId) (off hi lo : Nat) (v : Word) :
    (s.setReg p off v).f p off hi lo = fld v.toNat hi lo := by
  simp only [State.f, reg_setReg_same]

theorem f_setReg_other (s : State) {p q : PageId} {off o : Nat} (hi lo : Nat) (v : Word)
    (h : regKey q o ≠ regKey p off) : (s.setReg p off v).f q o hi lo = s.f q o hi lo := by
  simp only [State.f, reg_setReg_other s v h]

/-- A field of a word is less than its width allows. -/
theorem fld_lt (v hi lo : Nat) : fld v hi lo < 2 ^ (hi + 1 - lo) := Nat.mod_lt _ (Nat.two_pow_pos _)

/-- A word is what stands above a field, the field, and what stands below it. -/
theorem fld_parts (v hi lo : Nat) (h : lo ≤ hi) :
    v = v / 2 ^ (hi + 1) * 2 ^ (hi + 1) + fld v hi lo * 2 ^ lo + v % 2 ^ lo := by
  unfold fld
  have e : 2 ^ (hi + 1) = 2 ^ (hi + 1 - lo) * 2 ^ lo := by rw [← Nat.pow_add]; congr 1; omega
  have e1 : v / 2 ^ (hi + 1) = v / 2 ^ lo / 2 ^ (hi + 1 - lo) := by rw [e, Nat.mul_comm, Nat.div_div_eq_div_mul]
  have e2 := Nat.div_add_mod (v / 2 ^ lo) (2 ^ (hi + 1 - lo))
  have e3 := Nat.div_add_mod v (2 ^ lo)
  rw [e1, e, ← Nat.mul_assoc, ← Nat.add_mul, Nat.mul_comm (v / 2 ^ lo / 2 ^ (hi + 1 - lo)), e2, Nat.mul_comm, e3]

/-- The number of a word with a field replaced. -/
theorem toNat_setFld (w : Word) (hi lo v : Nat) (h : lo ≤ hi) (h32 : hi < 32) :
    (setFld w hi lo v).toNat =
      w.toNat / 2 ^ (hi + 1) * 2 ^ (hi + 1) + v % 2 ^ (hi + 1 - lo) * 2 ^ lo + w.toNat % 2 ^ lo := by
  have e := fld_parts w.toNat hi lo h
  have ep : 2 ^ (hi + 1) = 2 ^ (hi + 1 - lo) * 2 ^ lo := by rw [← Nat.pow_add]; congr 1; omega
  have hv : v % 2 ^ (hi + 1 - lo) < 2 ^ (hi + 1 - lo) := Nat.mod_lt _ (Nat.two_pow_pos _)
  have hm : w.toNat % 2 ^ lo < 2 ^ lo := Nat.mod_lt _ (Nat.two_pow_pos _)
  have e32 : 2 ^ 32 = 2 ^ (32 - (hi + 1)) * 2 ^ (hi + 1) := by rw [← Nat.pow_add]; congr 1; omega
  have hd : w.toNat / 2 ^ (hi + 1) < 2 ^ (32 - (hi + 1)) := by
    apply Nat.div_lt_of_lt_mul
    rw [Nat.mul_comm, ← e32]
    exact w.isLt
  have hlow : v % 2 ^ (hi + 1 - lo) * 2 ^ lo + w.toNat % 2 ^ lo < 2 ^ (hi + 1) := by
    have := Nat.mul_le_mul_right (2 ^ lo) (Nat.succ_le_of_lt hv)
    rw [ep]
    simp only [Nat.succ_eq_add_one, Nat.add_mul] at this
    omega
  have hb : w.toNat / 2 ^ (hi + 1) * 2 ^ (hi + 1) + v % 2 ^ (hi + 1 - lo) * 2 ^ lo + w.toNat % 2 ^ lo < 2 ^ 32 := by
    have := Nat.mul_le_mul_right (2 ^ (hi + 1)) (Nat.succ_le_of_lt hd)
    rw [← e32] at this
    simp only [Nat.succ_eq_add_one, Nat.add_mul] at this
    omega
  unfold setFld
  rw [BitVec.toNat_ofNat]
  have : w.toNat - fld w.toNat hi lo * 2 ^ lo + v % 2 ^ (hi + 1 - lo) * 2 ^ lo =
      w.toNat / 2 ^ (hi + 1) * 2 ^ (hi + 1) + v % 2 ^ (hi + 1 - lo) * 2 ^ lo + w.toNat % 2 ^ lo := by omega
  rw [this, Nat.mod_eq_of_lt hb]

/-- The field that was replaced. -/
theorem fld_setFld (w : Word) (hi lo v : Nat) (h : lo ≤ hi) (h32 : hi < 32) :
    fld (setFld w hi lo v).toNat hi lo = v % 2 ^ (hi + 1 - lo) := by
  rw [toNat_setFld w hi lo v h h32]
  unfold fld
  have ep : 2 ^ (hi + 1) = 2 ^ (hi + 1 - lo) * 2 ^ lo := by rw [← Nat.pow_add]; congr 1; omega
  rw [ep, ← Nat.mul_assoc, ← Nat.add_mul, Nat.mul_comm _ (2 ^ lo), Nat.mul_add_div (Nat.two_pow_pos _),
    Nat.div_eq_of_lt (Nat.mod_lt _ (Nat.two_pow_pos _)), Nat.add_zero, Nat.mul_add_mod_self_right, Nat.mod_mod]

/-- A field below the one replaced. -/
theorem fld_setFld_below (w : Word) (hi lo v h2 l2 : Nat) (h : lo ≤ hi) (h32 : hi < 32) (h3 : h2 < lo) (h4 : l2 ≤ h2) :
    fld (setFld w hi lo v).toNat h2 l2 = fld w.toNat h2 l2 := by
  have key : ∀ n : Nat, fld n h2 l2 = n % 2 ^ lo / 2 ^ l2 % 2 ^ (h2 + 1 - l2) := by
    intro n
    unfold fld
    have e : 2 ^ lo = 2 ^ l2 * 2 ^ (lo - l2) := by rw [← Nat.pow_add]; congr 1; omega
    rw [e, Nat.mod_mul_right_div_self, Nat.mod_mod_of_dvd]
    exact Nat.pow_dvd_pow 2 (by omega)
  rw [key, key w.toNat, toNat_setFld w hi lo v h h32]
  have ep : 2 ^ (hi + 1) = 2 ^ (hi + 1 - lo) * 2 ^ lo := by rw [← Nat.pow_add]; congr 1; omega
  rw [ep, ← Nat.mul_assoc, ← Nat.add_mul, Nat.mul_comm _ (2 ^ lo), Nat.mul_add_mod, Nat.mod_mod]

/-- A field above the one replaced. -/
theorem fld_setFld_above (w : Word) (hi lo v h2 l2 : Nat) (h : lo ≤ hi) (h32 : hi < 32) (h3 : hi < l2) :
    fld (setFld w hi lo v).toNat h2 l2 = fld w.toNat h2 l2 := by
  have key : ∀ n : Nat, fld n h2 l2 = n / 2 ^ (hi + 1) / 2 ^ (l2 - (hi + 1)) % 2 ^ (h2 + 1 - l2) := by
    intro n
    unfold fld
    rw [Nat.div_div_eq_div_mul, ← Nat.pow_add]
    congr 3
    omega
  rw [key, key w.toNat, toNat_setFld w hi lo v h h32]
  have hv : v % 2 ^ (hi + 1 - lo) < 2 ^ (hi + 1 - lo) := Nat.mod_lt _ (Nat.two_pow_pos _)
  have hm : w.toNat % 2 ^ lo < 2 ^ lo := Nat.mod_lt _ (Nat.two_pow_pos _)
  have ep : 2 ^ (hi + 1) = 2 ^ (hi + 1 - lo) * 2 ^ lo := by rw [← Nat.pow_add]; congr 1; omega
  have hlow : v % 2 ^ (hi + 1 - lo) * 2 ^ lo + w.toNat % 2 ^ lo < 2 ^ (hi + 1) := by
    have := Nat.mul_le_mul_right (2 ^ lo) (Nat.succ_le_of_lt hv)
    rw [ep]
    simp only [Nat.succ_eq_add_one, Nat.add_mul] at this
    omega
  congr 2
  rw [Nat.add_assoc, Nat.mul_comm, Nat.mul_add_div (Nat.two_pow_pos _), Nat.div_eq_of_lt hlow, Nat.add_zero]

@[simp] theorem f_setF_same (s : State) (p : PageId) (off hi lo v : Nat) (h : lo ≤ hi) (h32 : hi < 32) :
    (s.setF p off hi lo v).f p off hi lo = v % 2 ^ (hi + 1 - lo) := by
  simp only [State.setF, f_setReg_same]
  exact fld_setFld _ _ _ _ h h32

theorem f_setF_below (s : State) (p : PageId) (off hi lo v h2 l2 : Nat) (h : lo ≤ hi) (h32 : hi < 32) (h3 : h2 < lo)
    (h4 : l2 ≤ h2) : (s.setF p off hi lo v).f p off h2 l2 = s.f p off h2 l2 := by
  simp only [State.setF, f_setReg_same]
  exact fld_setFld_below _ _ _ _ _ _ h h32 h3 h4

theorem f_setF_above (s : State) (p : PageId) (off hi lo v h2 l2 : Nat) (h : lo ≤ hi) (h32 : hi < 32) (h3 : hi < l2) :
    (s.setF p off hi lo v).f p off h2 l2 = s.f p off h2 l2 := by
  simp only [State.setF, f_setReg_same]
  exact fld_setFld_above _ _ _ _ _ _ h h32 h3

theorem f_setF_other (s : State) {p q : PageId} {off o : Nat} (hi lo v h2 l2 : Nat) (h : regKey q o ≠ regKey p off) :
    (s.setF p off hi lo v).f q o h2 l2 = s.f q o h2 l2 := f_setReg_other _ _ _ _ h

theorem reg_setF_other (s : State) {p q : PageId} {off o : Nat} (hi lo v : Nat) (h : regKey q o ≠ regKey p off) :
    (s.setF p off hi lo v).reg q o = s.reg q o := reg_setReg_other _ _ h

/-! ### A register write -/

/-- A write that reaches a register of a page's table by no special path is a write of its fields. -/
theorem writeAt_field (s : State) (rq : Requester) (p : PageId) (off : Nat) (be : BitVec 4) (v : Word) (m : Bool)
    (f : Option StartupFindings) (hq : rqOk rq = true) (hm : beMask be ≠ 0) (hp : pageExists p = true) (ho : off < 4096)
    (ha : off / 4 * 4 = off) (hs : (regSpec p.ty p.inst off).isSome = true)
    (h1 : authDenied p off ⟨rq, m, beMask be, v⟩ = false) (h2 : s.windowShut p off = false)
    (h3 : ¬(p.ty = .ldr ∧ off = 0x68)) (h4 : splitLow p off = false) (h5 : splitUpper p off = false) :
    writeAt s rq p off be v m f = writeField s p off ⟨rq, m, beMask be, v⟩ f := by
  unfold writeAt
  simp only [ha]
  rw [if_neg (by simpa [hq] using hm), if_neg (by simp [hp]; omega)]
  obtain ⟨r, hr⟩ := Option.isSome_iff_exists.mp hs
  simp only [hr]
  rw [if_neg (by simp [h1]), if_neg (by simp [h2]), if_neg h3, if_neg (by simp [h4]), if_neg (by simp [h5])]

/-- A write of a page that has no ticks of its own, or of a header register, is done at once. -/
theorem writeReg_at (s : State) (rq : Requester) (p : PageId) (off : Nat) (be : BitVec 4) (v : Word) (m : Bool)
    (f : Option StartupFindings) (hg : p.ty ≠ .gau ∨ off < 0x40) :
    writeReg s rq p off be v m f = writeAt s rq p off be v m f := by
  unfold writeReg
  exact if_neg (fun h => hg.elim (fun k => k h.1) (fun k => by omega))

/-- A write that changes no register that acts at ticks is done at once. -/
theorem keepTick_same (old new : State) (k : Nat)
    (h : ∀ off ∈ gauTimed, new.reg (gauPg k) off = old.reg (gauPg k) off) : keepTick old new k = new := by
  have hf : ∀ (l : List Nat) (st : Tab (Option Word)), (∀ off ∈ l, new.reg (gauPg k) off = old.reg (gauPg k) off) →
      l.foldl (fun t off => if (Tab.get (fun _ => none) t off).isSome || new.reg (gauPg k) off == old.reg (gauPg k) off then t
        else Tab.set (fun _ => none) t off (some (old.reg (gauPg k) off))) st = st := by
    intro l
    induction l with
    | nil => intro st _; rfl
    | cons a l ih =>
      intro st hl
      rw [List.foldl_cons, if_pos (by simp [hl a (List.mem_cons_self ..)])]
      exact ih st (fun off ho => hl off (List.mem_cons_of_mem _ ho))
  unfold keepTick
  exact if_pos (hf _ _ h)

/-- Nothing is recorded where no lock and no freeze reaches the register and no reserved bit is written. -/
theorem writeEvents_none (s : State) (p : PageId) (off : Nat) (w : Write) (h1 : w.x &&& ~~~definedMask p.ty p.inst off = 0)
    (h2 : s.lockMask p off = 0) (h3 : s.freezes p off = []) (h4 : off ≠ 0x08) : s.writeEvents p off w = [] := by
  unfold State.writeEvents rsvdEvents
  simp [h1, h2, h3, h4]

@[simp] theorem raiseAll_nil (s : State) (p : PageId) : raiseAll s p [] = s := rfl

/-- A write that records nothing and that no rule refuses is its fields and its commands. -/
theorem writeField_plain (s : State) (p : PageId) (off : Nat) (w : Write) (f : Option StartupFindings)
    (h1 : s.writeEvents p off w = []) (h4 : ∀ old new, s.fix p off w old new = (new, [])) :
    writeField s p off w f = applyWrite s p off w
      ((s.reg p off &&& ~~~(s.open_ p off &&& w.mask)) ||| (w.val &&& (s.open_ p off &&& w.mask))) f := by
  unfold writeField
  simp only [h4, h1, List.nil_append, raiseAll_nil]

/-- The write of a block register where nothing is frozen or refused. -/
theorem writeField_block (s : State) (p : PageId) (off : Nat) (w : Write) (f : Option StartupFindings) (ho : 0x40 ≤ off)
    (h1 : w.x &&& ~~~definedMask p.ty p.inst off = 0) (h2 : s.lockMask p off = 0) (h3 : s.freezes p off = [])
    (h4 : ∀ old new, s.fix p off w old new = (new, [])) :
    writeField s p off w f =
      blockWritten (s.setReg p off (((s.reg p off &&& ~~~((regMask p.ty p.inst off .rw ||| regMask p.ty p.inst off .rwl) &&& w.mask)) |||
        (w.val &&& ((regMask p.ty p.inst off .rw ||| regMask p.ty p.inst off .rwl) &&& w.mask))) &&&
          ~~~(regMask p.ty p.inst off .w1c &&& w.x))) p off w (s.reg p off) s.pinFn f := by
  rw [writeField_plain s p off w f (writeEvents_none s p off w h1 h2 h3 (by omega)) h4]
  unfold applyWrite
  simp only [State.open_, h2, h3, List.foldl_nil]
  have e : ∀ x : Word, x &&& ~~~((0 : Word) ||| 0) = x := by
    intro x
    rw [show ~~~((0 : Word) ||| 0) = BitVec.allOnes 32 by decide, BitVec.and_allOnes]
  rw [if_neg (by omega), e]

/-- The fields RW and RWL of a register. -/
def fieldMask (p : PageId) (off : Nat) : Word := regMask p.ty p.inst off .rw ||| regMask p.ty p.inst off .rwl

/-- What a full-width write leaves in the register. -/
def written (p : PageId) (off : Nat) (old v : Word) : Word :=
  ((old &&& ~~~fieldMask p off) ||| (v &&& fieldMask p off)) &&& ~~~(regMask p.ty p.inst off .w1c &&& v)

/-- The offset is that of a block register that is written by no special path. -/
def plainReg (p : PageId) (off : Nat) : Bool :=
  decide (0x40 ≤ off) && decide (off < 4096) && off / 4 * 4 == off && (regSpec p.ty p.inst off).isSome &&
    !splitLow p off && !splitUpper p off && !(p.ty == .ldr && off == 0x68) && !(p.ty == .trc && off == 0x48) && p.ty != .gau

theorem lockMask_zero (s : State) (p : PageId) (off : Nat) (h : regMask p.ty p.inst off .rwl = 0) (h1 : p.ty ≠ .pin)
    (h2 : p.ty ≠ .edl) : s.lockMask p off = 0 := by
  unfold State.lockMask
  rw [h]
  cases hp : p.ty <;> simp_all

/-- A full-width write by a requester, of a register that nothing freezes, is the register's new value and the effect of
the write. -/
theorem regWrite_plain (s : State) (rq : Requester) (p : PageId) (off : Nat) (v : Word) (f : Option StartupFindings)
    (hr : s.refRuns = true) (hq : rqOk rq = true) (hp : pageExists p = true) (ho : plainReg p off = true)
    (hv : v &&& ~~~definedMask p.ty p.inst off = 0) (h1 : s.windowShut p off = false) (h2 : s.lockMask p off = 0)
    (h3 : s.freezes p off = []) (h4 : ∀ w old new, s.fix p off w old new = (new, [])) :
    regWrite s rq p off 15 v f =
      blockWritten (s.setReg p off (written p off (s.reg p off) v)) p off ⟨rq, s.modeOf rq, BitVec.allOnes 32, v⟩
        (s.reg p off) s.pinFn f := by
  have hb : beMask 15 = BitVec.allOnes 32 := by decide
  simp only [plainReg, Bool.and_eq_true, decide_eq_true_eq, beq_iff_eq, Bool.not_eq_true', Bool.and_eq_false_iff, bne_iff_ne] at ho
  obtain ⟨⟨⟨⟨⟨⟨⟨⟨o1, o2⟩, o3⟩, o4⟩, o5⟩, o6⟩, o7⟩, o8⟩, o9⟩ := ho
  unfold regWrite
  rw [if_pos (by simp [State.reaches, hr]), writeReg_at _ _ _ _ _ _ _ _ (.inl o9), writeAt_field s rq p off 15 v _ f hq (by decide) hp o2 o3 o4 _ h1 _ o5 o6,
    writeField_block s p off _ f o1 _ h2 h3 (h4 _)]
  · simp only [hb, BitVec.and_allOnes, Write.x, written, fieldMask]
  · simpa only [Write.x, hb, BitVec.and_allOnes] using hv
  · unfold authDenied
    rcases o8 with h | h <;> cases rq <;> simp only [h, Bool.false_and, Bool.and_false]
  · intro h
    simp_all

/-- The same of a value below 2^32. -/
theorem regPut_plain (s : State) (rq : Requester) (p : PageId) (off v : Nat)
    (hr : s.refRuns = true) (hq : rqOk rq = true) (hp : pageExists p = true) (ho : plainReg p off = true)
    (hv : BitVec.ofNat 32 v &&& ~~~definedMask p.ty p.inst off = 0) (h1 : s.windowShut p off = false)
    (h2 : s.lockMask p off = 0) (h3 : s.freezes p off = []) (h4 : ∀ w old new, s.fix p off w old new = (new, [])) :
    regPut s rq p off v =
      blockWritten (s.setReg p off (written p off (s.reg p off) (BitVec.ofNat 32 v))) p off
        ⟨rq, s.modeOf rq, BitVec.allOnes 32, BitVec.ofNat 32 v⟩ (s.reg p off) s.pinFn none :=
  regWrite_plain s rq p off _ _ hr hq hp ho hv h1 h2 h3 h4

/-! ### The common header -/

theorem regKey_ne_off (p : PageId) {a b : Nat} (h : a / 4 ≠ b / 4) : regKey p a ≠ regKey p b := by
  unfold regKey
  omega

theorem hdr_spec (p : PageId) (off : Nat) (h : off ∈ [0x08, 0x10, 0x14, 0x18, 0x1c, 0x24]) :
    (regSpec p.ty p.inst off).isSome = true := by
  simp only [List.mem_cons, List.not_mem_nil, or_false] at h
  rcases h with rfl | rfl | rfl | rfl | rfl | rfl <;> simp [regSpec, headerRegs, RegSpec.at?, List.find?]

theorem hdr_freezes (s : State) (p : PageId) (off : Nat) (h : off < 0x28) : s.freezes p off = [] := by
  unfold State.freezes
  cases hp : p.ty <;> simp only [freezeIf] <;> try rfl
  all_goals
    simp
    try omega

theorem hdr_lockMask (s : State) (p : PageId) (off : Nat) (h : off < 0x28) :
    s.lockMask p off = if s.locked p then regMask p.ty p.inst off .rwl else 0 := by
  unfold State.lockMask
  cases hp : p.ty <;> dsimp only
  · rw [if_neg (by omega)]
  · rw [if_neg (by omega)]

/-- A rule that refuses a value of a header register is that of EN on a bound PNL_ page. -/
theorem hdr_fix (s : State) (p : PageId) (off : Nat) (w : Write) (old new : Word) (h : off < 0x28) (h8 : off ≠ 0x08) :
    s.fix p off w old new = (new, []) := by
  unfold State.fix
  cases hp : p.ty <;> dsimp only <;> (repeat' first | rw [if_neg (by omega)] | rw [if_neg (by simp; omega)])

theorem hdr_fix_en (s : State) (p : PageId) (w : Write) (old new : Word)
    (h : p.ty = .pnl → w.covers 0 = true → w.has 0 = false → s.f p 0x40 31 31 = 1 → s.locked p = true) :
    s.fix p 0x08 w old new = (new, []) := by
  unfold State.fix
  cases hp : p.ty <;> dsimp only
  all_goals first
    | rfl
    | (repeat' rw [if_neg (by omega)]; done)
    | (simp; done)
    | skip
  rw [if_pos rfl, if_neg]
  intro hc
  simp only [Bool.and_eq_true, Bool.not_eq_true', beq_iff_eq] at hc
  have := h hp hc.1.1.1 hc.1.1.2 hc.1.2
  rw [this] at hc
  exact absurd hc.2 (by decide)

theorem hdr_masks (p : PageId) :
    regMask p.ty p.inst 0x24 .rw = 0xffff ∧ regMask p.ty p.inst 0x24 .rwl = 0 ∧ definedMask p.ty p.inst 0x24 = 0xffff ∧
    regMask p.ty p.inst 0x08 .rw = 0 ∧ regMask p.ty p.inst 0x08 .rwl = 1 ∧ definedMask p.ty p.inst 0x08 = 7 ∧
    regMask p.ty p.inst 0x14 .rw = stickyMask p.ty p.inst ∧ regMask p.ty p.inst 0x14 .rwl = 0 ∧
    definedMask p.ty p.inst 0x14 = stickyMask p.ty p.inst ∧
    regMask p.ty p.inst 0x10 .rw = 0 ∧ regMask p.ty p.inst 0x10 .rwl = 0 ∧
    definedMask p.ty p.inst 0x10 = 0xffffff0f &&& stickyMask p.ty p.inst ∧
    regMask p.ty p.inst 0x18 .rw = 0 ∧ regMask p.ty p.inst 0x18 .rwl = 0 ∧ definedMask p.ty p.inst 0x18 = 0x9fffffff ∧
    regMask p.ty p.inst 0x1c .rw = 0 ∧ regMask p.ty p.inst 0x1c .rwl = 0 ∧ definedMask p.ty p.inst 0x1c = 0x9fffffff := by
  have e : ∀ x : Word, 4294967295#32 &&& x = x := by
    intro x
    rw [show (4294967295#32 : Word) = BitVec.allOnes 32 by decide, BitVec.allOnes_and]
  simp [regMask, definedMask, regSpec, headerRegs, RegSpec.at?, List.find?, fieldsMask, bitMask, e]

/-- A write of a header register is a write of its fields. -/
theorem regWrite_hdr (s : State) (rq : Requester) (p : PageId) (off : Nat) (be : BitVec 4) (v : Word)
    (f : Option StartupFindings) (hr : s.refRuns = true) (hq : rqOk rq = true) (hp : pageExists p = true) (hm : beMask be ≠ 0)
    (h : off ∈ [0x08, 0x10, 0x14, 0x18, 0x1c, 0x24]) :
    regWrite s rq p off be v f = writeField s p off ⟨rq, s.modeOf rq, beMask be, v⟩ f := by
  have hs := hdr_spec p off h
  unfold regWrite
  rw [if_pos (by simp [State.reaches, hr])]
  simp only [List.mem_cons, List.not_mem_nil, or_false] at h
  rw [writeReg_at _ _ _ _ _ _ _ _ (.inr (by omega))]
  refine writeAt_field s rq p off be v _ f hq hm hp ?_ ?_ hs ?_ ?_ ?_ ?_ ?_
  · omega
  · omega
  · unfold authDenied
    rcases h with rfl | rfl | rfl | rfl | rfl | rfl <;> cases rq <;> simp
  · unfold State.windowShut
    cases hp : p.ty <;> simp <;> omega
  · omega
  · unfold splitLow
    rcases h with rfl | rfl | rfl | rfl | rfl | rfl <;> cases hp : p.ty <;> rfl
  · unfold splitUpper splitLow
    rcases h with rfl | rfl | rfl | rfl | rfl | rfl <;> cases hp : p.ty <;> rfl

end Sys2Proof.Machine
end

