-- ==== Sys2Proof/Laws/Raise.lean ====
section
/-! SUPPORT. What an error event leaves in the registers of its page (R43), and what a write of a header register comes to
where nothing is recorded. -/
set_option linter.unusedSimpArgs false

namespace Sys2Proof.Machine

theorem be_all : beMask 15 = BitVec.allOnes 32 := by decide

theorem events_hdr (s : State) (p : PageId) (off : Nat) (w : Write) (h : off < 0x28) (h1 : w.x &&& ~~~definedMask p.ty
      p.inst off = 0)
   (h2 : regMask p.ty p.inst off .rwl = 0) (h4 : off ≠ 8) : s.writeEvents p off w = [] :=
  writeEvents_none s p off w h1 (by rw [hdr_lockMask s p off h, h2]; simp) (hdr_freezes s p off h) h4

theorem open_hdr (s : State) (p : PageId) (off : Nat) (h : off < 0x28) (h2 : regMask p.ty p.inst off .rwl = 0) :
   s.open_ p off = regMask p.ty p.inst off .rw := by
  unfold State.open_
  rw [hdr_lockMask s p off h, h2, hdr_freezes s p off h]
  simp only [ite_self, List.foldl_nil, BitVec.or_zero]
  rw [show ~~~((0 : Word) ||| 0) = BitVec.allOnes 32 by decide, BitVec.and_allOnes]
  exact BitVec.or_zero

/-- The registers that a capture may write. -/
def captureRegs : List Nat := [0x18, 0x1c, 0x58, 0x5c, 0x60, 0x64]

@[simp] theorem reg_mark (s : State) (p : PageId) (b : Nat) : (s.mark p b).reg = s.reg := rfl
@[simp] theorem f_mark (s : State) (p : PageId) (b : Nat) : (s.mark p b).f = s.f := rfl

theorem setCapture_same (s : State) (p : PageId) (second : Bool) (w : Word) (a : Nat) :
    (setCapture s p second w a).reg p (if second then 0x1c else 0x18) = w := by
  have k : ∀ c d, c / 4 ≠ d / 4 → regKey p d ≠ regKey p c := fun c d h => regKey_ne_off p (Ne.symm h)
  unfold setCapture
  dsimp only
  rw [reg_mark]
  split
  · simp only [State.setReg64]
    cases second <;>
      (rw [reg_setReg_other _ _ (k _ _ (by decide)), reg_setReg_other _ _ (k _ _ (by decide)), reg_setReg_same])
  · rw [reg_setReg_same]

theorem setCapture_other (s : State) (p : PageId) (second : Bool) (w : Word) (a : Nat) (q : PageId) (o : Nat)
    (h : ∀ c ∈ captureRegs, regKey q o ≠ regKey p c) : (setCapture s p second w a).reg q o = s.reg q o := by
  simp only [captureRegs, List.mem_cons, List.not_mem_nil, or_false, forall_eq_or_imp, forall_eq] at h
  obtain ⟨h2, h3, h4, h5, h6, h7⟩ := h
  unfold setCapture
  dsimp only
  rw [reg_mark]
  split
  · simp only [State.setReg64]
    cases second
    · exact (reg_setReg_other _ _ h5).trans ((reg_setReg_other _ _ h4).trans (reg_setReg_other _ _ h2))
    · exact (reg_setReg_other _ _ h7).trans ((reg_setReg_other _ _ h6).trans (reg_setReg_other _ _ h3))
  · cases second
    · exact reg_setReg_other _ _ h2
    · exact reg_setReg_other _ _ h3

theorem capture_reg18 (s : State) (p : PageId) (b info a : Nat) (h : s.f p 0x18 31 31 = 0) :
    (capture s p b info a).reg p 0x18 = captureWord b info := by
  unfold capture
  simp only [h, if_true]
  exact setCapture_same s p false _ a

/-- A capture leaves what it may not write, and of PG_STICKY all but CAPT_LOST. -/
theorem captureLost_other (s : State) (p q : PageId) (o : Nat) (h : regKey q o ≠ regKey p 0x10) :
    (captureLost s p).reg q o = s.reg q o := by
  unfold captureLost
  rw [reg_mark, reg_setF_other _ _ _ _ h]

theorem capture_other (s : State) (p : PageId) (b info a : Nat) (q : PageId) (o : Nat)
   (h : ∀ c ∈ [0x10, 0x18, 0x1c, 0x58, 0x5c, 0x60, 0x64], regKey q o ≠ regKey p c) :
    (capture s p b info a).reg q o = s.reg q o := by
  have h0 := h 0x10 (by simp)
  have h1 : ∀ c ∈ captureRegs, regKey q o ≠ regKey p c := fun c hc => h c (List.mem_cons_of_mem _ hc)
  unfold capture
  dsimp only
  split
  · exact setCapture_other _ _ _ _ _ _ _ h1
  · split
    · rw [setCapture_other _ _ _ _ _ _ _ h1, setCapture_other _ _ _ _ _ _ _ h1]
      split
      · rfl
      · exact captureLost_other _ _ _ _ h0
    · split
      · exact setCapture_other _ _ _ _ _ _ _ h1
      · split
        · rw [setCapture_other _ _ _ _ _ _ _ h1, captureLost_other _ _ _ _ h0]
        · exact captureLost_other _ _ _ _ h0

theorem captureLost_sticky (s : State) (p : PageId) (i : Nat) (h : i ≠ 3) :
    (captureLost s p).f p 0x10 i i = s.f p 0x10 i i := by
  unfold captureLost
  rw [f_mark]
  rcases Nat.lt_or_gt_of_ne h with h | h
  · rw [f_setF_below] <;> omega
  · rw [f_setF_above] <;> omega

theorem setCapture_sticky (s : State) (p : PageId) (second : Bool) (w : Word) (a i : Nat) :
    (setCapture s p second w a).f p 0x10 i i = s.f p 0x10 i i := by
  unfold State.f
  rw [setCapture_other]
  intro c hc
  simp only [captureRegs, List.mem_cons, List.not_mem_nil, or_false] at hc
  apply regKey_ne_off
  omega

theorem capture_sticky (s : State) (p : PageId) (b info a i : Nat) (h : i ≠ 3) :
    (capture s p b info a).f p 0x10 i i = s.f p 0x10 i i := by
  unfold capture
  dsimp only
  split
  · exact setCapture_sticky _ _ _ _ _ _
  · split
    · rw [setCapture_sticky, setCapture_sticky]
      split
      · rfl
      · exact captureLost_sticky _ _ _ h
    · split
      · exact setCapture_sticky _ _ _ _ _ _
      · split
        · rw [setCapture_sticky, captureLost_sticky _ _ _ h]
        · exact captureLost_sticky _ _ _ h

theorem raise_other (s : State) (p : PageId) (b info : Nat) (q : PageId) (o : Nat)
   (h : ∀ c ∈ [0x10, 0x18, 0x1c, 0x58, 0x5c, 0x60, 0x64], regKey q o ≠ regKey p c) :
    (raise s p b info).reg q o = s.reg q o := by
  unfold raise raiseAt
  rw [reg_mark, capture_other _ _ _ _ _ _ _ h]
  exact reg_setF_other _ _ _ _ (h 0x10 (by simp))

theorem raise_hdr (s : State) (p : PageId) (b info : Nat) (o : Nat) (h : o = 0x08 ∨ o = 0x0c ∨ o = 0x24 ∨ o = 0x14) :
    (raise s p b info).reg p o = s.reg p o := by
  apply raise_other
  intro c hc
  simp only [List.mem_cons, List.not_mem_nil, or_false] at hc
  apply regKey_ne_off
  omega

theorem one_mod_field (n : Nat) : 1 % 2 ^ (n + 1 - n) = 1 := by
  have h : n + 1 - n = 1 := by omega
  simp [h]

theorem raise_sticky (s : State) (p : PageId) (b info : Nat) (b2 : Nat) (h2 : b2 ≠ 3) (h32 : b < 32) :
    (raise s p b info).f p 0x10 b2 b2 = if b2 = b then 1 else s.f p 0x10 b2 b2 := by
  unfold raise raiseAt
  rw [f_mark, capture_sticky _ _ _ _ _ _ h2]
  split
  · rename_i h; subst h
    rw [f_setF_same _ _ _ _ _ _ (Nat.le_refl _) h32]
    exact one_mod_field b2
  · rename_i h
    rcases Nat.lt_or_gt_of_ne h with h | h
    · rw [f_setF_below] <;> omega
    · rw [f_setF_above] <;> omega

/-- A bit of PG_STICKY that stands stays set through every event. -/
theorem raise_sticky_stays (s : State) (p : PageId) (b info i : Nat) (h2 : i ≠ 3) (h32 : b < 32)
    (h : s.f p 0x10 i i = 1) : (raise s p b info).f p 0x10 i i = 1 := by
  rw [raise_sticky s p b info i h2 h32]
  split
  · rfl
  · exact h

theorem raise_reg18 (s : State) (p : PageId) (b info : Nat) (h : s.f p 0x18 31 31 = 0) :
    (raise s p b info).reg p 0x18 = captureWord b info := by
  unfold raise raiseAt
  rw [reg_mark, capture_reg18]
  rw [f_setF_other _ _ _ _ _ _ (regKey_ne_off p (by decide)), h]


/-! ### 64-bit quantities, and the header's bits -/

theorem pageOf_code (ty : PageType) : pageOfCode (pageCode ty) = some ty := by cases ty <;> rfl

theorem regKey_inj {p q : PageId} {a b : Nat} (hp : p.inst < 4096) (hq : q.inst < 4096) (ha : a < 4096) (hb : b < 4096)
   (h : regKey p a = regKey q b) : p = q ∧ a / 4 = b / 4 := by
  unfold regKey at h
  have h1 : pageCode p.ty = pageCode q.ty := by omega
  have h2 : p.inst = q.inst := by omega
  have h3 : p.ty = q.ty := by
    have := pageOf_code p.ty
    rw [h1, pageOf_code] at this
    exact (Option.some.inj this).symm
  refine ⟨?_, by omega⟩
  cases p; cases q; simp_all

theorem fld1 (w : Word) (i : Nat) : fld w.toNat i i = bit (w.getLsbD i) := by
  unfold fld
  simp only [BitVec.getLsbD, Nat.testBit_eq_decide_div_mod_eq]
  have : i + 1 - i = 1 := by omega
  rw [this]
  rcases Nat.mod_two_eq_zero_or_one (w.toNat / 2 ^ i) with h | h <;> simp [h, bit]

theorem bit_eq (b : Bool) : (bit b == 1) = b := by cases b <;> rfl

theorem en_bit (s : State) (p : PageId) : s.en p = (s.reg p 8).getLsbD 0 := by
  unfold State.en State.f; rw [fld1, bit_eq]

theorem lock_bit (s : State) (p : PageId) : s.locked p = (s.reg p 8).getLsbD 2 := by
  unfold State.locked State.f; rw [fld1, bit_eq]

theorem st_setReg8 (s : State) (p : PageId) (v : Word) : (s.setReg p 8 v).st p = s.st p := by
  unfold State.st
  exact f_setReg_other _ _ _ _ (regKey_ne_off p (by decide))

theorem st_raise (s : State) (p : PageId) (b info : Nat) : (raise s p b info).st p = s.st p := by
  unfold State.st State.f
  rw [raise_hdr _ _ _ _ _ (by simp)]

theorem en_raise (s : State) (p : PageId) (b info : Nat) : (raise s p b info).en p = s.en p := by
  unfold State.en State.f
  rw [raise_hdr _ _ _ _ _ (by simp)]

theorem settle_st (s : State) (p : PageId) : (settle s).st p = s.st p := settle_f _ _ _ _ _

theorem settle_en (s : State) (p : PageId) : (settle s).en p = s.en p := by unfold State.en; rw [settle_f]

theorem reg64_set (s : State) (p : PageId) (off v : Nat) (h : v < 2 ^ 64) : (s.setReg64 p off v).reg64 p off = v := by
  unfold State.reg64 State.setReg64
  rw [reg_setReg_same, reg_setReg_other _ _ (regKey_ne_off p (by omega)), reg_setReg_same, BitVec.toNat_ofNat,
      BitVec.toNat_ofNat]
  omega

theorem reg64_lt (s : State) (p : PageId) (off : Nat) : s.reg64 p off < 2 ^ 64 := by
  unfold State.reg64
  have := (s.reg p off).isLt
  have := (s.reg p (off + 4)).isLt
  omega

theorem reg64_other (s : State) (p : PageId) (off o v : Nat) (h : o / 4 ≠ off / 4) (h1 : (o + 4) / 4 ≠ off / 4) (h2 : o
    / 4 ≠ (off + 4) / 4) :
   (s.setReg64 p off v).reg64 p o = s.reg64 p o := by
  unfold State.reg64 State.setReg64
  rw [reg_setReg_other, reg_setReg_other, reg_setReg_other, reg_setReg_other] <;> apply regKey_ne_off <;> omega

theorem reg_set64_other (s : State) (p q : PageId) (off o v : Nat) (h : regKey q o ≠ regKey p off) (h1 : regKey q o ≠
    regKey p (off + 4)) :
   (s.setReg64 p off v).reg q o = s.reg q o := by
  unfold State.setReg64
  rw [reg_setReg_other _ _ h1, reg_setReg_other _ _ h]

theorem reg64_setReg (s : State) (p : PageId) (off o : Nat) (v : Word) (h : o / 4 ≠ off / 4) (h1 : (o + 4) / 4 ≠ off /
    4) :
   (s.setReg p off v).reg64 p o = s.reg64 p o := by
  unfold State.reg64
  rw [reg_setReg_other, reg_setReg_other] <;> apply regKey_ne_off <;> omega

theorem st_setSt (s : State) (p : PageId) (v : Nat) (h : v < 4) : (s.setSt p v).st p = v := by
  unfold State.st State.setSt
  rw [f_setF_same _ _ _ _ _ _ (by decide) (by decide)]; omega

theorem en_setSt (s : State) (p : PageId) (v : Nat) : (s.setSt p v).en p = s.en p := by
  unfold State.en State.setSt
  rw [f_setF_other _ _ _ _ _ _ (regKey_ne_off p (by decide))]

end Sys2Proof.Machine
end

