-- ==== Sys2Proof/WellFormed.lean ====
section
/-! DEFINITION. Which commands are well formed: every operand lies in the range that the spec gives it. The meanings are
total; a command with an operand out of range names nothing of the device. -/
namespace Sys2Proof

/-- A Dowel and a step that exist (R1, R57). -/
def dowelOk (d : DowelAt) : Bool :=
  decide (d.die < 4) && decide (d.panel < 132) && decide (d.dowel < 64) && decide (d.step < 4096)

/-- A requester that exists (R42). -/
def rqWf (rq : Requester) : Bool :=
  match rq with
  | .core c => decide (c < 8)
  | _ => true

/-- A post window that exists (R420). -/
def windowOk (w : PostWindow) : Bool :=
  match w with
  | .host => true
  | .core c => decide (c < 8)

/-- A requester of Veneer that exists (R269). -/
def vrqOk (v : VRequester) : Bool :=
  match v with
  | .queue q => decide (q < 64)
  | .core c => decide (c < 8)
  | _ => true

/-- Panels that exist (R57). -/
def findingsOk (f : StartupFindings) : Bool := f.bistFails.all (fun e => decide (e.1 < 4) && decide (e.2 < 132))

/-- A vector that exists (R483). -/
def unmaskOk (u : MsixUnmask) : Bool :=
  match u with
  | .vector v => decide (v < 128)
  | _ => true

/-- Every operand of the command lies in its range. -/
def Instr.wf (i : Instr) : Bool :=
  match i with
  | .registerWrite rq p off _ _ => rqWf rq && Machine.pageExists p && decide (off < 4096) && off % 4 == 0
  | .lowerHalfRead rq p off => rqWf rq && Machine.pageExists p && decide (off < 4096) && off % 4 == 0
  | .broadcastRead rq code off => rqWf rq && decide (code < 64) && decide (off < 4096) && off % 4 == 0
  | .broadcastWrite rq code off _ _ => rqWf rq && decide (code < 64) && decide (off < 4096) && off % 4 == 0
  | .pgCtlEn rq p _ => rqWf rq && Machine.pageExists p
  | .pgCtlSrst rq p => rqWf rq && Machine.pageExists p
  | .pgCtlLock rq p => rqWf rq && Machine.pageExists p
  | .pgStickyClear rq p _ => rqWf rq && Machine.pageExists p
  | .pgFirstClear rq p => rqWf rq && Machine.pageExists p
  | .pgSecondClear rq p => rqWf rq && Machine.pageExists p
  | .startSequenceEnd p _ => Machine.pageExists p
  | .stopSequenceEnd e => Machine.pageExists e.page
  | .dvtStartComplete die => decide (die < 4)
  | .cycStartChecks _ => true
  | .cycStop => true
  | .nop d => dowelOk d
  | .eval d => dowelOk d
  | .evalc d => dowelOk d
  | .prd d => dowelOk d
  | .pwr d => dowelOk d
  | .memq d => dowelOk d
  | .probe d => dowelOk d
  | .pino d => dowelOk d
  | .stopif d => dowelOk d
  | .trigb d => dowelOk d
  | .reservedOpcode d => dowelOk d
  | .scrub die panel => decide (die < 4) && decide (panel < 132)
  | .exportRecord die panel => decide (die < 4) && decide (panel < 132)
  | .crossbarRow g row => decide (g < 4) && decide (row < 4096)
  | .bundleSlotRow row => decide (row < 4096)
  | .dieLinkFrame die m _ _ _ => decide (die < 4) && decide (m < 4)
  | .dlLane die m _ _ => decide (die < 4) && decide (m < 4)
  | .dieLinkRetrain rq die => rqWf rq && decide (die < 4)
  | .dieLinkTrainingEnd die m _ _ => decide (die < 4) && decide (m < 4)
  | .decisionStep => true
  | .voteRelay _ k => decide (k < 64)
  | .voteMessage b _ _ _ => decide (b < 6)
  | .confirmStep => true
  | .commitStep => true
  | .boundary => true
  | .releaseVote => true
  | .releasePoint => true
  | .clpHostHold rq _ => rqWf rq
  | .clpReleaseFault rq => rqWf rq
  | .clpReleaseStopif rq => rqWf rq
  | .clpReleaseTrigStop rq => rqWf rq
  | .clpPropWrite rq _ _ => rqWf rq
  | .queueIssue die q => decide (die < 4) && decide (q < 16)
  | .memoryResponse die q => decide (die < 4) && decide (q < 16)
  | .go rq => rqWf rq
  | .endStream rq => rqWf rq
  | .streamEnd => true
  | .abort rq => rqWf rq
  | .commit rq => rqWf rq
  | .srcSelect rq _ => rqWf rq
  | .ldrWrPtrWrite rq _ => rqWf rq
  | .ldrData _ => true
  | .ldrCtrl _ => true
  | .segmentPrefix => true
  | .tagVerify => true
  | .checkEnd => true
  | .chainStart b pos _ => decide (b < 6) && decide (pos < 64)
  | .chainEnd => true
  | .chainReady => true
  | .chainFail pos code check => decide (pos < 64) && decide (code < 16) && decide (check < 18)
  | .chainCommit _ => true
  | .chainAbort pos _ => decide (pos < 64)
  | .chainDone pos => decide (pos < 64)
  | .chainTimeout => true
  | .commitBegin => true
  | .commitEnd => true
  | .burn rq _ => rqWf rq
  | .retire rq _ => rqWf rq
  | .battWrite rq => rqWf rq
  | .battClear rq => rqWf rq
  | .tamper => true
  | .vbatLow => true
  | .lineAccess who line _ => vrqOk who && decide (line < 1073741824)
  | .regionEnable rq stack rgn => rqWf rq && decide (stack < 2) && decide (rgn < 16)
  | .generate rq _ => rqWf rq
  | .flush rq _ => rqWf rq
  | .flushEnd id => decide (id < 16)
  | .vnrRetire rq _ => rqWf rq
  | .retireEnd id => decide (id < 16)
  | .seal rq stack _ _ => rqWf rq && decide (stack < 2)
  | .sealEnd stack => decide (stack < 2)
  | .bundleFrame b _ _ => decide (b < 6)
  | .lossOfAlignment b => decide (b < 6)
  | .dataUnit b _ => decide (b < 6)
  | .retry b _ => decide (b < 6)
  | .retryResend b => decide (b < 6)
  | .resume b _ => decide (b < 6)
  | .lanemap b failed spare _ => decide (b < 6) && decide (failed < 9) && decide (spare < 9)
  | .time b _ _ _ _ => decide (b < 6)
  | .timeTimer => true
  | .state b _ => decide (b < 6)
  | .stateTimer => true
  | .ident b _ => decide (b < 6)
  | .identResend b => decide (b < 6)
  | .topo b pk => decide (b < 6) && pk.nbrs.length == 6
  | .topoTimer => true
  | .topoStable => true
  | .mesh b _ _ => decide (b < 6)
  | .attach b _ => decide (b < 6)
  | .laneVerdict b own _ _ => decide (b < 6) && own.length == 9
  | .clockLock => true
  | .alignDone b _ => decide (b < 6)
  | .trainingTimeout b _ => decide (b < 6)
  | .failedRestart b => decide (b < 6)
  | .detach b _ => decide (b < 6)
  | .laneFail b l => decide (b < 6) && decide (l.lane < 9)
  | .spareCheckEnd b e => decide (b < 6) && decide (e.lane < 9)
  | .failoverLanemap b => decide (b < 6)
  | .lanemapSwitch b _ => decide (b < 6)
  | .lanemapResend b => decide (b < 6)
  | .failoverEnd b => decide (b < 6)
  | .failoverTimeout b => decide (b < 6)
  | .bndRetrain rq b => rqWf rq && decide (b < 6)
  | .failover rq b _ => rqWf rq && decide (b < 6)
  | .trainEn rq b _ => rqWf rq && decide (b < 6)
  | .bndInjArm rq b _ => rqWf rq && decide (b < 6)
  | .lnInj rq lane => rqWf rq && decide (lane < 54)
  | .lnTestWrite rq lane _ _ _ => rqWf rq && decide (lane < 54)
  | .meshSend rq b _ => rqWf rq && decide (b < 6)
  | .meshPop rq b => rqWf rq && decide (b < 6)
  | .bndTsAck rq b => rqWf rq && decide (b < 6)
  | .bndClkWrite rq _ _ => rqWf rq
  | .gauInc rq k _ => rqWf rq && decide (k < 16)
  | .gauAdj rq k _ => rqWf rq && decide (k < 16)
  | .gauSet rq k _ => rqWf rq && decide (k < 16)
  | .gauCtlSrc rq k _ _ _ => rqWf rq && decide (k < 16)
  | .ppsEdge k => decide (k < 16)
  | .tclkWindowEnd k => decide (k < 16)
  | .ppsLost k => decide (k < 16)
  | .gauEvtArm rq k _ => rqWf rq && decide (k < 16)
  | .oneShotFire k => decide (k < 16)
  | .periodicFire k => decide (k < 16)
  | .windowFire k => decide (k < 16)
  | .pulseEnd k => decide (k < 16)
  | .cycleRecord => true
  | .captureWrite => true
  | .trgCtlArm rq _ => rqWf rq
  | .capCtlArm rq _ => rqWf rq
  | .measCtlArm rq k _ => rqWf rq && decide (k < 8)
  | .trgActCtlWrite rq _ => rqWf rq
  | .snap rq => rqWf rq
  | .snapEnd => true
  | .restore rq => rqWf rq
  | .restorePassEnd => true
  | .restoreEnd => true
  | .trcCtlRun rq c _ => rqWf rq && decide (c < 8)
  | .trcCtlTrig rq c => rqWf rq && decide (c < 8)
  | .trcAuth rq c _ => rqWf rq && decide (c < 8)
  | .traceSync c => decide (c < 8)
  | .traceTimestamp c => decide (c < 8)
  | .traceStop c => decide (c < 8)
  | .traceOverflow c => decide (c < 8)
  | .coreInstruction c => decide (c < 8)
  | .wfi c => decide (c < 8)
  | .coreWake c => decide (c < 8)
  | .machineTimerInterrupt c => decide (c < 8)
  | .machineExternalInterrupt c => decide (c < 8)
  | .ccMsip rq c _ => rqWf rq && decide (c < 8)
  | .ccIrqLocSelect rq c _ => rqWf rq && decide (c < 8)
  | .ccAlarmAck c => decide (c < 8)
  | .post w _ => windowOk w
  | .postPlace p => match p with
    | .window w => windowOk w
    | .slot c => decide (c < 8)
  | .dispatch => true
  | .ccWdDone rq c _ => rqWf rq && decide (c < 8)
  | .flowRelease f => decide (f < 16)
  | .delayTick k => decide (k < 4)
  | .delayListEnable rq k _ _ => rqWf rq && decide (k < 4)
  | .read src _ _ => decide (src < 64)
  | .write src _ _ => decide (src < 64)
  | .bcastWrite src _ _ => decide (src < 64)
  | .bcastRead src _ _ => decide (src < 64)
  | .amo src _ _ => decide (src < 64)
  | .rspData src _ => decide (src < 64)
  | .rspAck src _ => decide (src < 64)
  | .rspErr src _ => decide (src < 64)
  | .ringTimeout src _ => decide (src < 64)
  | .bufferQuarantineEnd src _ => decide (src < 64)
  | .urgencyRise src _ _ _ => decide (src < 64)
  | .routeTableUpdate node dst => decide (node < 64) && decide (dst < 64)
  | .pinBankVsel rq p _ => rqWf rq && decide (p < 12)
  | .pinCfgWrite rq p _ _ => rqWf rq && decide (p < 12)
  | .pinSample _ => true
  | .sampleInstant p _ => decide (p < 12)
  | .driveInstant p => decide (p < 12)
  | .pinTimeWrite rq p _ _ => rqWf rq && decide (p < 12)
  | .gpioWrite rq p _ _ _ => rqWf rq && decide (p < 12)
  | .uartTxWrite rq p _ => rqWf rq && decide (p < 12)
  | .uartRxByte p _ _ _ => decide (p < 12)
  | .uartPop rq p => rqWf rq && decide (p < 12)
  | .i2cCmd rq p _ => rqWf rq && decide (p < 12)
  | .i2cCommandEnd p _ _ _ => decide (p < 12)
  | .pinLockKey rq p _ => rqWf rq && decide (p < 12)
  | .pinLock rq p _ => rqWf rq && decide (p < 12)
  | .lockKeyExpiry rq p => rqWf rq && decide (p < 12)
  | .wakePin k => decide (k < 8)
  | .bar0Request _ _ _ _ => true
  | .bar2Read _ _ => true
  | .bar2Write _ _ _ => true
  | .functionLevelReset => true
  | .flrComplete => true
  | .hotReset => true
  | .linkDownReset => true
  | .perst => true
  | .linkDown => true
  | .d3hot _ => true
  | .hstAlarmAck rq => rqWf rq
  | .hstMsixSend rq _ => rqWf rq
  | .hstRearm rq _ => rqWf rq
  | .msixUnmask u => unmaskOk u
  | .hstDoorbellSet rq _ => rqWf rq
  | .powerOn p => findingsOk p
  | .startupEnd => true
  | .vstbyLoss => true
  | .vinLow => true
  | .vinUv => true
  | .vinOv => true
  | .overpower => true
  | .requestHold rq => rqWf rq
  | .requestIdle rq => rqWf rq
  | .requestRetain rq => rqWf rq
  | .requestDormant rq => rqWf rq
  | .transitionEnd => true
  | .wakeTimer => true
  | .bundleWake b => decide (b < 6)
  | .vinRestored => true
  | .powerSample m => m.rails.length == 8
  | .thermalSample t => t.length == 7
  | .pwrStepClk rq _ => rqWf rq
  | .thmLimitWrite rq _ => rqWf rq
  | .drwRst rq _ p => rqWf rq && findingsOk p
  | .warmRst _ p => findingsOk p
  | .drawerCommit rq => rqWf rq
  | .drawerCommitEnd _ => true
  | .drawerWindowWrite rq off _ _ => rqWf rq && decide (off < 4096) && off % 4 == 0
  | .mark rq die panel => rqWf rq && decide (die < 4) && decide (panel < 132)
  | .extest _ => true
  | .samplePreload _ => true
  | .idcode => true
  | .bypass _ => true
  | .testLogicReset => true
  | .referenceTick _ => true
  | .uartByteSent p => decide (p < 12)
  | .delayListDrain k => decide (k < 4)
  | .listHeadAging l => decide (l < 64)
  | .linkRetrained speed width => Machine.linkRateOk speed.toNat && Machine.linkWidthOk width.toNat

end Sys2Proof
end

