-- ==== Sys2Proof/Tests/Slice0.lean ====
section
/-! SUPPORT. The model's own tests. First a command with an operand out of range for each check of `WellFormed`, refused;
then, for each statement with hypotheses, states and operands that meet the hypotheses of its clauses; then single
commands on small states, with the results that the spec's words give. -/
set_option linter.unusedVariables false
set_option maxRecDepth 4000
set_option Elab.async false
namespace Sys2Proof.Tests
open Sys2Proof Sys2Proof.Machine

/-! ### Well-formedness -/

theorem test_wf_dowel : Instr.wf (.eval ⟨3, 131, 63, 4095⟩) = true ∧ Instr.wf (.eval ⟨4, 0, 0, 0⟩) = false ∧
    Instr.wf (.nop ⟨0, 132, 0, 0⟩) = false ∧ Instr.wf (.evalc ⟨0, 0, 64, 0⟩) = false ∧
    Instr.wf (.memq ⟨0, 0, 0, 4096⟩) = false := by decide
theorem test_wf_requester : Instr.wf (.go (.core 7)) = true ∧ Instr.wf (.go (.core 8)) = false := by decide
theorem test_wf_window : Instr.wf (.postPlace (.window (.core 7))) = true ∧
    Instr.wf (.postPlace (.window (.core 8))) = false ∧ Instr.wf (.postPlace (.slot 8)) = false := by decide
theorem test_wf_veneer_requester : Instr.wf (.lineAccess (.queue 63) 1073741823 none) = true ∧
    Instr.wf (.lineAccess (.queue 64) 0 none) = false ∧ Instr.wf (.lineAccess (.core 8) 0 none) = false ∧
    Instr.wf (.lineAccess .host 1073741824 none) = false := by decide
theorem test_wf_findings : Instr.wf (.powerOn ⟨[(3, 131)]⟩) = true ∧ Instr.wf (.powerOn ⟨[(0, 132)]⟩) = false ∧
    Instr.wf (.powerOn ⟨[(4, 0)]⟩) = false := by decide
theorem test_wf_unmask : Instr.wf (.msixUnmask (.vector 127)) = true ∧ Instr.wf (.msixUnmask (.vector 128)) = false := by
  decide
theorem test_wf_page : Instr.wf (.pgCtlEn .host ⟨.cyc, 0⟩ true) = true ∧
  Instr.wf (.pgCtlEn .host ⟨.cyc, 1⟩ true) = false ∧
    Instr.wf (.stopSequenceEnd ⟨⟨.cc, 8⟩, true, false⟩) = false := by decide
theorem test_wf_offset : Instr.wf (.registerWrite .host ⟨.cyc, 0⟩ 4092 15 0) = true ∧
    Instr.wf (.registerWrite .host ⟨.cyc, 0⟩ 4096 15 0) = false ∧
    Instr.wf (.lowerHalfRead .host ⟨.cyc, 0⟩ 2) = false ∧ Instr.wf (.broadcastRead .host 64 0) = false := by decide
theorem test_wf_places : Instr.wf (.scrub 4 0) = false ∧ Instr.wf (.scrub 0 132) = false ∧
    Instr.wf (.crossbarRow 4 0) = false ∧ Instr.wf (.crossbarRow 0 4096) = false ∧
    Instr.wf (.bundleSlotRow 4096) = false ∧ Instr.wf (.dieLinkTrainingEnd 0 4 ⟨0, true⟩ 0) = false ∧
    Instr.wf (.voteRelay 0 64) = false ∧ Instr.wf (.voteMessage 6 0 ⟨0, none⟩ none) = false ∧
    Instr.wf (.queueIssue 0 16) = false ∧ Instr.wf (.regionEnable .host 2 0) = false ∧
    Instr.wf (.regionEnable .host 0 16) = false ∧ Instr.wf (.flushEnd 16) = false := by decide
theorem test_wf_chain : Instr.wf (.chainFail 63 15 17) = true ∧ Instr.wf (.chainFail 64 15 17) = false ∧
    Instr.wf (.chainFail 63 16 17) = false ∧ Instr.wf (.chainFail 63 15 18) = false := by decide
theorem test_wf_lanes : Instr.wf (.lanemap 5 8 8 0) = true ∧ Instr.wf (.lanemap 5 9 8 0) = false ∧
    Instr.wf (.lanemap 5 8 9 0) = false ∧ Instr.wf (.laneFail 5 ⟨9, true⟩) = false ∧ Instr.wf (.lnInj .host 54) = false ∧
    Instr.wf (.topo 0 ⟨1, 0, []⟩) = false := by decide
theorem test_wf_units : Instr.wf (.ppsEdge 16) = false ∧ Instr.wf (.measCtlArm .host 8 true) = false ∧
    Instr.wf (.coreInstruction 8) = false ∧ Instr.wf (.flowRelease 16) = false ∧ Instr.wf (.delayTick 4) = false ∧
    Instr.wf (.listHeadAging 64) = false ∧ Instr.wf (.read 64 0 .none) = false ∧
    Instr.wf (.routeTableUpdate 0 64) = false ∧ Instr.wf (.pinBankVsel .host 12 0) = false ∧
    Instr.wf (.wakePin 8) = false ∧ Instr.wf (.powerSample ⟨0, 0, 0, []⟩) = false ∧
    Instr.wf (.thermalSample []) = false := by decide

/-! ### States that the tests start from -/

/-- The device after STARTUP_END: it runs, in Hold, with every page OFF. -/
def running : State := State.reset.withPwr { State.reset.pwr with starting := false, fromOff := false }
/-- The same, with the named pages ON. -/
def withOn (s : State) (ps : List PageId) : State := ps.foldl (fun s p => s.setSt p stOn) s
/-- Step t of an execution, N = 64, S = 16 and PROP = 64, the CYC_ page ON. -/
def atStep (t : Nat) (ph : Phase) : State :=
  let s := ((withOn running [cycPg, clpPg]).setF clpPg 0x40 9 0 64)
  s.withCyc { s.cyc with csc := 1000 + t, t0 := 1000, phase := ph, free := false }
/-- What a command leaves, seen through g. -/
def seen {α : Type} (c : Instr) (s : State) (g : State → α) : Option α :=
  match exec c s with
  | .next t => some (g t)
  | _ => none

/-! ### The hypotheses of the statements can be met -/

theorem test_witness_StepRunsFront : ({ running with pending := [.boundary] } : State).pending = .boundary :: [] ∧
    running.pending = [] := ⟨rfl, rfl⟩
theorem test_serves : running.serves .host ∧ running.serves (.core 7) := by unfold State.serves; decide +kernel
theorem test_witness_RegisterWriteField : running.serves .host ∧ pageExists cycPg = true ∧
    (0xffffabcd : BitVec 32) &&& beMask 3 &&& 0xffff0000 = 0 := by unfold State.serves; decide +kernel
theorem test_witness_ReservedBitRecorded : running.serves .host ∧ pageExists cycPg = true ∧
    (0x80000000 : BitVec 32) &&& 0xffff0000 ≠ 0 ∧ running.f cycPg 0x18 31 31 = 0 := by unfold State.serves; decide +kernel
theorem test_witness_HoldingRegister : running.serves .host ∧ regHalf .cyc 0 0x48 = 1 ∧ regHalf .cyc 0 0x4c = 2 ∧
    (running.withHold [(0, some (regKey cycPg 0x4c, 7))]).held .host = some (regKey cycPg 0x4c, 7) ∧
    (running.withHold [(0, some (regKey cycPg 0x4c, 7))]).serves .host ∧ rqCode (.core 7) ≠ rqCode .host := by
  unfold State.serves; decide +kernel
theorem test_witness_Broadcasts : running.serves .host ∧
    (∀ i, i ∈ instancesOf .cc → (2 : BitVec 32) &&& ~~~stickyMask .cc i = 0) ∧
    (running.setReg hstPg 0x40 1).addressed .host (pageCode .cc) = (List.range 8).map (fun c => ⟨.cc, c⟩) := by
  unfold State.serves; decide +kernel
/-- The CLP_ page OFF and unlocked, OFF and locked, ON and unlocked, STARTING with EN = 1. -/
theorem test_witness_PageControl : running.serves .host ∧ pageExists clpPg = true ∧ clpPg.ty ≠ .pnl ∧
    running.locked clpPg = false ∧ running.st clpPg = stOff ∧ (running.setF clpPg 8 2 2 1).locked clpPg = true ∧
    (running.setSt clpPg stOn).st clpPg ≠ stOff ∧ (running.setSt clpPg stOn).locked clpPg = false := by
  unfold State.serves; decide +kernel
theorem test_witness_EnableWrite : running.en clpPg = false ∧ running.st clpPg = stOff ∧
    ((running.setSt clpPg stOn).setF clpPg 8 0 0 1).en clpPg = true ∧ running.f (pnlPg 0 0) 0x40 31 31 = 0 ∧
    (running.setSt clpPg stStarting).st clpPg = stStarting ∧ (running.setF clpPg 8 2 2 1).locked clpPg = true := by
  decide +kernel
theorem test_witness_StickyAndCaptures : running.serves .host ∧ pageExists (vnrPg 1) = true ∧ pageExists clpPg = true ∧
    (2 : BitVec 32) &&& ~~~stickyMask .clp 0 = 0 ∧ running.recent = [] := by unfold State.serves; decide +kernel
theorem test_witness_EventsAreCaptured : (3 < 31 ∧ 31 < 32) ∧ running.f clpPg 0x18 31 31 = 0 ∧
    (raise running clpPg 9 1).f clpPg 0x18 31 31 = 1 ∧ (raise running clpPg 9 1).f clpPg 0x1c 31 31 = 0 ∧
    (raise (raise running clpPg 9 1) clpPg 8 2).f clpPg 0x1c 31 31 = 1 ∧
    (raise running clpPg 9 1).fresh clpPg 4 = true ∧ 8 < (raise running clpPg 9 1).f clpPg 0x18 28 24 ∧
    ((raise running clpPg 9 1).withRecent []).fresh clpPg 4 = false := by decide +kernel
theorem test_witness_SequencesEnd : pageExists (gauPg 15) = true ∧
  (running.setSt (gauPg 15) stStarting).st (gauPg 15) = stStarting ∧
    (running.setSt (gauPg 15) stStopping).st (gauPg 15) = stStopping := by decide +kernel

/-- Die 0, Panel 0, Dowel k holds the word w at step t; the Panel is bound and ON, the step in hand is t. -/
def dowelAt (k t : Nat) (w : BitVec 80) : State :=
  let s := (((atStep t .running).setReg cycPg 0x40 (BitVec.ofNat 32 (64 + 16 * 2 ^ 16))).setSt (pnlPg 0 0) stOn).setF
    (pnlPg 0 0) 0x40 31 31 1
  s.setPanel 0 0 { Panel.empty with is := [(k * 4096 + t, w)] }
/-- A word: opcode, truth table and operand d; its other operands are slot 0 of the Dowel. -/
def word (op tt d : Nat) : BitVec 80 := BitVec.ofNat 80 (op * 2 ^ 76 + tt * 2 ^ 58 + d * 2 ^ 42)
theorem test_witness_DowelStepResult : (63 : Nat) < 64 := by decide
theorem test_witness_DowelLookup :
    (dowelAt 63 63 (word 1 1 0)).dowelReady ⟨0, 0, 63, 63⟩ (word 1 1 0) ∧ wOp (word 1 1 0) = 1 ∧
    (dowelAt 63 63 (word 1 1 0)).readsClean ⟨0, 0, 63, 63⟩ 0 ∧ wOpd (word 1 1 0) = 0 ∧
    (dowelAt 16 0 (word 2 1 0)).dowelReady ⟨0, 0, 16, 0⟩ (word 2 1 0) ∧ wOp (word 2 1 0) = 2 ∧
    (dowelAt 16 0 (word 2 1 0)).readsClean ⟨0, 0, 16, 0⟩ 0 ∧
    (carryIn (dowelAt 16 0 (word 2 1 0)) 0 0 16 0 0).rsvd = false ∧
    (carryIn (dowelAt 16 0 (word 2 1 0)) 0 0 16 0 0).badRow = none := by
  unfold State.dowelReady State.readsClean; decide +kernel
theorem test_witness_DowelContributes :
    (∀ op ∈ [3, 4, 6, 7, 9], (dowelAt 0 0 (word op 1 0)).dowelReady ⟨0, 0, 0, 0⟩ (word op 1 0) ∧
      wOp (word op 1 0) = op ∧ (selBit op 0).isSome = true ∧ selStrobe op 0 = false ∧
      (dowelAt 0 0 (word op 1 0)).readsClean ⟨0, 0, 0, 0⟩ 0) ∧
    selStrobe 3 (wOpd (word 3 1 4096)) = true ∧ selStrobe 4 (wOpd (word 4 1 8192)) = true ∧
    (dowelAt 0 0 (word 3 1 4096)).dowelReady ⟨0, 0, 0, 0⟩ (word 3 1 4096) := by
  unfold State.dowelReady State.readsClean; decide +kernel
theorem test_witness_DowelRequests :
    (let s := (dowelAt 0 0 (word 5 1 1024)).setReg (mqPg 0 1) 0x40 0x1
     s.dowelReady ⟨0, 0, 0, 0⟩ (word 5 1 1024) ∧ wOp (word 5 1 1024) = 5 ∧ wOpd (word 5 1 1024) / 1024 = 1 ∧
      (s.qDesc 0 1).en = true ∧ 0 < (s.qDesc 0 1).recBits) ∧
    (dowelAt 0 0 (word 8 0 255)).dowelReady ⟨0, 0, 0, 0⟩ (word 8 0 255) ∧ wOpd (word 8 0 255) < 256 ∧
    (dowelAt 0 0 (word 8 0 255)).dowelBit ⟨0, 0, 0, 0⟩ (word 8 0 255) = false ∧
    (dowelAt 0 0 (word 8 1 255)).dowelReady ⟨0, 0, 0, 0⟩ (word 8 1 255) ∧
    (dowelAt 0 0 (word 8 1 255)).dowelBit ⟨0, 0, 0, 0⟩ (word 8 1 255) = true := by
  unfold State.dowelReady; decide +kernel
theorem test_witness_DowelIdleAndBadWords :
    (dowelAt 0 0 (word 0 0 0)).dowelReady ⟨0, 0, 0, 0⟩ (word 0 0 0) ∧ wOp (word 0 0 0) = 0 ∧
    (dowelAt 0 0 (word 15 0 0)).dowelReady ⟨0, 0, 0, 0⟩ (word 15 0 0) ∧ 10 ≤ wOp (word 15 0 0) ∧
    (let s := (dowelAt 0 0 (word 1 0 0)).setPanel 0 0
        { Panel.empty with is := [(0, word 1 0 0)], isErr := [(0, .uncorrectable)] }
     dowelDue s ⟨0, 0, 0, 0⟩ = true ∧ s.step = 0 ∧ fetchWord (s.panel 0 0) 0 0 = (word 1 0 0, .uncorrectable)) := by
  unfold State.dowelReady; decide +kernel
theorem test_witness_ScrubAndExport :
    (let s := running.setSt (pnlPg 3 131) stOn
     s.on (pnlPg 3 131) = true ∧ noFetch s = true ∧ s.loaderWrites 3 131 = false ∧
      scrubHits (s.panel 3 131) (s.panel 3 131).scrubPos .corrected = [] ∧
      scrubHits (s.panel 3 131) (s.panel 3 131).scrubPos .uncorrectable = []) ∧
    (let s := dowelAt 0 64 0
     s.on (pnlPg 0 0) = true ∧ s.executing = true ∧ s.cyc.phase ≠ .settled ∧ (s.lpanel 0 0).isSome = true ∧
      s.step = s.nLen) := by decide +kernel
theorem test_witness_FabricRows :
    let s := (dowelAt 0 63 0).setSt (dvtPg 3) stOn
    s.executing = true ∧ 63 < s.nLen ∧ s.step = 63 ∧ s.on (dvtPg 3) = true := by decide +kernel
/-- The die links of die 0 and 1 up, the DIE_ pages ON. -/
def linked (s : State) : State :=
  [0, 1, 2, 3].foldl (fun s d => [0, 1, 2, 3].foldl (fun s m => s.setMod d m .up) s)
    (withOn s [diePg 0, diePg 1, diePg 2, diePg 3])
theorem test_witness_DieLinkFrames : linkCarries (linked running) 3 2 = true ∧ (linked running).executing = false ∧
    linkCarries (linked running) 0 0 = true ∧
    (let s := linked (dowelAt 0 40 0)
     linkCarries s 0 0 = true ∧ s.executing = true ∧ s.step = 40 ∧ 40 < s.tStep ∧ linkLat 0 ≤ 40 ∧
      40 - linkLat 0 < s.nLen) := by decide +kernel
theorem test_witness_DieLinkTraining : running.serves .host ∧ running.on cycPg = false ∧
    (running.setSt cycPg stOn).on cycPg = true ∧ (running.setMod 3 3 .training).modTrains 3 3 = true ∧
    (running.setMod 3 3 .retraining).modTrains 3 3 = true ∧
    (linked running).mod 3 3 = .up := by unfold State.serves; decide +kernel

/-- N = 64, S = 64, PROP = 64: D = 64, C = 112, Q = 112, T = 128. -/
def cycAt (t : Nat) (ph : Phase) : State := (atStep t ph).setReg cycPg 0x40 (BitVec.ofNat 32 (64 + 64 * 2 ^ 16))
/-- A round of this execution that has heard h. -/
def roundOf (h : BitVec 8) : Round := ⟨0, 1064, 0, h, false⟩
def voted (t : Nat) (h : BitVec 8) : State :=
  (cycAt t .voted).withCyc { (cycAt t .voted).cyc with rounds := [roundOf h] }
def settledWith (t : Nat) (ph : Phase) (o : BitVec 8) : State :=
  (cycAt t ph).withCyc { (cycAt t ph).cyc with outcome := o }
/-- The device held at step 0 of the hold, PROP = 64, release points 64 steps apart. -/
def heldAt (csc : Nat) : State :=
  let s := withOn running [clpPg]
  s.withCyc { s.cyc with csc := csc, free := false, nextRel := 64, voteFor := 64, firstRel := 64 }
/-- Bundle b is UP, its page ON, training enabled. -/
def bundleAt (s : State) (b v : Nat) : State := ((s.setSt (bndPg b) stOn).setF (bndPg b) 0x40 8 8 1).setBst b v

theorem test_witness_CycleStartAndStop :
    (let s := ((running.setSt (dvtPg 3) stStarting).setSt (diePg 3) stOn).setF (dvtPg 3) 8 0 0 1
     s.st (dvtPg 3) = stStarting ∧ s.on (diePg 3) = true ∧ s.en (dvtPg 3) = true) ∧
    (let s := (running.setSt cycPg stStarting).setF cycPg 8 0 0 1
     s.st cycPg = stStarting ∧ s.stepRuns = true ∧ s.snapBusy = false ∧ s.pagesReady = true ∧ s.on clpPg = false) ∧
    (let s := ((((running.setSt cycPg stStarting).setF cycPg 8 0 0 1).setSt clpPg stOn).setF ldrPg 0x44 4 4 1).setF
        bnd0 0x188 16 16 1
     let s := (s.setReg cycPg 0x40 (BitVec.ofNat 32 (64 + 16 * 2 ^ 16)))
     s.st cycPg = stStarting ∧ s.stepRuns = true ∧ s.snapBusy = false ∧ s.pagesReady = true ∧ s.on clpPg = true ∧
      s.f ldrPg 0x44 4 4 = 1 ∧ s.cyc.noImage = false ∧ s.prop ≤ s.sLen ∧ 48 * s.f bnd0 0x188 5 0 + 16 ≤ s.prop ∧
      (∀ b, b < 6 → s.f (bndPg b) 0x44 5 5 = 0) ∧ s.f bnd0 0x188 16 16 = 1 ∧ s.en cycPg = true) ∧
    ((running.setSt cycPg stStopping).st cycPg = stStopping ∧ running.executing = false ∧ running.en cycPg = false ∧
      running.releaseDue = false) ∧
    (let s := (running.withCyc { running.cyc with rounds := [⟨running.cyc.csc, 0, 0, 0, false⟩] }).setSt cycPg stStopping
     s.st cycPg = stStopping ∧ s.executing = false ∧ s.releaseDue = true) := by
  decide +kernel
theorem test_witness_Votes :
    ((cycAt 64 .running).cyc.phase = .running ∧ (cycAt 64 .running).step = (cycAt 64 .running).dStep) ∧
    (let s := (voted 80 1).setF clpPg 0x40 9 0 112
     let s := s.withCyc { s.cyc with csc := 1112 }
     s.cyc.rounds.find? (fun r => r.v == (1064 : BitVec 64).toNat) = some (roundOf 1) ∧ 0 < 1 ∧ 1 < s.relays ∧
      s.stepAhead ((1064 : BitVec 64).toNat + 48 * 1) = true ∧ s.cyc.csc = (1064 : BitVec 64).toNat + 48 * 1) ∧
    (let s := bundleAt (voted 112 0) 5 bsUp
     let s := s.setF (bndPg 5) 0x44 11 8 8
     s.bup 5 = true ∧ s.loadMode 5 = false ∧ 0 < s.relays ∧ s.cyc.csc = (1064 : BitVec 64).toNat + 48 * (0 + 1) ∧
      s.stepAhead s.cyc.csc = true ∧ (∀ r ∈ s.cyc.rounds, s.voteKnown r = false) ∧
      frameCopy s 5 (1064 : BitVec 64).toNat 0 = none ∧ s.spareHeard 5 = true ∧
      (some (voteBlock 8)).bind spareCopy = some 8 ∧ (8 : BitVec 50).toNat % 16 = (1064 : BitVec 64).toNat % 16 ∧
        s.cycOn = true ∧
      fld (8 : BitVec 50).toNat 12 12 = 0 ∧ fld (4104 : BitVec 50).toNat 12 12 = 1 ∧
      fld (4104 : BitVec 50).toNat 25 13 ≠ s.nLen ∧ s.votesExcused 5 (1064 : BitVec 64).toNat = false ∧
      s.cyc.rounds.any (fun r => r.v == (1064 : BitVec 64).toNat) = true) := by decide +kernel
theorem test_witness_ConfirmAndCommit :
    ((voted 112 0).cyc.phase = .voted ∧ (voted 112 0).step = (voted 112 0).cStep ∧
      (voted 112 0).cyc.rounds.find? (fun r => r.rel == 0) = some (roundOf 0) ∧ (roundOf 0).heard.getLsbD 1 = false) ∧
    (let s := (voted 112 2).setF clpPg 0x58 2 0 ((voted 112 2).f clpPg 0x44 2 0)
     s.cyc.rounds.find? (fun r => r.rel == 0) = some (roundOf 2) ∧ (roundOf 2).heard.getLsbD 1 = true ∧
      s.f clpPg 0x58 2 0 = s.f clpPg 0x44 2 0) ∧
    ((cycAt 112 .confirmed).cyc.phase = .confirmed ∧ (cycAt 112 .confirmed).step = (cycAt 112 .confirmed).qStep ∧
      (cycAt 112 .confirmed).cyc.outcome.getLsbD 1 = false ∧ (cycAt 112 .confirmed).cyc.outcome.getLsbD 7 = false) ∧
    ((settledWith 112 .confirmed 0x80).cyc.outcome.getLsbD 7 = true ∧
      (settledWith 112 .confirmed 0x80).step = (settledWith 112 .confirmed 0x80).qStep) := by decide +kernel
theorem test_witness_ConfirmAndCommit_stores :
    (∀ die q, ((cycAt 112 .confirmed).queue die q).held = []) ∧
    (∀ die panel, ((settledWith 112 .confirmed 0x80).panel die panel).shBad = []) :=
  ⟨fun _ _ => rfl, fun _ _ => rfl⟩
theorem test_witness_BoundaryAndReleases :
    ((settledWith 128 .settled 0).cyc.phase = .settled ∧
      (settledWith 128 .settled 0).step = (settledWith 128 .settled 0).tStep ∧
      (settledWith 128 .settled 0).cyc.outcome = 0 ∧ (settledWith 128 .settled 8).cyc.outcome ≠ 0) ∧
    (let s := (heldAt 0).setF clpPg 0x40 9 0 64
     s.executing = false ∧ s.cyc.free = false ∧ s.pwr.off = false ∧ s.pwr.starting = false ∧
      s.cyc.voteFor < s.cyc.nextRel + s.prop ∧ s.cyc.csc + s.prop = s.cyc.voteFor) ∧
    (∀ h ∈ [(0 : BitVec 8), 1],
      let s := ((heldAt 64).setSt cycPg stOn).withCyc
        { (heldAt 64).cyc with voteFor := 128, rounds := [⟨64, 0, 0, h, false⟩] }
      s.executing = false ∧ s.cyc.free = false ∧ s.cyc.nextRel < s.cyc.voteFor ∧ s.cyc.csc = s.cyc.nextRel ∧
        s.cycOn = true ∧ s.cyc.rounds.find? (fun r => r.rel == s.cyc.nextRel) = some ⟨64, 0, 0, h,
          false⟩) := by decide +kernel
theorem test_witness_ClampControls : running.serves .host ∧ running.ldSt ≠ ldCommit ∧ running.snapBusy = false ∧
    running.locked clpPg = false ∧ (0x3ff : BitVec 32) &&& ~~~0x3ff = 0 ∧ (7 : BitVec 32) &&& ~~~7 = 0 ∧
    running.cycOff = true ∧ (running.setSt cycPg stOn).cycOff = false ∧
    (running.setSt cycPg stOn).f clpPg 0x40 9 0 ≠ (0x3ff : BitVec 32).toNat := by unfold State.serves; decide +kernel
theorem test_witness_QueueTraffic :
    (let s := withOn (cycAt 72 .running) [mqPg 3 15]
     s.executing = true ∧ s.cyc.phase ≠ .settled ∧ s.on (mqPg 3 15) = true ∧ (s.queue 3 15).issued = false ∧
      s.step = s.nLen + 8) ∧
    (let s := running.setQueue 3 15 { Queue.empty with resps := [⟨0, 1, 0, [], 0, false⟩] }
     (s.queue 3 15).resps.find? (fun r => !r.arrived) = some ⟨0, 1, 0, [], 0, false⟩) := by decide +kernel

/-- The loader in a state, its page ON; on a device behind the head, with bundles 0 up and 1 down the chain UP. -/
def loading (v : Nat) (head : Bool) : State :=
  let s := (bundleAt (bundleAt (running.setSt ldrPg stOn) 0 bsUp) 1 bsUp).setLdSt v
  s.withLdr { s.ldr with head := head, up := 0, down := 1 }
theorem test_witness_LoaderCommands : running.serves .host ∧
    (∀ v ∈ [ldIdle, ldReceive, ldCheck, ldReady, ldCommitWait, ldCommit],
      (loading v true).wrPtr = (loading v true).rdPtr ∧
      (loading v true).refRuns = true ∧ (loading v true).ldSt = v ∧ (loading v true).ldr.head = true ∧
      (loading v true).ldr.ended = false) ∧
    (loading ldIdle true).on ldrPg = true ∧ (loading ldIdle true).areasOk = true ∧ running.on ldrPg = false ∧
    running.ldSrc = false ∧ (running.setF ldrPg 0x40 8 8 1).ldSrc = true ∧
    ((2 ^ 30 / 16 : BitVec 32).toNat + 2 ^ 32 - running.rdPtr) % 2 ^ 32 ≤ running.ringSize / 16 ∧
    running.ringSize / 16 < ((2 ^ 30 / 16 + 1 : BitVec 32).toNat + 2 ^ 32 - running.rdPtr) % 2 ^ 32 := by
  unfold State.serves; decide +kernel
theorem test_witness_LoaderInput : running.refRuns = true ∧ running.tap.ir ≠ 0 ∧
    (let s := (running.setSt ldrPg stOn).setF ldrPg 0x40 8 8 1
     s.ldSrc = true ∧ s.on ldrPg = true ∧ s.ldSt = ldIdle ∧ s.ldr.part.length + 4 < 16) ∧
    (0x10 : BitVec 32).toNat % 16 = 0 ∧
    (let s := (loading ldCheck true).withLdr { (loading ldCheck true).ldr with endSeen := true, passed := true }
     s.streamDue = true ∧ s.ldr.head = true ∧ s.ldSt = ldCheck ∧ s.ldr.passed = true) ∧
    (let s := (loading ldReceive true).withLdr { (loading ldReceive true).ldr with endSeen := true }
     s.streamDue = true ∧ s.ldSt = ldReceive ∧ s.ldr.segLen = none) := by decide +kernel

/-- The prefix of a segment of 1,248 bytes for device 1, key slot 4, position 0 of 1. -/
def goodPrefix : List Nat :=
  bytesLE 4 0x4c554252 ++ [1, 0, 0, 0] ++ bytesLE 8 1 ++ bytesLE 8 1248 ++ List.replicate 12 7 ++ [4, 0, 1, 0] ++
    bytesLE 4 99 ++ List.replicate 20 0
/-- The header and END frame of a partial image of one device, its region Panel 0 of group 0: N = 64, S = 16. -/
def smallImage : List Nat :=
  bytesLE 4 0x7264 ++ [2, 0, 0, 0] ++ bytesLE 2 64 ++ bytesLE 2 16 ++ [1] ++ List.replicate 11 0 ++ [1] ++
    List.replicate 103 0 ++ bytesLE 8 1 ++ List.replicate 1016 0 ++ [0xf] ++ List.replicate 15 0
/-- A segment of one block, under key 5. -/
def blockBody : List Nat := gcmCrypt (keyBytesFirst 5) (List.replicate 12 7) (List.replicate 16 9)
def blockSegment : List Nat :=
  goodPrefix ++ blockBody ++ gcmTag (keyBytesFirst 5) (List.replicate 12 7) goodPrefix blockBody
/-- The loader with the segment g received, key 5 in the battery slot, and a Tweaked region over the work area; the rings ON,
their flit counters at their greatest value. -/
def segmentAt (v : Nat) (g : List Nat) (len : Option Nat) : State :=
  let s := withOn (loading v true) [vnrPg 1, ringPg 0, ringPg 1]
  let s := (s.setReg (ringPg 0) 0x40 0xffffffff).setReg (ringPg 1) 0x40 0xffffffff
  let s := s.setReg (vnrPg 1) 0x100 0x20003
  let s := ((s.setReg (vnrPg 1) 0x104 0xa0000).setReg (vnrPg 1) 0x108 0x10000).setKeySt 0 1
  let s := s.setReg (vnrPg 1) 0x100 (BitVec.ofNat 32 (1 + 2 + 31 * 256))
  s.withLdr { s.ldr with seg := g, segLen := len, key := 5, batt := some 5 }
theorem test_witness_SegmentTests_prefix :
    let s := segmentAt ldReceive goodPrefix none
    s.wrPtr = s.rdPtr ∧ s.ldr.endSeen = false ∧ s.ldr.ended = false ∧ s.ldr.head = true ∧ s.ldSt = ldReceive ∧
    s.ldr.segLen = none ∧ 64 ≤ goodPrefix.length ∧ prefixSound goodPrefix = true ∧
    at_ goodPrefix 8 8 = s.drw.serial.toNat ∧ s.slotKey (at_ goodPrefix 36 1) = some 5 ∧
    (s.withLdr { s.ldr with batt := none }).slotKey (at_ goodPrefix 36 1) = none ∧
    prefixSound (List.replicate 64 0) = false := by decide +kernel
theorem test_witness_SegmentTests_tag :
    let s := segmentAt ldReceive blockSegment (some 96)
    s.ldSt = ldReceive ∧ s.ldr.segLen = some s.ldr.seg.length ∧
    gcmTag (keyBytesFirst s.ldr.key) ((blockSegment.drop 24).take 12) (blockSegment.take 64)
      ((blockSegment.drop 64).take (blockSegment.length - 80)) = blockSegment.drop (blockSegment.length - 16) ∧
    (vnrWriteRun s .loader s.workBase (List.replicate 16 9)).1 = 0 := by decide +kernel
theorem test_witness_SegmentTests_plain : gcmCrypt (keyBytesFirst 5) ((blockSegment.drop 24).take 12)
    ((blockSegment.drop 64).take (blockSegment.length - 80)) = List.replicate 16 9 ∧
    blockSegment.drop (blockSegment.length - 16) ≠ List.replicate 16 0 := by decide +kernel

/-- The image staged: its plaintext in the work area. -/
def stagedAt (bs : List Nat) : State :=
  let s := (segmentAt ldCheck [] none).setF ldrPg 0x44 23 16 1
  let s := s.withLdr { s.ldr with plain := bs }
  (vnrWriteRun s .loader s.workBase bs).2
theorem test_witness_SegmentTests_check :
    let s := stagedAt (bytesLE 64 1)
    s.ldSt = ldCheck ∧ s.ldr.passed = false ∧
    vnrReadRun s .loader s.workBase s.ldr.plain.length = (0, s.ldr.plain, s) ∧ at_ s.ldr.plain 0 4 = 1 := by
  decide +kernel
/-- The other hypotheses of the clause on a small partial image of one device (its read is that of 19 lines such as the one above). -/
theorem test_witness_SegmentTests_image :
    let s := segmentAt ldCheck [] none
    let s := ((s.setF ldrPg 0x44 23 16 1).setF ldrPg 0x44 4 4 1).setReg cycPg 0x40 (BitVec.ofNat 32 (64 + 16 * 2 ^ 16))
    let s := s.withLdr { s.ldr with plain := smallImage, counts := [1, 0, 0, 0] }
    let i : Image := ⟨smallImage.take 1152, [⟨0xf, 0, 0, 0, 0, 0, true, []⟩]⟩
    s.ldr.image = some i ∧ i.sound s.ldLen = true ∧ i.chainSerial s.ldPos = s.drw.serial.toNat ∧
    contentCheck s i s.ldLen = none ∧ s.ldLen = 1 ∧ at_ smallImage 0 4 = 0x7264 := by
  decide +kernel
/-- The loader in a state, with that image staged. -/
def withImage (v : Nat) : State :=
  let s := loading v true
  s.withLdr { s.ldr with plain := smallImage }
/-- The small image as it is parsed; and a full one. -/
def parsed : Image := ⟨smallImage.take 1152, [⟨0xf, 0, 0, 0, 0, 0, true, []⟩]⟩
def fullImage : List Nat := smallImage.take 4 ++ [1] ++ smallImage.drop 5
theorem test_witness_ImageCommit :
    (withImage ldCommitWait).ldr.image = some parsed ∧ (withImage ldCommitWait).ldSt = ldCommitWait ∧
      parsed.full = false ∧
    (withImage ldCommitWait).snapBusy = false ∧ (withImage ldCommitWait).cycOff = true ∧
    ((withImage ldCommitWait).setSt cycPg stOn).cycOff = false ∧ (withImage ldCommit).ldSt = ldCommit ∧
    (let s := withImage ldCommitWait
     let s := s.withLdr { s.ldr with plain := fullImage }
     s.ldr.image = some ⟨fullImage.take 1152, parsed.frames⟩ ∧
      (⟨fullImage.take 1152, parsed.frames⟩ : Image).full = true ∧
      (⟨fullImage.take 1152, parsed.frames⟩ : Image).ofTy 9 = [] ∧
      ∀ d, d < 4 → ∀ p, p < 132 → s.marked d p = false) := by decide +kernel
theorem test_witness_LoadChain : (loading ldIdle false).accepts 0 ∧ (loading ldIdle false).accepts 1 ∧
    (loading ldIdle false).ldr.up = 0 ∧ (loading ldIdle false).ldr.down = 1 ∧ (loading ldIdle false).on ldrPg = true ∧
    (loading ldIdle false).ldSrc = false ∧ (loading ldIdle false).areasOk = true ∧
    (loading ldCheck false).ldr.passed = false ∧ (loading ldCheck false).ldr.ended = false ∧
    (loading ldCheck false).wrPtr = (loading ldCheck false).rdPtr ∧ (loading ldReady false).ldSt = ldReady ∧
    (loading ldReady false).reg ldrPg 0x4c ≠ 1 ∧ (loading ldForward true).ldSt = ldForward ∧
    (loading ldForward true).bup 0 = true ∧ (loading ldForward false).ldr.timer = false := by
  unfold State.accepts; decide +kernel
theorem test_witness_KeySlots : running.serves .host ∧ running.locked ldrPg = false ∧
    (let s := running.setF pwrPg 0x60 15 0 11400
     Tab.get (fun _ => none) s.ldr.fuses (3 : BitVec 2).toNat = none ∧ s.ldSt = ldIdle ∧ 11400 ≤ s.f pwrPg 0x60 15 0) ∧
    (running.setF pwrPg 0x60 15 0 11399).f pwrPg 0x60 15 0 < 11400 := by unfold State.serves; decide +kernel

/-- A region of stack 1 with one line-sized part of it in use: Tweaked or Sealed, ACCESS to all, key 0 ACTIVE. -/
def region1 (mode st : Nat) : State :=
  let s := ((running.setSt (vnrPg 1) stOn).setReg (vnrPg 1) 0x104 0xa0000).setReg (vnrPg 1) 0x108 1
  (s.setReg (vnrPg 1) 0x100 (BitVec.ofNat 32 (1 + 2 * mode + 31 * 256 + st * 2 ^ 16))).setKeySt 0 1
def line1 : Nat := 0xa0000 * 65536 / 64
theorem test_witness_LineAccess :
    running.refRuns = true ∧ hbmEnd ≤ 64 * (hbmEnd / 64) ∧ running.on (vnrPg 1) = false ∧
    ((running.setSt (vnrPg 1) stOn).on (vnrPg 1) = true ∧ (running.setSt (vnrPg 1) stOn).regionOf 1 (64 * line1) = none) ∧
    (let s := region1 1 2
     64 * line1 < hbmEnd ∧ stackOf (64 * line1) = 1 ∧ s.on (vnrPg 1) = true ∧ s.regionOf 1 (64 * line1) = some 0 ∧
      (s.region 1 0).access.testBit (accessBit .host) = true ∧ s.keySt (s.region 1 0).key = 1 ∧ (s.region 1 0).mode ≠ 2 ∧
      s.hbmUe.contains (64 * line1) = false ∧
      (s.setF (vnrPg 1) 0x100 9 9 0).regionOf 1 (64 * line1) = some 0 ∧
      ((s.setF (vnrPg 1) 0x100 9 9 0).region 1 0).access.testBit (accessBit .host) = false ∧
      (s.setKeySt 0 3).keySt 0 = 3 ∧ (s.withHbmUe [64 * line1]).hbmUe.contains (64 * line1) = true) ∧
    ((region1 2 1).regionOf 1 (64 * line1) = some 0 ∧ ((region1 2 1).region 1 0).mode = 2 ∧
      ((region1 2 1).region 1 0).state ≠ 2 ∧ ((region1 2 2).region 1 0).state = 2 ∧ poisoned (region1 2 2) 1 0 0 = false ∧
      poisoned ((region1 2 2).withVnr { (region1 2 2).vnr with whole := [16] }) 1 0 0 = true) := by decide +kernel
theorem test_witness_VeneerKeys : running.serves .host ∧ running.locked (vnrPg 1) = false ∧
    (running.region 1 15).en = false ∧ regionOk running 1 15 (running.region 1 15) = false ∧
    (let s := (running.setReg (vnrPg 1) 0x104 0xa0000).setReg (vnrPg 1) 0x108 1
     let s := s.setReg (vnrPg 1) 0x100 2
     (s.region 1 0).en = false ∧ regionOk s 1 0 (s.region 1 0) = true) ∧
    running.keySt 15 = 0 ∧ (running.setKeySt 15 1).keySt 15 = 1 ∧ (running.setKeySt 15 2).keySt 15 = 2 ∧
    (running.setKeySt 15 3).keySt 15 = 3 := by unfold State.serves; decide +kernel
theorem test_witness_VeneerSeal : (region1 2 1).serves .host ∧ ((region1 2 1).region 1 0).en = true ∧
    ((region1 2 1).region 1 0).mode = 2 ∧ (region1 2 1).keySt ((region1 2 1).region 1 0).key = 1 ∧
    (region1 2 1).f (vnrPg 1) 0x4c 0 0 = 0 ∧ ((region1 2 1).keys ((region1 2 1).region 1 0).key).gen < 0x7fffffff ∧
    (running.region 1 15).en = false ∧
    (let s := (region1 2 3).withVnr { (region1 2 3).vnr with sealing := [(1, some (0, true))] }
     Tab.get (fun _ => none) s.vnr.sealing 1 = some (0, true) ∧ (s.region 1 0).en = true ∧ (s.region 1 0).state = 3) ∧
    (let s := running.withVnr { running.vnr with sealing := [(1, some (15, false))] }
     Tab.get (fun _ => none) s.vnr.sealing 1 = some (15, false) ∧ (s.region 1 15).en = false) := by
  unfold State.serves; decide +kernel

/-- Bundle 5 UP on a device that holds. -/
def up5 : State := bundleAt running 5 bsUp
/-- A frame of the hold at count 40, as it is received, with a control unit. -/
def frame40 (u : Nat) : Nat := rsEncode (u * 2 ^ 448 + 8 * 2 ^ 483)
/-- Bundle 5 in IDENT or UP, the count 40. -/
def at40 (v : Nat) : State := (bundleAt running 5 v).withCyc { running.cyc with csc := 40 }
theorem test_witness_BundleFrames_holds :
    (∀ u ∈ [0, 2 ^ 29 + 2 ^ 28 + 5, 2 * 2 ^ 29 + 2 ^ 28 + 6 * 2 ^ 24 + 9, 2 * 2 ^ 29 + 2 ^ 28 + 8 * 2 ^ 24 + 1,
        2 * 2 ^ 29 + 2 ^ 28 + 7 * 2 ^ 24 + 0x4080, 4 * 2 ^ 29 + 7, 7 * 2 ^ 29],
      (match rsDecode (frame40 u) with
        | some (n, f) => n == 0 && frameHeaderOk (at40 bsUp) 5 40 40 f && fld f 482 480 != 2 && fld f 479 448 == u
        | none => false) = true) ∧
    (at40 bsUp).executing = false ∧ (at40 bsUp).stepAhead 40 = true ∧ (at40 bsUp).cyc.csc = (40 : BitVec 64).toNat ∧
    bsAlign ≤ (at40 bsUp).bst 5 ∧ (at40 bsUp).bst 5 ≤ bsUp ∧ (at40 bsUp).bst 5 ≠ bsAlign ∧
    ((at40 bsUp).bundle 5).rx.cur = none ∧ ((at40 bsUp).bundle 5).rx.gap = none := by decide +kernel
theorem test_witness_BundleFrames_executes :
    (let s := (bundleAt (atStep 0 .running) 5 bsUp).withCyc { (atStep 0 .running).cyc with t0 := 4128, csc := 4128 }
     let s := s.setReg cycPg 0x40 (BitVec.ofNat 32 (64 + 64 * 2 ^ 16))
     s.executing = true ∧ s.bup 5 = true ∧ s.step = 0 ∧ s.cyc.csc = (4128 : BitVec 64).toNat ∧ s.stepAhead 4128 = true ∧
      rsDecode 0 = some (0, 0) ∧ frameHeaderOk s 5 0 4128 0 = true) ∧
    (let s := bundleAt (cycAt 40 .running) 5 bsUp
     rsDecode 0x1002003004005006007 = none ∧ s.bst 5 ≠ bsAlign ∧ (s.bundle 5).rx.gap = none ∧ s.executing = true ∧
      s.stepAhead s.cyc.csc = true ∧ 32 ≤ s.step ∧ s.step < s.nLen) ∧ up5.bup 5 = true := by decide +kernel
/-- Bundle 5 UP with what its transmitter, and what its receiver, holds. -/
def up5tx (x : BundleTx) : State := up5.setBundle 5 { Bundle.empty with tx := x }
def up5rx (x : BundleRx) : State := up5.setBundle 5 { Bundle.empty with rx := x }
theorem test_witness_DataUnits : up5.accepts 5 ∧ (loading ldReceive false).accepts 0 ∧
    (loading ldReceive false).ldr.head = false ∧ (loading ldReceive false).ldr.up = 0 ∧
    (loading ldReceive false).ldr.endSeen = false ∧ (loading ldReceive false).wrPtr = (loading ldReceive false).rdPtr ∧
    ((up5rx { BundleRx.empty with number := 1 }).bup 5 = true ∧
      ((up5rx { BundleRx.empty with number := 1 }).bundle 5).rx.due = false) ∧
    (let x := { BundleTx.empty with next := 1, kept := [.unit (.state true) 0] }
     (up5tx x).accepts 5 ∧ (x.next + 2 ^ 24 - (0 : BitVec 24).toNat) % 2 ^ 24 ≤ x.kept.length ∧
      x.kept.length < (x.next + 2 ^ 24 - (0xffffff : BitVec 24).toNat) % 2 ^ 24) ∧
    ((up5rx { BundleRx.empty with gap := some 7 }).bundle 5).rx.gap = some (7 : BitVec 24).toNat ∧
    (up5.bundle 5).rx.gap = none ∧ running.bup 5 = false ∧ running.bst 5 ≠ bsIdent := by
  unfold State.accepts; decide +kernel
theorem test_witness_DataUnits_frames :
    (((up5tx { BundleTx.empty with votes := [(40, 5)] }).bundle 5).tx.votes.find? (fun v => v.1 == 40) = some (40, 5)) ∧
    (let x := ((up5tx { BundleTx.empty with resume := some 9 }).bundle 5).tx
     x.votes = [] ∧ x.resume = some 9) ∧
    (let x := ((up5tx { BundleTx.empty with cur := some (.time 0 0 0 0, 5), data := List.replicate 60 1 }).bundle 5).tx
     x.votes = [] ∧ x.resume = none ∧ x.resend = [] ∧ x.cur = some (.time 0 0 0 0, 5) ∧ 60 ≤ x.data.length ∧
      x.startWaits = false) := by decide +kernel
theorem test_witness_LinkPackets : up5.accepts 5 ∧
    (((64 : BitVec 16) - BitVec.ofNat 16 up5.cyc.csc).toNat = 64 ∧
      ((63 : BitVec 16) - BitVec.ofNat 16 up5.cyc.csc).toNat < 64 ∧
      2 ^ 15 ≤ ((0x8000 : BitVec 16) - BitVec.ofNat 16 up5.cyc.csc).toNat) ∧
    up5.f (bndPg 5) 0x100 24 24 = 0 ∧ (up5.setF (bndPg 5) 0x100 24 24 1).f (bndPg 5) 0x100 24 24 = 1 ∧
    (up5.bundle 5).partnerOff = false ∧ (2 : BitVec 64) ≠ up5.drw.serial ∧ up5.topo.held = [] ∧
    (up5.bundle 5).mesh.length < 8 ∧
    8 ≤ ((up5.setBundle 5 { Bundle.empty with mesh := List.replicate 8 (0, 0) }).bundle 5).mesh.length ∧
    (let s := bundleAt running 5 bsIdent
     s.bst 5 = bsIdent ∧ (s.bundle 5).rx.due = true ∧ s.mayTrain 5 = true ∧ s.follows = false ∧
      (0 : BitVec 64).toNat ≤ s.cyc.csc ∧ s.clkLocked = false ∧
      (0 : BitVec 32) = s.reg bnd0 0x84 ∧ (1 : BitVec 32) ≠ s.reg bnd0 0x84 ∧ (4 : BitVec 3).toNat = 5 ^^^ 1) ∧
    (let s := up5tx { BundleTx.empty with queue := [.time 0 0 0 0] }
     let x := (s.bundle 5).tx
     x.queue = [.time 0 0 0 0] ∧ x.cur = none ∧ x.votes = [] ∧ x.resume = none ∧ x.resend = [] ∧ x.data = [] ∧
      s.loadMode 5 = false) ∧
    up5.f bnd0 0x88 0 0 = 1 ∧ (up5.setF bnd0 0x88 0 0 0).f bnd0 0x88 0 0 = 0 := by
  unfold State.accepts; decide +kernel
theorem test_witness_BundleTraining :
    (∀ v ∈ [bsDetect, bsLaneTrain, bsLock, bsAlign, bsIdent, bsFailed],
      (bundleAt running 5 v).mayTrain 5 = true ∧ (bundleAt running 5 v).bst 5 = v) ∧
    8 ≤ (lanesOf 0xff).length ∧ (lanesOf 0x7f).length < 8 ∧
    (let s := withOn (bundleAt running 5 bsLaneTrain) ((List.range 9).map (lnPg 5))
     let counted := fun (own : List LaneCheck) => (List.range 9).filter (fun k => s.lanePasses 5 k (own.getD k ⟨false,
       0⟩))
     (s.bundle 5).verdicts = false ∧ (counted (List.replicate 9 ⟨true, 16⟩)).length = 9 ∧
      (counted (List.replicate 9 ⟨true, 17⟩)).length < 8) ∧
    (let s := ((bundleAt running 5 bsLock).setF bnd0 0x80 0 0 1).setF bnd0 0x80 6 4 5
     let s := s.setBundle 5 { Bundle.empty with partnerLocked := true }
     s.follows = true ∧ s.cycOff = true ∧ s.upstream = 5 ∧ s.bst 5 = bsLock ∧ (s.bundle 5).partnerLocked = true) := by
  decide +kernel
theorem test_witness_LaneFailover : up5.bup 5 = true ∧ 2 ≤ (lanesOf 0x101).length ∧
    (let s := up5.setF (bndPg 5) 0x44 11 8 8
     up5.f (lnPg 5 0) 0x44 1 0 = 3 ∧ (s.setF (lnPg 5 0) 0x44 1 0 0).f (lnPg 5 0) 0x44 1 0 = 0 ∧ s.rxSpare 5 = 8 ∧
      (s.bundle 5).fail = none ∧ (s.setF (lnPg 5 8) 0x44 1 0 1).f (lnPg 5 8) 0x44 1 0 = 1 ∧
      (up5.setF (bndPg 5) 0x44 11 8 15).rxSpare 5 = 15) ∧
    (∀ st ∈ [FoStage.check, .wait, .sent, .switched],
      let s := (up5.setF (bndPg 5) 0x44 11 8 8).setBundle 5 { Bundle.empty with fail := some ⟨0, 5, 8, st, 0, false⟩ }
      let s := (s.setF (lnPg 5 8) 0x44 1 0 1).withCyc { s.cyc with csc := 32 }
      (s.bundle 5).fail = some ⟨0, 5, 8, st, 0, false⟩ ∧ s.rxSpare 5 < 9 ∧ s.executing = false ∧
        s.f (lnPg 5 (s.rxSpare 5)) 0x44 1 0 = 1 ∧ 0 + 32 ≤ s.cyc.csc) ∧
    (bundleAt (atStep 0 .running) 5 bsUp).executing = true ∧ (bundleAt (atStep 0 .running) 5 bsUp).cycOn = true ∧
    (let s := up5.setBundle 5 { Bundle.empty with txSwitch := some (64, 0, 8) }
     (s.bundle 5).txSwitch = some (64, 0, 8) ∧ 64 ≤ (s.withCyc { s.cyc with csc := 64 }).cyc.csc) := by
  decide +kernel
theorem test_witness_BundleRegisters : up5.serves .host ∧ up5.cycOff = true ∧ up5.bup 5 = true ∧ running.bup 5 = false ∧
    (up5.setSt cycPg stOn).cycOff = false ∧ 9 ≤ (9 : BitVec 4).toNat ∧ (8 : BitVec 4).toNat < 9 ∧
    (let s := (running.setSt (bndPg 5) stOn).setF (bndPg 5) 0x40 8 8 0
     s.locked (bndPg 5) = false ∧ s.f (bndPg 5) 0x40 8 8 = 0 ∧ s.on (bndPg 5) = true ∧ s.bst 5 = bsDown ∧
      s.lnTesting 5 = false ∧ s.stepRuns = true ∧ s.cycOff = true ∧ (s.setSt cycPg stOn).cycOff = false) ∧
    up5.f (bndPg 5) 0x40 8 8 = 1 ∧ running.locked bnd0 = false ∧ running.follows = false ∧ up5.meshBusy 5 = false ∧
    (up5tx { BundleTx.empty with queue := [.mesh 0 0] }).meshBusy 5 = true ∧
      (running.setSt (bndPg 5) stOn).on (bndPg 5) = true ∧
    running.f (lnPg 5 8) 0x40 1 0 = 0 ∧ running.f (lnPg 5 8) 0x40 6 6 = 0 ∧
    (bundleAt running 5 bsDetect).bup 5 = false ∧ (bundleAt running 5 bsDetect).bst 5 ≠ bsDown ∧
    (bundleAt running 5 bsDetect).bst 5 ≠ bsTest := by unfold State.serves; decide +kernel
/-- Gauge k ON. -/
def gauged (k : Nat) (g : Gauge) : State := (running.setSt (gauPg k) stOn).setGauge k g
def g0 : Gauge := Gauge.empty
theorem test_witness_GaugeTick : State.reset.refRuns = false ∧ running.refRuns = true ∧
    running.on (gauPg 15) = false ∧ (gauged 15 { g0 with set_ := some 5 }).on (gauPg 15) = true ∧
    ((gauged 15 { g0 with set_ := some 5 }).gauge 15).set_ = some 5 ∧ ((gauged 15 g0).gauge 15).set_ = none ∧
    (gauged 15 g0).gauSrc 15 = 0 ∧ ((gauged 15 g0).setF (gauPg 15) 0x40 1 0 1).gauSrc 15 ≠ 0 := by decide +kernel
theorem test_witness_GaugeSources :
    running.serves .host ∧ (0xff : BitVec 32) &&& ~~~0xff = 0 ∧ running.locked (gauPg 15) = false ∧
    running.gauSrc 15 = 0 ∧ ((gauged 15 g0).setF (gauPg 15) 0x40 1 0 1).gauSrc 15 = 1 ∧
    (let s := ((gauged 15 { g0 with edge := some (7, 2000), ref := some 1000 }).setF (gauPg 15) 0x40 1 0 1).setReg
        (gauPg 15) 0x70 1024
     s.on (gauPg 15) = true ∧ s.gauSrc 15 = 1 ∧ (s.gauge 15).edge = some (7, 2000) ∧ (s.gauge 15).ref = some 1000 ∧
      2000 - 1000 + (s.reg (gauPg 15) 0x70).toNat / 1024 < (s.reg (gauPg 15) 0x70).toNat ∧
      (s.reg (gauPg 15) 0x70).toNat ≤ 2023 - 1000 + (s.reg (gauPg 15) 0x70).toNat / 1024 ∧
      2025 - 1000 ≤ (s.reg (gauPg 15) 0x70).toNat + (s.reg (gauPg 15) 0x70).toNat / 1024 ∧ s.holdover 15 = false ∧
      s.ticks < 1000 + 2 * (s.reg (gauPg 15) 0x70).toNat ∧
      1000 + 2 * (s.reg (gauPg 15) 0x70).toNat ≤ (s.withTicks 3048).ticks ∧ (s.gauge 15).lost = false) ∧
    (let s := ((gauged 15 { g0 with closed := some (1024, 9) }).setF (gauPg 15) 0x40 1 0 2).setF (gauPg 15) 0x7c 4 0 10
     let s := s.setReg64 (gauPg 15) 0x74 (2 ^ 32)
     s.on (gauPg 15) = true ∧ s.gauSrc 15 = 2 ∧ (s.gauge 15).closed = some (1024, 9) ∧
      1024 * (s.reg64 (gauPg 15) 0x74 % 2 ^ 40) = 2 ^ (s.f (gauPg 15) 0x7c 4 0 + 32) ∧ s.holdover 15 = false) := by
  unfold State.serves; decide +kernel
/-- The event unit of Gauge 15, armed, on Gauge 15, with its mode, A and WIDTH. -/
def unit15 (mode a b width : Nat) (g : Gauge) : State :=
  let s := (gauged 15 g).setReg (gauPg 15) 0xc0 (BitVec.ofNat 32 (1 + 2 * mode + 15 * 16))
  ((s.setReg64 (gauPg 15) 0xc8 a).setReg64 (gauPg 15) 0xd0 b).setReg (gauPg 15) 0xd8 (BitVec.ofNat 32 width)
theorem test_witness_GaugeEvents : running.serves .host ∧ running.evtArm 15 = false ∧
    armOk (running.evtMode 15) (running.evtA 15) (running.evtB 15) (running.evtWidth 15) = true ∧
    (let s := (unit15 1 0 0 0 g0).setF (gauPg 15) 0xc0 0 0 0
     s.evtArm 15 = false ∧ armOk (s.evtMode 15) (s.evtA 15) (s.evtB 15) (s.evtWidth 15) = false) ∧
    (∀ m ∈ [0, 1, 2],
      let s := unit15 m 10 20 5 { g0 with value := 10 }
      s.on (gauPg 15) = true ∧ s.on (gauPg (s.f (gauPg 15) 0xc0 7 4)) = true ∧ s.f (gauPg 15) 0xc0 0 0 = 1 ∧
        s.evtMode 15 = m ∧
        (s.gauge 15).cut = false ∧ s.unitActs 15 = true ∧ s.evtArm 15 = true ∧ s.evtB 15 ≠ 0 ∧
          (s.evtG 15 + 2 ^ 64 - s.evtA 15) % 2 ^ 64 < 2 ^ 63 ∧ s.evtWidth 15 ≠ 0 ∧
        (s.gauge 15).pulse = none ∧ inside64 (s.evtG 15) (s.evtA 15) (s.evtB 15) = true) ∧
    ¬ ((unit15 0 11 0 0 { g0 with value := 10 }).evtG 15 + 2 ^ 64 - (unit15 0 11 0 0 { g0 with value := 10 }).evtA 15) %
        2 ^ 64 < 2 ^ 63 ∧
    (unit15 0 11 0 0 g0).evtWidth 15 = 0 ∧ (unit15 2 0 0 0 { g0 with winOn := true }).evtMode 15 = 2 ∧
    inside64 ((unit15 2 0 0 0 g0).evtG 15) 0 0 = false ∧
    (let s := unit15 0 0 0 5 { g0 with value := 5, pulse := some 5 }
     (s.gauge 15).pulse = some 5 ∧ (s.evtG 15 + 2 ^ 64 - (5 : BitVec 64).toNat) % 2 ^ 64 < 2 ^ 63) := by
  unfold State.serves; decide +kernel
/-- A committed cycle waits to be processed, at Q. -/
def recorded (s : State) : State := (s.withTrg { s.trg with record := some (9,
  true) }).withCyc { s.cyc with phase := .settled }
def atQ : State := cycAt 112 .settled
/-- What waits there, once the step has moved to Q+3. -/
def recAt (s : State) : State := moveStep (recorded s) ((recorded s).qStep + 3)
theorem test_witness_CycleRecords :
    running.trg.record = none ∧ (cycAt 112 .confirmed).cyc.phase ≠ .settled ∧
      (cycAt 116 .settled).qStep + 3 < (cycAt 116 .settled).step ∧
    (recorded atQ).trg.record = some (9, true) ∧ (recorded atQ).cyc.phase = .settled ∧
      (recorded atQ).step ≤ (recorded atQ).qStep + 3 ∧
    (∀ k, k < 8 → (recAt atQ).on (measPg k) = false) ∧ (recAt atQ).on trgPg = false ∧ (recAt atQ).on capPg = false ∧
    (let s := recAt ((atQ.setSt trgPg stOn).setF trgPg 0x40 0 0 1)
     s.on trgPg = true ∧ s.f trgPg 0x40 0 0 = 1 ∧ s.f trgPg 0x800 16 16 = 0 ∧ s.f trgPg 0x50 0 0 = 0 ∧ 9 < 2 ^ 64 ∧
      s.branchCtl (s.f trgPg 0x44 3 0) (s.inputVector (assemble s 9 true) [false, false, false, false]) = none) ∧
    (let s := recAt (((atQ.setSt trgPg stOn).setF trgPg 0x40 0 0 1).setReg trgPg 0x208 0x113)
     s.branchCtl (s.f trgPg 0x44 3 0) (s.inputVector (assemble s 9 true) [false, false, false, false]) = some 0x113 ∧
      (0x113 : BitVec 32).getLsbD 8 = true ∧ s.triggered = false) ∧
    (∀ w ∈ [([] : List (Nat × List Nat)), List.replicate 64 (0, [])],
      let s := (atQ.setSt capPg stOn).setF capPg 0x40 0 0 1
      let s := (s.setF capPg 0x44 2 0 capPre).setF capPg 0x44 4 4 1
      let s := recAt (s.withCap { s.cap with waiting := w })
      s.on trgPg = false ∧ s.on capPg = true ∧ s.f capPg 0x40 0 0 = 1 ∧ s.f capPg 0x40 1 1 = 0 ∧
        s.f capPg 0x44 2 0 = capPre ∧ s.f capPg 0x44 4 4 = 1 ∧ s.cap.waiting = w) ∧
    (let s := running.withCap { running.cap with waiting := [(0, [1])] }
     s.bufferFree 15 = true ∧ s.cap.waiting = (0, [1]) :: [] ∧
      (vnrWriteRun (s.withCap { s.cap with waiting := [] }) .capture 0 [1]).1 ≠ 0) := by decide +kernel
theorem test_witness_UnitArms : running.serves .host ∧ running.f trgPg 0x40 0 0 = 0 ∧ running.f capPg 0x40 0 0 = 0 ∧
    (let s := (((region1 1 2).setF capPg 0x50 5 0 16).setReg64 capPg 0x48 (0xa0000 * 65536)).setReg64 capPg 0x58 1
     16 ≤ s.f capPg 0x50 5 0 ∧ s.f capPg 0x50 5 0 ≤ 34 ∧ s.capBase % 2 ^ s.f capPg 0x50 5 0 = 0 ∧
      s.withinRegion s.capBase (2 ^ s.f capPg 0x50 5 0) .capture s.writable = true ∧ s.capGroups ≠ [] ∧
      (s.reg capPg 0x60).toNat < 2 ^ s.f capPg 0x50 5 0 / s.capLen) ∧
    running.capGroups = [] ∧ running.f (measPg 7) 0x40 0 0 = 0 ∧
    (running.f (measPg 7) 0x40 21 16 + running.f (measPg 7) 0x40 29 24 + 1 ≤ 64 ∧ running.f (measPg 7) 0x40 3 1 ≤ 4) ∧
    4 < (running.setF (measPg 7) 0x40 3 1 5).f (measPg 7) 0x40 3 1 ∧
    (0x1f31f : BitVec 32) &&& ~~~0x1f31f = 0 ∧ (16 : BitVec 32).toNat % 32 ≤ 16 ∧ 16 < (17 : BitVec 32).toNat % 32 := by
  unfold State.serves; decide +kernel
/-- An image committed, key 0 ACTIVE, and a Sealed READY region of 64 MiB at the snapshot area. -/
def snapReady : State :=
  let s := ((region1 2 2).setReg (vnrPg 1) 0x108 0x400).setF ldrPg 0x44 4 4 1
  s.setReg64 capPg 0x80 (0xa0000 * 65536)
theorem test_witness_Snapshots : snapReady.serves .host ∧ snapReady.imageCommitted = true ∧ snapReady.cycOff = true ∧
    snapReady.snapBusy = false ∧ snapReady.ldSt ≠ ldCommit ∧
    snapReady.snapArea (snapReady.reg64 capPg 0x80 % 2 ^ 36) (snapLen snapReady.panelSum snapReady.snapExts) = true ∧
    snapReady.snapExts.all snapReady.extentOk = true ∧
    snapReady.snapArea (snapReady.reg64 capPg 0x80 % 2 ^ 36) 64 = true ∧ running.imageCommitted = false ∧
    (running.setF capPg 0x44 8 8 1).f capPg 0x44 8 8 = 1 ∧ (running.setF capPg 0x44 9 9 1).f capPg 0x44 9 9 = 1 ∧
    (running.setF capPg 0x44 9 9 1).cap.second = false ∧
    (vnrReadRun (running.setF capPg 0x44 9 9 1) .capture 0 256).1 ≠ 0 ∧
    (running.withCap { running.cap with second := true }).cap.second = true := by unfold State.serves; decide +kernel
/-! A snapshot and a restore that succeed, in a Tweaked region of 64 KiB,
  with no Panel and no extent; and some that fail. -/

def area : Nat := 0xa0000 * 65536
/-- A Tweaked region of 64 KiB that the capture unit may use, the rings ON, the flit counter at its greatest value. -/
def copying (busy : Nat) : State :=
  let s := (withOn (region1 1 2) [ringPg 0, ringPg 1]).setReg (ringPg 0) 0x40 0xffffffff
  let s := s.setReg (ringPg 1) 0x40 0xffffffff
  (s.setF capPg 0x44 9 8 busy).withCap { s.cap with base := area }

theorem withHbm_reads (s : State) (h : Tab (BitVec 8)) :
    (∀ p o a b, (s.withHbm h).f p o a b = s.f p o a b) ∧ (∀ p, (s.withHbm h).on p = s.on p) ∧
    (∀ k i, (s.withHbm h).region k i = s.region k i) ∧ (∀ i, (s.withHbm h).keySt i = s.keySt i) ∧
    (s.withHbm h).hbmUe = s.hbmUe ∧ (∀ a b, (s.withHbm h).route a b = s.route a b) ∧
    (∀ p o a b v, (s.withHbm h).setF p o a b v = (s.setF p o a b v).withHbm h) :=
  ⟨fun _ _ _ _ => rfl, fun _ => rfl, fun _ _ => rfl, fun _ => rfl, rfl, fun _ _ => rfl, fun _ _ _ _ _ => rfl⟩
theorem withHbm_idle (s : State) (h : Tab (BitVec 8)) :
    (s.withHbm h).net = s.net ∧ (s.withHbm h).pwr = s.pwr := ⟨rfl, rfl⟩
theorem withHbm_self (s : State) : s = s.withHbm s.hbm := rfl
theorem withHbmUe_self (s : State) {h : Tab (BitVec 8)} (u : s.hbmUe = []) : (s.withHbm h).withHbmUe [] = s.withHbm h := by
  rw [← u]; rfl
theorem withHbm_withHbm (s : State) (h h' : Tab (BitVec 8)) : (s.withHbm h).withHbm h' = s.withHbm h' := rfl
theorem linePut_tweaked (s : State) (a : Nat) (new : List Nat) (e : (s.region 1 0).mode = 1)
    (u : s.hbmUe = []) :
    ∃ h, linePut s 1 0 a new = s.withHbm h := by
  unfold linePut
  dsimp only
  rw [e, if_neg (by decide)]
  unfold State.hbmWrite
  rw [u]
  exact ⟨_, withHbmUe_self _ u⟩
theorem copying_facts : ∀ b ∈ [1, 2], (∀ r ∈ [0, 1], (copying b).f (ringPg r) 0x40 31 0 = 0xffffffff ∧
  (copying b).setF (ringPg r) 0x40 31 0 0xffffffff = (copying b)) ∧
    (copying b).on (vnrPg 1) = true ∧ (copying b).region 1 0 = ⟨true, 1, 0, 31, 2, area, 65536, 0, 0⟩ ∧
      (copying b).keySt 0 = 1 ∧
    (copying b).hbmUe = [] ∧ (copying b).route 15 13 = some 0 ∧ (copying b).route 13 15 = some 1 := by decide +kernel
theorem stackOf_area (a : Nat) (h1 : area ≤ a) (h2 : a < area + 65536) : stackOf a = 1 ∧ ¬hbmEnd ≤ a := by
  unfold stackOf hbm1Base hbmEnd
  unfold area at h1 h2
  exact ⟨if_pos (by omega), by omega⟩
theorem copying_flits {b : Nat} (hb : b ∈ [1, 2]) (h : Tab (BitVec 8)) (r src dst n : Nat) (hr : r ∈ [0,
  1]) (h1 : dieOf src = none)
    (h2 : dieOf dst = none) : countFlits ((copying b).withHbm h) src dst r n = (copying b).withHbm h := by
  obtain ⟨f1, f2⟩ := (copying_facts b hb).1 r hr
  obtain ⟨g1, -, -, -, -, -, g2⟩ := withHbm_reads (copying b) h
  have e : satAdd 32 0xffffffff n = 0xffffffff := by unfold satAdd; split <;> omega
  unfold countFlits State.bump
  rw [h1, h2, g1, f1]
  simp only [e, g2, f2]
theorem copying_check {b : Nat} (hb : b ∈ [1,
  2]) (h : Tab (BitVec 8)) (reads : Bool) (a : Nat) (h1 : area ≤ a) (h2 : a < area + 65536) :
    vnrCheck ((copying b).withHbm h) .capture a reads = (0, none, 0) := by
  obtain ⟨-, ho, hr, hk, hu, -, -⟩ := copying_facts b hb
  obtain ⟨-, g1, g2, g3, g4, -⟩ := withHbm_reads (copying b) h
  obtain ⟨hs, he⟩ := stackOf_area a h1 h2
  have hg : ((copying b).withHbm h).regionOf 1 a = some 0 := by
    unfold State.regionOf
    rw [show List.range 16 = 0 :: [1, 2, 3, 4, 5, 6, 7, 8, 9, 10, 11, 12, 13, 14, 15] from rfl, List.find?_cons_of_pos]
    simp only [g2, hr]
    simp [h1, h2]
  have ht : Nat.testBit 31 (accessBit .capture) = true := rfl
  unfold vnrCheck
  simp only [hs, g1, ho, hg, g2, hr, g3, hk, g4, hu, ht, he]
  simp
/-- With no packet on the rings, and counters that no longer move, an access of a unit goes and changes nothing. -/
theorem tripGo_clear (s : State) (q : RingReq) (a k : Nat) (hn : s.net = []) (r1 : s.route q.src q.dst = some a)
    (r2 : s.route q.dst q.src = some k) (hs : q.stage = .ahead .none .none false)
    (hc : ∀ n, countFlits s q.src q.dst q.ring n = s) : tripGo s q clearTrip = (.goes k, s) := by
  have e : s.withNet (s.net.filter (fun r => !(r.src == q.src && r.tag == q.tag && (r.op == 0 || r.op == q.op)))) = s := by
    rw [hn, List.filter_nil, ← hn]
    rfl
  unfold tripGo
  simp only [r1, hs, e, hc, r2, clearTrip, firstFault]
  rfl
theorem copying_go {b : Nat} (hb : b ∈ [1, 2]) (h : Tab (BitVec 8)) (op a n : Nat) (data : List Nat) :
    tripGo ((copying b).withHbm h) (((copying b).withHbm h).unitReq 15 13 op a n data) clearTrip =
      (.goes 1, (copying b).withHbm h) := by
  obtain ⟨-, -, -, -, -, r1, r2⟩ := copying_facts b hb
  have hn : ((copying b).withHbm h).net = [] :=
    (withHbm_idle (copying b) h).1.trans (by revert b; decide +kernel)
  have hg := (withHbm_reads (copying b) h).2.2.2.2.2.1
  have hr : (((copying b).withHbm h).unitReq 15 13 op a n data).ring = 0 := by
    unfold State.unitReq
    dsimp only
    rw [hg, r1]
    rfl
  refine tripGo_clear _ _ 0 1 hn ((hg 15 13).trans r1) ((hg 13 15).trans r2) ?_ (fun m => ?_)
  · unfold State.unitReq State.aheadOf
    dsimp only
    rw [hn]
    rfl
  · rw [hr]
    exact copying_flits hb h 0 15 13 m (by decide) rfl rfl
theorem copying_end {b : Nat} (hb : b ∈ [1, 2]) (h h' : Tab (BitVec 8)) (op a n st cls : Nat) (data bs : List Nat) :
    tripEnd ((copying b).withHbm h) (((copying b).withHbm h').unitReq 15 13 op a n data) 1 st cls bs = (copying b).withHbm h := by
  have hp : ((copying b).withHbm h).pwr.starting = false := by
    rw [(withHbm_idle (copying b) h).2]
    revert b
    decide +kernel
  unfold tripEnd
  rw [hp, if_neg (by decide)]
  exact copying_flits hb h 1 13 15 _ (by decide) rfl rfl
theorem copying_read {b : Nat} (hb : b ∈ [1,
  2]) (h : Tab (BitVec 8)) (a n : Nat) (h1 : area ≤ a) (h2 : a < area + 65536) :
    ∃ bs, netRead ((copying b).withHbm h) .capture a n clearTrip = (0, bs, (copying b).withHbm h) := by
  have hd : hbmNode a = 13 := by unfold hbmNode; rw [(stackOf_area a h1 h2).1]; rfl
  have v : ∃ bs, vnrRead ((copying b).withHbm h) .capture a n = (0, bs, (copying b).withHbm h) := by
    unfold vnrRead vnrLine
    simp only [copying_check hb h _ a h1 h2]
    exact ⟨_, rfl⟩
  obtain ⟨bs, v⟩ := v
  refine ⟨bs, ?_⟩
  unfold netRead
  simp only [ringNodeOf, hd, copying_go hb, v, copying_end hb]
theorem copying_write {b : Nat} (hb : b ∈ [1,
  2]) (h : Tab (BitVec 8)) (a : Nat) (bs : List Nat) (be : Nat) (h1 : area ≤ a) (h2 : a < area + 65536) :
    ∃ h', netWrite ((copying b).withHbm h) .capture a bs be clearTrip = (0, (copying b).withHbm h') := by
  obtain ⟨-, -, hr, -, hu, -, -⟩ := copying_facts b hb
  have hs := (stackOf_area a h1 h2).1
  have hd : hbmNode a = 13 := by unfold hbmNode; rw [hs]; rfl
  have v : ∃ h', vnrWrite ((copying b).withHbm h) .capture a bs be = (0, (copying b).withHbm h') := by
    have hp : ∀ new, ∃ h', linePut ((copying b).withHbm h) 1 0 a new = (copying b).withHbm h' := by
      intro new
      obtain ⟨h', e⟩ := linePut_tweaked ((copying b).withHbm h) a new (by rw [(withHbm_reads (copying b) h).2.2.1, hr])
        ((withHbm_reads (copying b) h).2.2.2.2.1.trans hu)
      rw [withHbm_withHbm] at e
      exact ⟨h', e⟩
    unfold vnrWrite vnrLine
    simp only [copying_check hb h _ a h1 h2, hs]
    obtain ⟨h', e⟩ := hp _
    exact ⟨h', congrArg (Prod.mk 0) e⟩
  obtain ⟨h', v⟩ := v
  refine ⟨h', ?_⟩
  unfold netWrite
  simp only [ringNodeOf, hd, copying_go hb, v, copying_end hb]
/-- The pieces of a run lie in it. -/
theorem linePieces_in : ∀ (f a n : Nat), ∀ e ∈ linePieces f a n, a ≤ e.1 ∧ e.1 < a + n
  | 0, _, _, e, h => absurd h List.not_mem_nil
  | f + 1, a, n, e, h => by
    unfold linePieces at h
    split at h
    · exact absurd h List.not_mem_nil
    · rename_i h0
      rcases List.mem_cons.mp h with rfl | h
      · exact ⟨Nat.le_refl _, by simp only; omega⟩
      · have := linePieces_in f _ _ e h
        omega
theorem copying_writeRun {b : Nat} (hb : b ∈ [1,
  2]) (bs : List Nat) (hl : bs.length ≤ 65536) : (vnrWriteRun (copying b) .capture area bs).1 = 0 := by
  have key : ∀ (l : List (Nat × Nat)) (h : Tab (BitVec 8)), (∀ e ∈ l, area ≤ e.1 ∧ e.1 < area + 65536) →
      (l.foldl (fun (acc : Nat × State) e =>
        if acc.1 ≠ 0 then acc
        else netWrite acc.2 .capture e.1 ((bs.drop (e.1 - area)).take e.2) (2 ^ e.2 - 1) clearTrip)
        (0, (copying b).withHbm h)).1 = 0 := by
    intro l
    induction l with
    | nil => intro h _; rfl
    | cons e l ih =>
      intro h hl
      have he := hl e List.mem_cons_self
      obtain ⟨h', w⟩ := copying_write hb h e.1 ((bs.drop (e.1 - area)).take e.2) (2 ^ e.2 - 1) he.1 he.2
      rw [List.foldl_cons, if_neg (fun h => h rfl), w]
      exact ih h' (fun e h => hl e (List.mem_cons_of_mem _ h))
  have e0 := withHbm_self (copying b)
  unfold vnrWriteRun
  rw [e0]
  exact key _ (copying b).hbm (fun e h => by
    have := linePieces_in _ _ _ e h
    omega)
theorem copying_pass {b : Nat} (hb : b ∈ [1,
  2]) (h : Tab (BitVec 8)) : (copyAll ((copying b).withHbm h) (((copying b).withHbm h).passOps 65536)).1 = 0 := by
  have key : ∀ l : List Nat, (∀ j ∈ l, j < 1024) →
      (copyAll ((copying b).withHbm h) (l.map (fun j => fun (t : State) =>
        ((netRead t .capture (area + 64 * j) 64 clearTrip).1, (netRead t .capture (area + 64 * j) 64 clearTrip).2.2)))) =
        (0, (copying b).withHbm h) := by
    intro l
    induction l with
    | nil => intro _; rfl
    | cons j l ih =>
      intro hl
      have hj := hl j List.mem_cons_self
      obtain ⟨bs, r⟩ := copying_read hb h (area + 64 * j) 64 (by omega) (by omega)
      have := ih (fun e h => hl e (List.mem_cons_of_mem _ h))
      unfold copyAll at *
      rw [List.map_cons, List.foldl_cons]
      simp only [r, if_true]
      exact this
  exact congrArg Prod.fst (key (List.range 1024) (fun j h => List.mem_range.mp h))

theorem pad_length (n : Nat) (b : List Nat) (h : b.length ≤ n) : (b ++ List.replicate (n - b.length) 0).length ≤ n := by
  rw [List.length_append, List.length_replicate]; omega

theorem length_of_pad (b : List Nat) (n : Nat) (x : List Nat) (h : b.length ≤ n) (e : x = b ++ List.replicate (n - b.length) 0) : x.length ≤ n :=
  e ▸ pad_length n b h
theorem snapHeader_copying : (copying 1).snapHeader.length ≤ 65536 := by
  refine length_of_pad _ 65536 _ ?_ rfl
  decide +kernel
/-- With no Panel and no extent, a snapshot writes its header. -/
theorem snapOps_header (s : State) (h1 : s.panelOrder = []) (h2 : s.cap.exts = []) :
    copyAll s s.snapOps = vnrWriteRun s .capture s.cap.base s.snapHeader := by
  unfold State.snapOps copyAll
  rw [h1, h2]
  simp only [List.map_nil, List.append_nil, List.zip_nil_left, List.foldl_cons, List.foldl_nil, if_true]
theorem copying_snap : (copying 1).panelOrder = [] ∧ (copying 1).cap.exts = [] ∧
  (copying 1).cap.base = area := by decide +kernel
theorem test_witness_Snapshots_snapEnd : (copying 1).f capPg 0x44 9 8 = 1 ∧
    (copyAll (copying 1) (copying 1).snapOps).1 = 0 := by
  refine ⟨by decide +kernel, ?_⟩
  rw [snapOps_header _ copying_snap.1 copying_snap.2.1, copying_snap.2.2]
  exact copying_writeRun (by decide) _ snapHeader_copying
theorem copying_readRun {b : Nat} (hb : b ∈ [1, 2]) (h : Tab (BitVec 8)) (n : Nat) (hn : n ≤ 65536) : ∃ bs,
    vnrReadRun ((copying b).withHbm h) .capture area n = (0, bs, (copying b).withHbm h) := by
  have key : ∀ (l : List (Nat × Nat)) (x : List Nat), (∀ e ∈ l, area ≤ e.1 ∧ e.1 < area + n) → ∃ bs,
      l.foldl (fun (acc : Nat × List Nat × State) e =>
        if acc.1 ≠ 0 then (acc.1, acc.2.1 ++ List.replicate e.2 0, acc.2.2)
        else
          let (c, bs, s) := netRead acc.2.2 .capture e.1 e.2 clearTrip
          (c, acc.2.1 ++ bs, s)) (0, x, (copying b).withHbm h) = (0, bs, (copying b).withHbm h) := by
    intro l
    induction l with
    | nil => intro x _; exact ⟨x, rfl⟩
    | cons e l ih =>
      intro x hl
      have he := hl e List.mem_cons_self
      obtain ⟨bs, r⟩ := copying_read hb h e.1 e.2 he.1 (by omega)
      rw [List.foldl_cons, if_neg (fun h => h rfl), r]
      exact ih (x ++ bs) (fun e h => hl e (List.mem_cons_of_mem _ h))
  exact key _ [] (fun e h => by
    have := linePieces_in _ _ _ e h
    omega)
theorem snapPass_of {s : State} {n : Nat} (hs : (copyAll s (s.passOps 65536)).1 = 0) (hn : n = 65536) :
    (copyAll s (s.passOps n)).1 = 0 := by rw [hn]; exact hs
/-- A header without extents, as the region's keys leave its first line in memory: "SNAP", version 1, N and S of no image. -/
def snapLine : List Nat :=
  [83, 166, 11, 117, 147, 170, 80, 114, 65, 255, 91, 111, 120, 92, 109, 40, 119, 67, 58, 126, 212, 152, 193, 175, 208, 96,
   38, 109, 204, 64, 193, 170, 176, 103, 234, 140, 95, 210, 124, 83, 86, 212, 113, 93, 152, 35, 31, 41, 74, 213, 36, 15,
   169, 80, 153, 215, 19, 13, 84, 140, 180, 60, 107, 174]
def snapCells : Tab (BitVec 8) := snapLine.zipIdx.map (fun e => (area + e.2, BitVec.ofNat 8 e.1))
def restoring : State := (copying 2).withHbm snapCells
theorem restoring_base : restoring.cap.base = area ∧ restoring.f capPg 0x44 9 8 = 2 ∧ restoring.cap.second = false ∧
    restoring.panelSum = 0 := by decide +kernel
theorem restoring_header : let h := (vnrReadRun restoring .capture area 256).2.1
    restoring.headerOk h = true ∧ headerExts h = [] := by decide +kernel
theorem test_witness_Snapshots_restorePassEnd :
    restoring.f capPg 0x44 9 8 = 2 ∧ restoring.cap.second = false ∧
    (let v := vnrReadRun restoring .capture restoring.cap.base 256
     v.1 = 0 ∧ v.2.2.headerOk v.2.1 = true ∧
      (copyAll v.2.2 (v.2.2.passOps (snapLen v.2.2.panelSum (headerExts v.2.1)))).1 = 0) := by
  obtain ⟨e1, e2, e3, e4⟩ := restoring_base
  refine ⟨e2, e3, ?_⟩
  rw [e1]
  obtain ⟨g1, g2⟩ := restoring_header
  obtain ⟨bs, r⟩ := copying_readRun (b := 2) (by decide) snapCells 256 (by decide)
  rw [show vnrReadRun restoring .capture area 256 = _ from r] at g1 g2 ⊢
  exact ⟨rfl, g1, snapPass_of (copying_pass (by decide) snapCells)
    (by rw [show (0, bs, (copying 2).withHbm snapCells).2.2.panelSum = 0 from e4, g2]; rfl)⟩

theorem copyRun_stays (bs : List Nat) (a : Nat) (s : State) (l : List (Nat × Nat)) (c : Nat) (h : c ≠ 0) :
    (l.foldl (fun (acc : Nat × State) e =>
      if acc.1 ≠ 0 then acc
      else netWrite acc.2 .capture e.1 ((bs.drop (e.1 - a)).take e.2) (2 ^ e.2 - 1) clearTrip) (c, s)).1 ≠ 0 := by
  induction l with
  | nil => exact h
  | cons e l ih =>
    rw [List.foldl_cons, if_pos h]
    exact ih
theorem vnrWriteRun_fails (s : State) (bs : List Nat) (a : Nat) (h0 : bs.length ≠ 0)
    (h : (netWrite s .capture a ((bs.drop 0).take (min bs.length (64 - a % 64))) (2 ^ min bs.length (64 - a % 64) - 1)
      clearTrip).1 ≠ 0) : (vnrWriteRun s .capture a bs).1 ≠ 0 := by
  unfold vnrWriteRun
  rw [linePieces, if_neg h0]
  rw [List.foldl_cons, if_neg (fun h => h rfl), show a - a = 0 from Nat.sub_self a]
  exact copyRun_stays bs a _ _ _ h
theorem pad_pos (b : List Nat) (n : Nat) (x : List Nat) (h : b.length ≠ 0) (e : x = b ++ List.replicate (n - b.length) 0) :
    x.length ≠ 0 := by
  rw [e, List.length_append]
  omega
/-- A snapshot that runs while no ring is ON. -/
def stranded : State := running.setF capPg 0x44 9 8 1
theorem stranded_write (bs : List Nat) (be : Nat) : (netWrite stranded .capture 0 bs be clearTrip).1 = ringClass 3 := by
  have e : stranded.route 15 (hbmNode 0) = none := by decide +kernel
  unfold netWrite tripGo
  simp only [ringNodeOf, State.unitReq, e]
theorem test_witness_Snapshots_snapEnd_fails : stranded.f capPg 0x44 9 8 = 1 ∧
    (copyAll stranded stranded.snapOps).1 ≠ 0 := by
  refine ⟨by decide +kernel, ?_⟩
  have e : stranded.panelOrder = [] ∧ stranded.cap.exts = [] ∧ stranded.cap.base = 0 := by decide +kernel
  have n : stranded.snapHeader.length ≠ 0 := by
    refine pad_pos _ 65536 _ ?_ rfl
    decide +kernel
  rw [snapOps_header _ e.1 e.2.1, e.2.2]
  refine vnrWriteRun_fails _ _ _ n ?_
  rw [stranded_write]
  decide
theorem test_witness_Snapshots_restorePassEnd_fails :
    (vnrReadRun (running.setF capPg 0x44 9 8 2) .capture 0 256).1 ≠ 0 ∧
    numLE ((vnrReadRun (copying 2) .capture area 256).2.1.take 4) ≠ 0x50414E53 ∧
    (let s := restoring.withHbmUe [area + 256]
     let v := vnrReadRun s .capture area 256
     v.1 = 0 ∧ v.2.2.headerOk v.2.1 = true ∧
      (copyAll v.2.2 (v.2.2.passOps (snapLen v.2.2.panelSum (headerExts v.2.1)))).1 ≠ 0) := by decide +kernel
theorem test_witness_Snapshots_restoreEnd :
    (let s := (running.setF capPg 0x44 9 8 2).withCap { running.cap with second := true }
     s.f capPg 0x44 9 8 = 2 ∧ s.cap.second = true ∧ (copyAll s s.restoreOps).1 = 0) ∧
    (let s := (running.setF capPg 0x44 9 8 2).withCap { running.cap with second := true, exts := [(area, 65536)] }
     s.f capPg 0x44 9 8 = 2 ∧ (copyAll s s.restoreOps).1 ≠ 0) := by decide +kernel
theorem test_witness_Snapshots_values : (vnrReadRun restoring .capture area 32768).1 = 0 := by
  obtain ⟨bs, r⟩ := copying_readRun (b := 2) (by decide) snapCells 32768 (by decide)
  exact congrArg Prod.fst r
/-- The trace unit of core 7 runs. -/
def traced (t : TraceUnit) : State := (running.setSt (trcPg 7) stOn).setTr 7 { t with running := true }
def t0 : TraceUnit := running.tr 7
theorem test_witness_TraceCommands : running.serves .host ∧ running.f (trcPg 7) 0x40 0 0 = 0 ∧
    running.f (trcPg 7) 0x40 3 3 = 0 ∧ running.f (trcPg 7) 0x40 5 4 ≠ 2 ∧
    (running.setF (trcPg 7) 0x40 3 3 1).f (trcPg 7) 0x60 5 0 < 16 ∧
    ((traced t0).setF (trcPg 7) 0x40 0 0 1).f (trcPg 7) 0x40 0 0 = 1 ∧ (traced t0).tracing 7 = true ∧
    ((traced t0).tr 7).branches = [] ∧ running.tracing 7 = false ∧
    (let s := (traced t0).setF (trcPg 7) 0x40 5 4 3
     s.f (trcPg 7) 0x40 5 4 = 3 ∧ (s.tr 7).trigAt = none ∧ (s.tr 7).dropped = 0 ∧ (s.tr 7).sinceSync < 4096 ∧
      (s.tr 7).held.length < 1024) ∧
    (running.core 7).machine = true ∧
    (let s := traced { t0 with sinceSync := 4096 }
     4096 ≤ (s.tr 7).sinceSync ∧ s.stopDue 7 = false ∧ (s.tr 7).held.length + 7 ≤ 1024 ∧ s.tracing 7 = true ∧
      (s.tr 7).dropped = 0 ∧ (s.tr 7).branches = [] ∧ (s.tr 7).trigAt = none) ∧
    (let s := ((traced t0).setReg64 (trcPg 7) 0x50 5).setGauge 0 { Gauge.empty with value := 5 }
     s.reg64 (trcPg 7) 0x50 ≠ 0 ∧ reached64 (s.gval 0) ((s.tr 7).lastTs.toNat + s.reg64 (trcPg 7) 0x50) = true ∧
      s.tracing 7 = true) ∧
    (let s := (traced { t0 with trigAt := some 0, total := 9 }).setReg (trcPg 7) 0x4c 9
     s.stopDue 7 = true ∧ s.tracing 7 = true) ∧
    (let s := traced { t0 with dropped := 1 }
     s.tracing 7 = true ∧ 0 < (s.tr 7).dropped ∧ (s.tr 7).held.length + 18 ≤ 1024 ∧ (s.tr 7).branches = [] ∧
      (s.tr 7).trigAt = none) := by
  unfold State.serves; decide +kernel
/-- Core 7 ON and running at 0x100 in its own SRAM, with the word w there. -/
def cored (w : Word) (f : Core → Core) : State :=
  let s := running.setSt (ccPg 7) stOn
  s.setCore 7 (f { Core.empty with pc := 0x100, sram := [(0x40, w)] })
/-- ADDI, MUL, DIVU, BEQ, LW, SW, ECALL and WFI, each about to be executed. -/
theorem test_witness_ControlCores_fetch :
    ∀ n ∈ [(0x00500093 : Nat), 0x023100b3, 0x023150b3, 0x00208463, 0x0000a083, 0x0020a023, 0x73, 0x10500073],
      let w := BitVec.ofNat 32 n
      (cored w id).coreRuns 7 = true ∧ (cored w id).tracing 7 = false ∧ ((cored w id).core 7).fault = none ∧
      (cored w id).takes 7 = none ∧ fetch (cored w id) 7 = .inl (some w.toNat, w.toNat, 4) ∧
      fetchEvents (fetchedUsed (cored w id) 7) 7 0x100 4 = fetchedUsed (cored w id) 7 := by decide +kernel
theorem test_witness_ControlCores_fields :
    (fld 0x00500093 6 0 = 0x13 ∧ fld 0x00500093 14 12 = 0) ∧
    (fld 0x023100b3 6 0 = 0x33 ∧ fld 0x023100b3 31 25 = 1 ∧ fld 0x023100b3 14 12 = 0) ∧
    (fld 0x023150b3 6 0 = 0x33 ∧ fld 0x023150b3 31 25 = 1 ∧ fld 0x023150b3 14 12 = 5) ∧
    (fld 0x00208463 6 0 = 0x63 ∧ fld 0x00208463 14 12 = 0) ∧ (fld 0x0000a083 6 0 = 0x03 ∧ fld 0x0000a083 14 12 = 2) ∧
    (fld 0x0020a023 6 0 = 0x23 ∧ fld 0x0020a023 14 12 = 2) ∧
    ((cored 0 id).core 7).pmpOk ((cored 0 id).core 7).dataMachine 0 0xfffc = true ∧
    ((cored 0 id).core 7).pmpOk ((cored 0 id).core 7).dataMachine 1 0xfffc = true := by decide +kernel
theorem test_witness_ControlCores_illegal :
    fetch (cored 0 id) 7 = .inl (none, 0, 2) ∧
    fetchEvents (fetchedUsed (cored 0 id) 7) 7 0x100 2 = fetchedUsed (cored 0 id) 7 ∧ running.coreRuns 7 = false ∧
    (∀ e ∈ [(0x10000000, Place.shared 0), (0x20000000, .rom 0)],
      let s := cored 0 (fun k => { k with pc := BitVec.ofNat 32 e.1 })
      s.coreRuns 7 = true ∧ (s.core 7).fault = none ∧ s.takes 7 = none ∧ s.place 7 (s.core 7).pc.toNat = some e.2 ∧
        (s.core 7).pmpOk (s.core 7).machine 2 (s.core 7).pc.toNat = true ∧ (s.core 7).fetched = []) := by decide +kernel
theorem test_witness_ControlCores_interrupts :
    ((cored 0 (fun k => { k with fault := some 4 })).core 7).fault = some 4 ∧
    ((cored 0 (fun k => { k with mie := 8, mie_ := true })).setF (ccPg 7) 0x50 0 0 1).takes 7 = some 3 ∧
    (cored 0x10500073 (fun k => { k with mie := 8 })).mip 7 &&& 8 = 0 ∧
    (let s := ((cored 0 (fun k => { k with mie := 8 })).setF (ccPg 7) 0x50 0 0 1).setCcSts 7 0 true
     s.ccSts 7 0 = true ∧ s.on (ccPg 7) = true ∧ s.f pwrPg 0x44 2 0 < 3 ∧ s.mip 7 &&& (s.core 7).mie.toNat ≠ 0 ∧
      s.tracing 7 = false) ∧
    running.recent.contains alarmMark = false ∧ (running.withRecent [alarmMark]).recent.contains alarmMark = true := by
  decide +kernel
/-- The dispatcher ON, list 63 enabled with room and naming core 7, which is idle. -/
def wdOn : State :=
  let s := ((running.setSt wdPg stOn).setSt (ccPg 7) stOn).setF (ccPg 7) 0x80 0 0 1
  (s.setReg wdPg (0x200 + 4 * 63) 4).setF wdPg (0x100 + 4 * 63) 23 16 0x80
def item63 : WorkItem := ⟨1, 2, 63 + 31 * 256, 0⟩
theorem test_witness_WorkDispatch : running.refRuns = true ∧ running.f wdPg 0x70 0 0 = 0 ∧
    (running.setF wdPg 0x70 0 0 1).f wdPg 0x70 0 0 = 1 ∧ wdOn.on wdPg = true ∧ wdOn.postBad item63 = false ∧
    wdOn.postBad ⟨0, 0, 128, 0⟩ = true ∧ wdOn.ccSts 7 3 = false ∧ running.on wdPg = false ∧
    (let s := ((((wdOn.setReg wdPg 0x60 1).setReg wdPg 0x64 2).setReg wdPg 0x68 (63 + 31 * 256)).setF wdPg 0x70 0 0 1)
     s.mayAct (placeOf (.window .host)) = true ∧ windowBusy s .host = true ∧ windowItem s .host = item63 ∧
      s.postRoom item63 = true ∧ item63.delay = 0 ∧
      (s.setF wdPg 0x54 12 0 0).postRoom item63 = false) ∧
    (let s := (wdOn.setWdList 63 [(item63, 0)]).withTicks 1
     s.mayAct 41 = true ∧ s.wdList 63 = (item63, 0) :: [] ∧ 0 < s.ticks ∧ s.listNames 63 7 = true ∧ s.coreIdle 7 = true ∧
      (∀ d, d < 7 → s.listNames 63 d = false ∨ s.coreIdle d = false) ∧
      ∀ m, m < 64 → s.wdList m ≠ [] → m = 63) ∧
    (let s := (running.setCcSts 7 1 true).setReg (ccPg 7) 0x98 (15 * 256)
     s.ccSts 7 1 = true ∧ (s.itemAt (ccPg 7) 0x90).flow = 15 ∧ (1 : BitVec 3).getLsbD 0 = true ∧
      16 ≤ ((running.setReg (ccPg 7) 0x98 (31 * 256)).itemAt (ccPg 7) 0x90).flow) ∧
    (let s := wdOn.withWd { wdOn.wd with reorder := [(15 * 65536, some (7, some item63))] }
     Tab.get (fun _ => none) s.wd.reorder (15 * 65536 + s.flowNext 15) = some (7, some item63) ∧ item63.flow = 31) ∧
    Tab.get (fun _ => none) wdOn.wd.reorder (15 * 65536 + wdOn.flowNext 15) = none ∧
    (let s := (wdOn.setF wdPg 0x460 8 8 1).setSt (gauPg 0) stOn
     s.on wdPg = true ∧ s.dlyEn 3 = true ∧ s.wdDelay 3 = [] ∧ s.gauOn (s.f wdPg 0x460 3 0) = true ∧
      reached64 (s.gval 0) (s.nextX 3) = true ∧ wdOn.gauOn 0 = false) ∧
    (let s := wdOn.withWd { wdOn.wd with delays := [(3, [(1, item63)])] }
     let s := s.setF wdPg 0x460 9 9 1
     s.mayAct 7 = true ∧ s.draining 3 = true ∧ s.wdDelay 3 = (1, item63) :: [] ∧ s.poolFree ≠ 0 ∧ s.listFull 63 = false) ∧
    wdOn.dlyEn 3 = false ∧ wdOn.draining 3 = false ∧
    running.reg64 wdPg (0x408 + 0x20 * 3) ≠ 0 ∧ (running.setReg64 wdPg 0x468 0).reg64 wdPg (0x408 + 0x20 * 3) = 0 := by
  decide +kernel
theorem test_witness_WorkDispatch_turns :
    (let s := (wdOn.withWd { wdOn.wd with slots := [(7, some item63)] })
     s.mayAct (placeOf (.slot 7)) = true ∧ s.resultSlot 7 = some item63 ∧ s.postRoom item63 = true) ∧
    (wdOn.withWd { wdOn.wd with turn := 42 }).mayAct 41 = false ∧ wdOn.mayAct 0 = true ∧ wdOn.mayAct 23 = true ∧
    (∀ l, l < 64 → wdOn.wdList l = []) ∧
    (wdOn.withWd { wdOn.wd with turn := 42 }).mayAct (placeOf (.window .host)) = false := by decide +kernel
/-- A request of core 7 that waits at its source, on ring 0, with every ring ON. -/
def ringed (r : RingReq) : State :=
  (withOn running ((List.range 6).map ringPg)).withNet [r]
def req (op dst addr bytes : Nat) (data : List Nat) (st : RingStage) (quar : Bool) : RingReq :=
  ⟨7, 3, op, dst, addr, bytes, data, 0, .core 7, true, 0, 0, addr, true, quar, st, 0⟩
theorem test_witness_RingRequests_sent : running.request 7 3 = none ∧
    ∀ e ∈ [(1, 8, 0x3ffffc), (1, 7, 0x8000), (1, 8, 0x20000000),
        (1, 13, 0xa0000 * 65536), (1, 14, 0), (2, 8, 0), (2, 14, 0x24), (3, 14, 0x2000024),
        (4, 14, 0x2000024), (5, 8, 0)],
      let r := req e.1 e.2.1 e.2.2 4 [] .sent false
      (ringed r).request 7 3 = some r ∧ r.stage = .sent ∧ (ringed r).isOldest r = true ∧ (ringed r).ringsOn r = true ∧
        r.addr % 4 = 0 ∧ (ringed r).sharedWord r.addr = (((ringed r).sharedWord r.addr).1, .clean) := by decide +kernel
theorem test_witness_RingRequests_place : bar0At 0 = .page hstPg 0 ∧ bar0At 0x24 = .page hstPg 0x24 ∧
    bar0At 0x2000024 = .bcast 0 0x24 := by decide +kernel
theorem test_witness_RingRequests_answered :
    (∀ e ∈ [(1, 0), (2, 0), (1, 1), (1, 3)],
      let r := req e.1 8 0 4 [] (.answered e.2 0 .clean [1, 2, 3, 4]) false
      let s := (ringed r).setCore 7 { Core.empty with wait := some (.load 5 4 true 0x10000000 4) }
      s.request 7 3 = some r ∧ s.refRuns = true ∧ (s.route 8 7).isSome = true ∧ r.quar = false ∧ r.live = true ∧
        s.tracing 7 = false ∧ (s.core 7).wait = some (.load 5 4 true 0x10000000 4)) ∧
    (let r := req 1 8 0x20000000 4 [] (.answered 0 0 .clean [1, 2, 3, 4]) false
     let s := (ringed r).setCore 7 { Core.empty with wait := some (.fetch 0x20000000) }
     s.request 7 3 = some r ∧ (s.route 8 7).isSome = true ∧ s.tracing 7 = false ∧ 0x400000 ≤ r.addr ∧
      (s.core 7).wait = some (.fetch 0x20000000)) ∧
    (let r := req 1 8 0 4 [] (.answered 0 0 .uncorrectable []) false
     let s := (ringed r).setCore 7 { Core.empty with wait := some (.load 5 4 true 0x10000000 4) }
     s.request 7 3 = some r ∧ (s.route 8 7).isSome = true ∧ s.tracing 7 = false) ∧
    (let r := req 2 8 0 4 [] (.answered 0 0 .clean []) true
     (ringed r).request 7 3 = some r ∧ r.quar = true ∧ ((ringed r).route 8 7).isSome = true ∧ (ringed r).refRuns = true ∧
      r.urg < 6 ∧ r.stage ≠ .lost) ∧
    (∃ r, r ∈ (ringed (req 1 8 0 4 [] .sent false)).outstanding 7 ∧ r.dst = 8) ∧
    ¬ ∃ r, r ∈ running.outstanding 7 ∧ r.dst = 8 := by
  refine ⟨by decide +kernel, by decide +kernel, by decide +kernel, by decide +kernel,
    ⟨req 1 8 0 4 [] .sent false, by decide +kernel⟩, ?_⟩
  rintro ⟨r, h, -⟩
  exact absurd h (by rw [show running.outstanding 7 = [] from rfl]; exact List.not_mem_nil)
theorem test_witness_PinSetUp : running.serves .host ∧ running.locked (portPg 11) = false ∧
    running.st (portPg 11) = stOff ∧ running.reg (portPg 11) 0xfc = 0 ∧
    ((running.setSt (portPg 11) stOn).st (portPg 11) ≠ stOff ∧
      (running.setSt (portPg 11) stOn).f (portPg 11) 0x40 1 0 ≠ (3 : BitVec 2).toNat) ∧
    ((0x7ff : BitVec 16).toNat < 2048 ∧ fnOk (0x703 : BitVec 16).toNat = true ∧ fnOk (0x7ff : BitVec 16).toNat = false) ∧
    (running.setReg (portPg 11) 0xfc 0x80000000).f (portPg 11) 0xfc 31 31 = 1 ∧
    running.on cycPg = false ∧ running.cycOff = true ∧ (running.setSt cycPg stOn).cycOff = false ∧
    0x50000 ≤ (0 : BitVec 32).toNat * 2 ^ 32 + ((running.withLows [(regKey (portPg 11) 0x108, some 0x50000)]).heldLow
      (portPg 11) 0x108).toNat ∧
    (0 : BitVec 32).toNat * 2 ^ 32 + (running.heldLow (portPg 11) 0x108).toNat < 0x50000 ∧
    0 < (Tab.get (zeroAt 7) (running.withPins { running.pins with keys := [(keyNum .host 11, 65)] }).pins.keys
      (keyNum .host 11)).toNat ∧
    (Tab.get (zeroAt 7) running.pins.keys (keyNum .host 11)).toNat = 0 := by unfold State.serves; decide +kernel
/-- Port 11 ON with what it holds. -/
def ported (x : Port) : State := (running.setSt (portPg 11) stOn).setPort 11 x
def p0 : Port := Port.empty
theorem test_witness_PinActivity :
    (sampleStep running).isNone = true ∧ sampleStep (settledWith 112 .confirmed 0) = some (settledWith 112 .confirmed 0) ∧
    (let s := settledWith 112 .confirmed 0
     s.cyc.phase = .confirmed ∧ s.cyc.outcome = 0 ∧ s.step ≤ s.cStep ∧ s.f (portPg 11) 0xf0 0 0 = 0 ∧
      (((s.setSt (portPg 11) stOn).setF (portPg 11) 0xf0 0 0 1).on (portPg 11) = true ∧
        (((s.setSt (portPg 11) stOn).setF (portPg 11) 0xf0 0 0 1).port 11).capNew = false)) ∧
    (let s := ((ported { p0 with capNew := true }).setF (portPg 11) 0xf0 0 0 1).setGauge 0 { Gauge.empty with value := 5 }
     s.f (portPg 11) 0xf0 0 0 = 1 ∧ s.on (portPg 11) = true ∧ (s.port 11).capNew = true ∧
      reached64 (s.portG 11) (s.reg64 (portPg 11) 0x100) = true) ∧
    (let s := (ported { p0 with pend := some (1, 1) }).setF (portPg 11) 0xf0 1 1 1
     s.f (portPg 11) 0xf0 1 1 = 1 ∧ reached64 (s.portG 11) (s.reg64 (portPg 11) 0x110) = true ∧
      (s.port 11).pend = some (1, 1)) ∧
    (p0.tx.length < 16 ∧ 16 ≤ ({ p0 with tx := List.replicate 16 0 } : Port).tx.length ∧
      (0x100 : BitVec 13).toNat / 256 ≠ 0) ∧
    (let s := (ported p0).setF (portPg 11) 0x88 16 16 1
     (s.port 11).i2c = none ∧ s.on (portPg 11) = true ∧ s.f (portPg 11) 0x88 16 16 = 1) ∧
    (let s := ported { p0 with i2c := some 0x400, wave := i2cWave 0x400 3 }
     (s.port 11).i2c = some 0x400 ∧ s.i2cEnds 11 0x400 true false = false ∧ s.i2cEnds 11 0x400 true true = true ∧
      (s.setPort 11 { s.port 11 with wave := [] }).i2cEnds 11 0x400 false false = true ∧
      (s.port 11).wave.length = 36 ∧ (s.port 11).waveTick < (s.setF (portPg 11) 0x88 9 0 1).f (portPg 11) 0x88 9 0) ∧
    (∀ n ∈ [0, 9, 10],
      let s := (((ported { p0 with tx := [65], txTick := some n }).setF (portPg 11) 0x84 19 19 1).setF (portPg 11) 0x84 15 0 0).setF
        (portPg 11) 0x7c 7 0 6
      s.refRuns = true ∧ s.uartEn 11 = true ∧ (s.port 11).tx = 65 :: [] ∧ (s.port 11).txTick = some n ∧
        (uartBits (s.reg (portPg 11) 0x84) 65).length = 10 ∧ uartTime (s.reg (portPg 11) 0x84) = 1 ∧
        s.uartSent 11 = decide (n = 10)) ∧
    (let e := fun v => running.setReg ⟨.edl, 0⟩ 0x6c v
     ((e 0x8000).reg ⟨.edl, 0⟩ (0x50 + 4 * 7)).getLsbD 15 = true ∧ (e 0).pwr.target = none ∧ (e 0).f pwrPg 0x44 2 0 = 1) ∧
    (let s := ((running.setF pwrPg 0x44 2 0 2).setF pwrPg 0x50 0 0 1)
     s.f pwrPg 0x44 2 0 = 2 ∧ s.f pwrPg 0x50 0 0 = 1) := by decide +kernel
/-- The device with Memory Space Enable; and with every ring ON. -/
def opened : State := running.setCfg 4 2
def ringsOn : State := withOn opened ((List.range 6).map ringPg)
theorem test_witness_HostLink : opened.pwr.off = false ∧ opened.hst.flr = false ∧ opened.hst.linkReset = false ∧
    opened.refRuns = true ∧ opened.inD0 = true ∧ opened.memSpace = true ∧ running.memSpace = false ∧
    (opened.setCfg cfgPm 3).inD0 = false ∧
    (running.withHst { running.hst with flr := true }).hst.flr = true ∧
    (0x24 < 2 ^ 26 ∧ 0x24 % 4 = 0 ∧ bar0At 0x24 = .page hstPg 0x24 ∧ opened.route 9 (nodeOfBar0 0x24) = none ∧
      ringsOn.route 9 (nodeOfBar0 0x24) = some 0) ∧
    8 < 5 % 8 + 4 ∧
    (let s := ringsOn
     ((readBy (countFlits s 9 (nodeOfBar0 0x24) 0 1) .host hstPg 0x24).2.route (nodeOfBar0 0x24) 9).isSome = true ∧
      ((writeReg (countFlits s 9 (nodeOfBar0 0x24) 0 2) .host hstPg 0x24 15 5).route (nodeOfBar0 0x24) 9).isSome = true) ∧
    (∀ n ∈ [0, 64], let v := bar2ReadRun (n / 64 + 2) 0 n clearTrip (0, [], opened)
      v.1.2 = 0 ∧ (v.2.1 = 0 ↔ n = 0)) ∧
    (∀ bs ∈ [[], [1]], let v := bar2WriteRun (bs.length / 64 + 2) 0 bs clearTrip (0, opened)
      v.1.2 = [] ∧ (v.2.1 = 0 ↔ bs = [])) ∧
    running.serves .host ∧ running.hst.pba.getLsbD 127 = false ∧ running.hst.fnMask = true ∧
    (running.withHst { running.hst with pba := 1, fnMask := false, busMaster := true }).hst.pba.getLsbD 0 = true := by
  unfold State.serves; decide +kernel
/-- The device in a power state, with a target and a wake cause waiting. -/
def powered (st : Nat) (target wake : Option Nat) : State :=
  (running.setF pwrPg 0x44 2 0 st).withPwr { running.pwr with target := target, wake := wake }
theorem test_witness_PowerStates :
    (running.withPwr { running.pwr with off := true }).pwr.off = true ∧ State.reset.pwr.starting = true ∧
    (let s := (powered 4 none (some 5)).withPwr { running.pwr with wake := some 5, cause := 3 }
     s.f pwrPg 0x44 2 0 = 4 ∧ s.pwr.starting = false ∧ s.pwr.wake ≠ none ∧ s.pwr.vinOut = false ∧ s.pwr.cause ≠ 2 ∧
      s.pwr.off = false) ∧
    (running.f pwrPg 0x44 2 0 = 1 ∧ running.pwr.target = none ∧ running.idleRefusal = 0 ∧
      (running.setSt cycPg stOn).idleRefusal ≠ 0 ∧ running.serves .host) ∧
    (powered 2 none none).f pwrPg 0x44 2 0 = 2 ∧
    (∀ m ∈ [1, 2, 3, 4], (powered 1 (some m) none).pwr.target = some m ∧ (powered 1 (some m) none).f pwrPg 0x44 6 4 = 0 ∧
      (powered 1 (some m) none).pwr.wake = none ∧ (powered 1 (some m) none).serves .host) ∧
    (let s := ((powered 2 none none).setF pwrPg 0x50 2 1 3).setReg pwrPg 0x54 1
     s.f pwrPg 0x50 1 1 = 1 ∧ s.reg pwrPg 0x54 ≠ 0 ∧ s.f pwrPg 0x50 2 2 = 1 ∧ s.f (bndPg 5) 0x40 8 8 = 1 ∧
      s.f pwrPg 0x44 2 0 = 2) ∧
    (let s := (powered 4 none none).setF pwrPg 0x50 3 3 1
     s.f pwrPg 0x50 3 3 = 1 ∧ ({ s.pwr with cause := 3 } : Power).cause = 3) := by unfold State.serves; decide +kernel
theorem test_witness_Supervision : running.refRuns = true ∧ State.reset.refRuns = false ∧
    running.f pwrPg 0x4c 31 31 = 0 ∧ (running.setF pwrPg 0x4c 31 31 1).f pwrPg 0x4c 31 31 = 1 ∧
    (running.setF pwrPg 0x44 8 8 1).f pwrPg 0x44 8 8 = 1 ∧ running.f pwrPg 0x44 8 8 = 0 ∧
    running.f pwrPg 0x44 2 0 < 3 ∧ (∀ i, i < 7 → (tripping (List.replicate 7 (some 0))).getD i false = false) ∧
    (tripping (List.replicate 7 (some 0x7ff))).getD 6 false = true ∧
    (running.withPwr { running.pwr with tripped := List.replicate 7 true }).pwr.tripped.getD 6 false = true ∧
    running.serves .host ∧ running.locked pwrPg = false ∧ running.locked thmPg = false ∧
    (800 ≤ (1600 : BitVec 11).toNat ∧ (1600 : BitVec 11).toNat ≤ 1600 ∧ (1600 : BitVec 11).toNat % 25 = 0) ∧
    1600 < (1625 : BitVec 11).toNat ∧ running.cycOff = true ∧ (running.setSt cycPg stOn).cycOff = false ∧
    (running.reg thmPg 0x64).toNat < 2 ^ 20 ∧ (15 * 65536 + 95 * 256 + 115 : BitVec 32).toNat < 2 ^ 20 := by
  unfold State.serves; decide +kernel
theorem test_witness_DrawerAndRepair : running.serves .host ∧ (0 : BitVec 32) ≠ 0x57525354 ∧ running.refRuns = true ∧
    running.f drwPg 0x44 0 0 = 0 ∧ running.f drwPg 0x40 8 8 = 0 ∧ (running.setF drwPg 0x44 0 0 1).f drwPg 0x44 0 0 = 1 ∧
    (0x7fc < 0x800 ∧ 0x7fc % 4 = 0) ∧
    (0x60000 ≤ (running.setF drwPg 0x60 11 0 0xfff).f drwPg 0x60 11 0 * 2048 + 0x7fc ∧
      (running.setF drwPg 0x60 11 0 0xfff).f drwPg 0x60 11 0 * 2048 + 0x7fc < 0x800000) ∧
    (running.f drwPg 0x60 11 0 * 2048 + 0 < 0x51000) ∧
    (running.retired 3 131 = false ∧ running.marked 3 131 = false) ∧
    (running.setReason 3 131 0x45).marked 3 131 = true ∧ running.drw.buffer = none ∧
    (running.withDrw { running.drw with buffer := some [] }).drw.buffer = some [] := by unfold State.serves; decide +kernel
theorem test_witness_TestPort : running.pwr.off = false ∧ running.cycOff = true ∧ running.tap.ir ≠ 0 ∧
    (running.setSt cycPg stOn).cycOff = false ∧ (0xff : BitVec 8).toNat ∉ [0, 1, 2, 0x38, 0x39, 0x3a] ∧
    (running.withTap ⟨0, 0, false, false⟩).tap.ir = 0 ∧ running.on (pinPg 383) = false ∧
    (running.setSt (pinPg 383) stOn).on (pinPg 383) = true := by decide +kernel
theorem test_witness_WhatFollows :
    (let s := ((running.withHst { running.hst with fnMask := false, busMaster := true }).setSt hstPg stOn)
     s.hst.conds = 0 ∧ s.msixOpen 0 = false) ∧
    (let s := (running.setSt (pinPg 0) stOn).setF (pinPg 0) 0x44 7 0 0x24
     s.on (pinPg 0) = true ∧ s.extest = false ∧ s.pinFn 0 % 16 = 4 ∧ s.pinFn 0 / 16 < 3 ∧ 0 ∈ s.cfgPins) := by
  decide +kernel
theorem test_witness_WhatLasts :
    Lasts { running.lasting with pending := running.pending } running.lasting ∧ step running = .next running :=
  ⟨⟨rfl, rfl, rfl, fun _ _ h => h, fun _ h => h, fun h => h⟩, rfl⟩

/-! ### More hypotheses: further clauses of the statements -/

theorem test_witness_PageControl_types :
    running.st (vnrPg 1) = stOff ∧ ((lnPg 5 8).ty = .ln ∧ pageExists (lnPg 5 8) = true ∧
      (bundleAt running 5 bsUp).bup ((lnPg 5 8).inst / 9) = true ∧ running.st (lnPg 5 8) = stOff) ∧
    running.st (ccPg 7) = stOff ∧ running.wd.preempt = 0 ∧ running.wd.lists = [] ∧ running.st (bndPg 5) = stOff ∧
    running.f (pnlPg 3 131) 0x40 31 31 = 0 ∧
      ((running.setF (pnlPg 3 131) 8 0 0 1).en (pnlPg 3 131) = true) := by decide +kernel
/-- The pages that wait in a sequence, and those that fail or end it. -/
theorem test_witness_SequencesEnd_waits :
    ((running.setMod 3 3 .training).modTrains (pageDie (diePg 3)) 3 = true ∧
      ((running.setMod 3 3 .training).setSt (diePg 3) stStarting).st (diePg 3) = stStarting ∧
      ∀ m, m < 4 → running.modTrains (pageDie (diePg 3)) m = false) ∧
    running.on (diePg (pageDie (dvtPg 3))) = false ∧ running.f (portPg 11) 0x40 1 0 = 0 ∧
    (running.setF (portPg 11) 0x40 1 0 3).f (portPg 11) 0x40 1 0 ≠ 0 ∧
    (running.setLdSt ldReceive).ldSt ≠ ldIdle ∧ running.ldSt = ldIdle ∧
    ((running.setQueue 3 15 { Queue.empty with held := [⟨0, [1], 1,
      0⟩] }).queue (pageDie (mqPg 3 15)) ((mqPg 3 15).inst % 1024)).held ≠ [] ∧
    (running.queue 3 15).held = [] ∧ (running.setCcSts 7 1 true).ccSts (ccPg 7).inst 1 = true ∧
      running.ccSts 7 1 = false ∧
    (running.setF (pnlPg 3 131) 0x40 31 31 1).f (pnlPg 3 131) 0x40 31 31 = 1 := by decide +kernel
theorem test_witness_ScrubAndExport_paused :
    let s := (running.setSt (pnlPg 3 131) stOn).setF pwrPg 0x44 2 0 3
    s.on (pnlPg 3 131) = true ∧ s.stepsPass = false ∧ running.stepsPass = true := by decide +kernel
/-- A queue that holds one write at Q; a REPLAY that has escalated at C. -/
def heldWriteAtQ : State := (cycAt 112 .confirmed).setQueue 3 15 { Queue.empty with held := [⟨area, [1], 1, 0⟩] }
theorem test_witness_ConfirmAndCommit_held : heldWriteAtQ.cyc.phase = .confirmed ∧
  heldWriteAtQ.step = heldWriteAtQ.qStep ∧
    heldWriteAtQ.cyc.outcome = 0 ∧ (heldWriteAtQ.queue 3 15).held = [⟨area, [1], 1, 0⟩] ∧
    (settledWith 112 .confirmed 2).cyc.outcome.getLsbD 1 = true ∧ (settledWith 112 .confirmed 2).cyc.limit = false := by
  decide +kernel
theorem test_witness_ConfirmAndCommit_others : ∀ die q, die * 16 + q ≠ 3 * 16 + 15 →
  (heldWriteAtQ.queue die q).held = [] := by
  intro d q h
  unfold heldWriteAtQ State.queue State.setQueue
  rw [show ∀ s q, (State.withQueues s q).queues = q from fun _ _ => rfl, Tab.get_set_other _ _ h]
  rfl
theorem test_witness_BoundaryAndReleases_free :
    (let s := ((running.setSt clpPg stOn).setF clpPg 0x40 9 0 64)
     let s := s.withCyc { s.cyc with nextRel := 64, voteFor := 64 }
     let due := max s.cyc.voteFor (ceil64 (s.cyc.csc + s.prop))
     s.executing = false ∧ s.stepsPass = true ∧ s.cyc.free = true ∧ due < max s.cyc.nextRel (ceil64 s.cyc.csc) + s.prop ∧
      s.cyc.csc + s.prop = due) ∧
    (∀ h ∈ [(0 : BitVec 8), 1], ∀ held ∈ [true, false],
      let s := (running.setSt cycPg stOn).withCyc { running.cyc with
        csc := 64, nextRel := 64, voteFor := 128, rounds := [⟨64, 0, 0, h, held⟩] }
      let point := max s.cyc.nextRel (ceil64 s.cyc.csc)
      s.cyc.free = true ∧ s.executing = false ∧ s.stepsPass = true ∧
        point < max s.cyc.voteFor (ceil64 (s.cyc.csc + s.prop)) ∧
        s.cyc.csc = point ∧ s.cycOn = true ∧
          s.cyc.rounds.find? (fun r => r.rel == point) = some ⟨64, 0, 0, h, held⟩) := by
  decide +kernel
theorem test_witness_QueueTraffic_failed :
    let r : Resp := ⟨0, 1, 1, [5], 0, false⟩
    let s := running.setQueue 3 15 { Queue.empty with resps := [r] }
    (s.queue 3 15).resps.find? (fun r => !r.arrived) = some r ∧ r.err ≠ 0 ∧
      ((List.range r.classes.length).filter (fun i => r.err.getLsbD i)).length = 1 := by decide +kernel
theorem test_witness_LoaderCommands_more : running.ldr.part.length < 16 ∧ running.bufferFree 10 = true ∧
    (let s := (loading ldReady true).setF ldrPg 0x44 23 16 2
     s.ldPos + 1 < s.ldLen ∧ s.bup s.ldr.down = true) := by decide +kernel
/-- A partial image at its commit, Panel 0 of die 0 bound; and a full one, every ring ON. -/
def partialCommit : State :=
  let s := (withImage ldCommit).setReg (dvtPg 0) 0x100 0x8000
  s.withLdr { s.ldr with counts := [1, 0, 0, 0] }
def fullCommit : State :=
  let s := withOn (withImage ldCommit) ((List.range 6).map ringPg)
  s.withLdr { s.ldr with plain := fullImage }
theorem test_witness_ImageCommit_partial : partialCommit.ldr.image = some parsed ∧ parsed.full = false ∧
    partialCommit.ldSt = ldCommit ∧ partialCommit.ldr.counts.getD 0 0 = 1 ∧ partialCommit.phys 0 0 = some 0 ∧
    ∀ g, g < 4 → ∀ p, p < partialCommit.ldr.counts.getD g 0 → partialCommit.phys g p = some 0 ∧ p = 0 := by decide +kernel
theorem test_witness_ImageCommit_full :
    let i : Image := ⟨fullImage.take 1152, parsed.frames⟩
    fullCommit.ldr.image = some i ∧ i.full = true ∧ i.ofTy 8 = [] ∧ i.ofTy 9 = [] ∧ fullCommit.ldSt = ldCommit ∧
      fullCommit.aheadOf 10 2 = none ∧
      (∀ n ∈ [14, 32, 33, 34, 36, 37, 38, 40, 41, 42, 44, 45, 46],
        (fullCommit.route 10 n).isSome = true ∧ (fullCommit.route n 10).isSome = true) ∧
      ∀ g, g < 4 → fullCommit.locked (dvtPg g) = false ∧
        ∀ ph, ph < 132 → fullCommit.retired g ph = false ∧ fullCommit.locked (pnlPg g ph) = false := by decide +kernel
theorem test_witness_LoadChain_more : 
    (let s := (region1 2 2).setReg (vnrPg 1) 0x108 0x14000
     let s := (bundleAt s 0 bsUp).setSt ldrPg stOn
     s.allAreasOk = true ∧ s.on ldrPg = true ∧ s.ldSt = ldIdle ∧ s.ldSrc = false ∧ s.accepts 0) ∧
       (loading ldReceive false).ldSt ≠ ldIdle ∧
    (let s := (loading ldForward false).withLdr { (loading ldForward false).ldr with timer := true }
     s.ldr.timer = true ∧ s.ldSt = ldForward ∧ s.accepts 1 ∧ s.bup 0 = true ∧ s.ldr.head = false) ∧
    (loading ldCheck false).ldr.part.length < 16 := by unfold State.accepts; decide +kernel
theorem test_witness_VeneerSeal_counters :
    let s := (region1 2 3).withVnr { (region1 2 3).vnr with sealing := [(1, some (0, false))] }
    Tab.get (fun _ => none) s.vnr.sealing 1 = some (0, false) ∧ (s.region 1 0).en = true ∧ (s.region 1 0).state = 3 := by
  decide +kernel
theorem test_witness_DataUnits_retry :
    ∀ v ∈ [bsIdent, bsUp], ∀ off ∈ [true, false],
      let x := { BundleTx.empty with next := 1 }
      let s := (bundleAt (if off then running else running.setSt cycPg stOn) 5 v).setBundle 5 { Bundle.empty with tx := x }
      (s.bup 5 = true ∨ s.bst 5 = bsIdent) ∧ (s.bundle 5).rx.due = true ∧ s.cycOff = off ∧
        (s.bundle 5).tx.kept.length < ((s.bundle 5).tx.next + 2 ^ 24 - (0xffffff : BitVec 24).toNat) % 2 ^ 24 := by
  decide +kernel

/-- Bundle 5 in a state, its nine lanes' pages ON, and what it holds. -/
def lanesOn (v : Nat) (x : Bundle) : State :=
  (withOn (bundleAt running 5 v) ((List.range 9).map (lnPg 5))).setBundle 5 x
theorem test_witness_BundleTraining_verdicts :
    (∀ n ∈ [(0xff : BitVec 9), 0x1fe], 8 ≤ (lanesOf n).length) ∧
    (let s := lanesOn bsLaneTrain { Bundle.empty with checked := true }
     s.mayTrain 5 = true ∧ s.bst 5 = bsLaneTrain ∧ (s.bundle 5).verdicts = false ∧ (s.bundle 5).checked = true) ∧
    (let s := lanesOn bsLaneTrain Bundle.empty
     let own : List LaneCheck := ⟨false, 0⟩ :: List.replicate 8 ⟨true, 16⟩
     (s.bundle 5).checked = false ∧
      ((List.range 9).filter (fun k => s.lanePasses 5 k (own.getD k ⟨false, 0⟩))).length = 8) ∧
    (let s := ((lanesOn bsLaneTrain Bundle.empty).setF bnd0 0x80 0 0 1).setF bnd0 0x80 6 4 5
     s.follows = true ∧ s.upstream = 5 ∧ s.clkLocked = false) ∧
    (let s := (bundleAt ((lanesOn bsLock { Bundle.empty with partnerLocked := true, partnerMhz := 1200 }).setF bnd0 0x80 0 0 1)
        4 bsLaneTrain).setF bnd0 0x80 6 4 5
     let s := s.setBundle 4 { Bundle.empty with verdicts := true }
     s.follows = true ∧ s.cycOff = true ∧ s.upstream = 5 ∧ s.bst 5 = bsLock ∧ (s.bundle 5).partnerLocked = true ∧
      s.bst 4 = bsLaneTrain ∧ (s.bundle 4).verdicts = true ∧ s.on (lnPg 5 8) = true ∧
        (s.bundle 5).partnerMhz = 1200) := by
  decide +kernel
theorem test_witness_LaneFailover_maps :
    (let s := ((up5.setBundle 5 { Bundle.empty with txSwitch := some (0, 0, 8) }).setF (lnPg 5 0) 0x44 7 6 0).setF
        (lnPg 5 8) 0x44 7 6 1
     (s.bundle 5).txSwitch = some (0, 0, 8) ∧ 0 ≤ s.cyc.csc ∧ s.f (lnPg 5 0) 0x44 7 6 = 0) ∧
    (let s := ((up5.setBundle 5 { Bundle.empty with txSwitch := some (0, 0, 8) }).setF (lnPg 5 0) 0x44 7 6 2).setF
        (lnPg 5 8) 0x44 7 6 0
     s.f (lnPg 5 0) 0x44 7 6 ≠ 0 ∧ s.f (lnPg 5 8) 0x44 7 6 = 0) ∧
    (let s := (up5.setF (bndPg 5) 0x44 11 8 8).setF (lnPg 5 0) 0x44 1 0 0
     (s.bundle 5).fail = none ∧ s.rxSpare 5 ≠ 0 ∧ s.rxSpare 5 ≠ 15 ∧
      ((s.setBundle 5 { Bundle.empty with fail := some ⟨1, 1, 8, .wait, 0, false⟩ }).bundle 5).fail.isSome = true) := by
  decide +kernel
/-- A lane under test, and one that sends its pattern in TEST. -/
theorem test_witness_BundleRegisters_tests :
    (let s := (bundleAt running 5 bsTest).setF (lnPg 5 8) 0x40 1 0 3
     s.locked (bndPg 5) = false ∧ s.f (bndPg 5) 0x40 8 8 = 1 ∧ s.on (bndPg 5) = true ∧ s.lnTesting 5 = true ∧
      s.sendsPrbs 5 8 = false) ∧
    ((bundleAt running 5 bsTest).setF (lnPg 5 8) 0x40 6 6 1).sendsPrbs 5 8 = true ∧
    (bundleAt running 5 bsLaneTrain).sendsPrbs 5 0 = true ∧
    (let s := (running.setSt cycPg stOn).setF (bndPg 5) 0x44 5 5 1
     s.cycOff = false ∧ s.f (bndPg 5) 0x44 5 5 = 1 ∧ s.bup 5 = false) := by decide +kernel
theorem test_witness_Gauges_inForce :
    (∀ o, o ∈ [0x70, 0x7c] → (gauged 15 g0).gin 15 o = (gauged 15 g0).reg (gauPg 15) o) ∧
    (gauged 15 g0).gin64 15 0x74 = (gauged 15 g0).reg64 (gauPg 15) 0x74 ∧ ((gauged 15 g0).gauge 15).stale = [] ∧
    (unit15 0 10 20 0 { g0 with value := 10 }).ginF 15 0xc0 0 0 = 1 ∧
    (unit15 0 10 20 0 { g0 with value := 10 }).on (gauPg ((unit15 0 10 20 0 { g0 with value := 10 }).ginF 15 0xc0 7 4)) = true ∧
    (unit15 0 10 20 0 { g0 with value := 10 }).evtWidth 15 = 0 := by decide +kernel
/-- A unit of H with every response buffer in quarantine. -/
def busy (n : Nat) (s : State) : State :=
  s.withNet ((List.range 32).map (fun t => ⟨n, t, 1, 13, 0, 1, [], 0, .host, true, 0, 0, 0, false, true, .lost, 0⟩))
theorem test_witness_buffers : running.bufferFree 9 = true ∧ running.bufferFree 10 = true ∧ running.bufferFree 15 = true ∧
    (busy 9 running).bufferFree 9 = false ∧ (busy 15 running).bufferFree 15 = false ∧ (running.freeTag 9).isSome = true ∧
    (∀ n ∈ [9, 10, 11, 15], running.request n 31 = none) := by decide +kernel
theorem test_witness_TraceCommands_more :
    (let s := running.setF (trcPg 7) 0x40 0 0 1
     s.f (trcPg 7) 0x40 0 0 = 1 ∧ (s.tr 7).running = false) ∧
    (let s := (traced { t0 with sinceSync := 4096 }).setF (trcPg 7) 0x40 0 0 1
     (s.tr 7).running = true ∧ s.f (trcPg 7) 0x40 0 0 = 1) ∧
    (let s := ((cored 0 (fun k => { k with mie := 8 })).setF (ccPg 7) 0x50 0 0 1).setCcSts 7 0 true
     (s.tr 7).running = false ∧ s.coreLive 7 = true) := by decide +kernel

/-- The device with the host interface as given. -/
def hosted (h : HostIf) : State := running.withHst h
theorem test_witness_HostLink_requests :
    (ringsOn.aspmL1 = false ∧ ringsOn.refRuns = true ∧ ringsOn.hst.waits = [] ∧ ringsOn.bufferFree 9 = true ∧
      ringsOn.aheadOf 9 1 = none ∧ ringsOn.aheadOf 9 2 = none ∧ (ringsOn.freeTag 9).isSome = true ∧
      ringsOn.route 9 (nodeOfBar0 0x24) = some 0 ∧ (ringsOn.route (nodeOfBar0 0x24) 9).isSome = true ∧
      ringsOn.inD0 = true ∧ ringsOn.memSpace = true ∧ ringsOn.pwr.off = false) ∧
    (let s := running
     s.memSpace = false ∧ s.aspmL1 = false ∧ s.refRuns = true ∧ s.hst.flr = false ∧ s.hst.linkReset = false ∧
      (s.cfg aerSeverity).getLsbD 20 = false ∧
      ((s.setCfg aerSeverity 0x100000).cfg aerSeverity).getLsbD 20 = true) ∧
    (running.maxPayload = 128 ∧ 128 < (List.replicate 129 (0 : BitVec 8)).length ∧
      (running.setCfg aerCtl 0x100).ecrcChecks = true) ∧
    (busy 9 running).bufferFree 9 = false ∧ (busy 9 running).aspmL1 = false := by decide +kernel
theorem test_witness_HostLink_asleep :
    (let s := opened.setF pwrPg 0x44 2 0 4
     s.aoServes = true ∧ s.pwr.off = false ∧ 3 ≤ s.pst ∧ s.inD0 = true ∧ s.memSpace = true ∧
       bar0At 0x24 = .page hstPg 0x24 ∧
      servedAsleep pwrPg 0x44 = true ∧ servedAsleep hstPg 0x24 = false) ∧
    (let s := (State.reset.setF drwPg 0x50 3 0 2)
     s.aoServes = true ∧ s.refRuns = false) := by decide +kernel
theorem test_witness_HostLink_config :
    (hosted { running.hst with linkReset := true }).hst.linkReset = true ∧
    ((hosted { running.hst with flr := true, wasDown := true }).hst.flr = true ∧
      (hosted { running.hst with flr := true, wasDown := true }).hst.linkReset = false ∧
      (hosted { running.hst with flr := true, wasDown := true }).hst.wasDown = true) ∧
    (let s := running.withPwr { running.pwr with fromOff := true }
     s.pwr.fromOff = true ∧ s.hst.flr = false ∧ s.hst.linkReset = false) ∧
    (0xffc % 4 = 0 ∧ 0xffc < 4096 ∧ 0xffc ≠ cfgDev ∧ (0 : BitVec 32).getLsbD 15 = false) ∧
    (linkRateOk (1 : BitVec 4).toNat = true ∧ linkWidthOk (1 : BitVec 5).toNat = true ∧
      linkRateOk (0 : BitVec 4).toNat = false) ∧ running.pwr.fromOff = false ∧
    State.reset.refRuns = false ∧ State.reset.pwr.off = false := by decide +kernel
theorem test_witness_PowerStates_more :
    (State.reset.f drwPg 0x44 1 1 = 0 ∧ (State.reset.setF drwPg 0x44 1 1 1).f drwPg 0x44 1 1 = 1 ∧
      (State.reset.withPwr { State.reset.pwr with mapBad := true, cause := 5 }).pwr.mapBad = true ∧ 1 < 5 ∧
      State.reset.pwr.off = false) ∧
    (let s := (State.reset.setF drwPg 0x50 3 0 2).withPwr { State.reset.pwr with target := some 1 }
     s.pwr.off = false ∧ s.pwr.starting = true ∧ s.f drwPg 0x50 3 0 = 2 ∧ s.pwr.target = some 1) ∧
    (∀ j ∈ [true, false],
      let s := (powered 4 none none).withPwr { running.pwr with cause := 5, justForced := j }
      s.pwr.off = false ∧ s.f pwrPg 0x44 2 0 = 4 ∧ s.pwr.starting = false ∧ s.pwr.justForced = j ∧ 4 < s.pwr.cause) ∧
    (let s := powered 3 (some 2) none
     s.pwr.target = some 2 ∧ s.f pwrPg 0x44 2 0 = 3 ∧ s.f pwrPg 0x44 6 4 = 0 ∧ s.pwr.wake = none) ∧
    (let s := ((powered 1 (some 2) none).setF pwrPg 0x50 2 2 1)
     s.pwr.off = false ∧ s.pwr.starting = false ∧ s.f pwrPg 0x44 2 0 = 1 ∧ s.pwr.target = some 2 ∧ s.pwr.wake = none ∧
      s.f pwrPg 0x50 2 2 = 1 ∧ s.f (bndPg 5) 0x40 8 8 = 1) ∧
    (powered 4 none (some 5)).cool = false ∧
    (let s := (powered 4 none (some 5)).withPwr { running.pwr with wake := some 5, cause := 2, temps := List.replicate 7 (some 0) }
     s.cool = true ∧ s.pwr.cause = 2) := by decide +kernel
theorem test_witness_Supervision_more :
    (let s := State.reset
     s.pwr.off = false ∧ s.pwr.starting = true ∧ ∀ i, i < 7 →
       (tripping (List.replicate 7 (some 0))).getD i false = false) ∧
    (let s := State.reset.withPwr { State.reset.pwr with tripped := List.replicate 7 true }
     s.pwr.starting = true ∧ (tripping (List.replicate 7 (some 0x7ff))).getD 6 false = true ∧
      s.pwr.tripped.getD 6 false = true) ∧
    (let s := (powered 4 none none).withPwr { running.pwr with cause := 5, justForced := true, tripped := List.replicate 7 true }
     s.f pwrPg 0x44 2 0 = 4 ∧ s.pwr.starting = false ∧ s.pwr.off = false ∧ s.pwr.justForced = true ∧ 2 < s.pwr.cause ∧
      (tripping (List.replicate 7 (some 0x7ff))).getD 6 false = true ∧ s.pwr.tripped.getD 6 false = true) ∧
    running.pwr.justForced = false ∧ (powered 4 none none).f pwrPg 0x44 2 0 = 4 ∧ running.follows = false ∧
    (1600 : BitVec 11).toNat ≠ (running.setF pwrPg 0x48 10 0 800).f pwrPg 0x48 10 0 := by decide +kernel
theorem test_witness_DrawerAndRepair_more :
    (State.reset.pwr.off = false ∧ State.reset.pwr.starting = true) ∧
    (let s := powered 3 none none
     s.pwr.off = false ∧ s.pwr.starting = false ∧ 3 ≤ s.f pwrPg 0x44 2 0) ∧ running.drw.fresh = false ∧
    (let s := running.withDrw { running.drw with buffer := some [], fresh := true }
     s.drw.fresh = true ∧ s.drw.buffer = some []) := by decide +kernel
/-- Vector 5 with its entry, its condition about to rise; and a TRIG_OUT pin whose signal has changed. -/
def risen (ctl : Word) : State :=
  let h := { running.hst with fnMask := false, busMaster := true, table := [(5, ⟨0xfee00000, 7, ctl⟩)] }
  ((running.withHst h).setReg hstPg 0x48 1).setReg hstPg 0x184 0x80000005
theorem test_witness_WhatFollows_changes :
    (risen 0).vectorConds.getLsbD 5 = true ∧ (risen 0).hst.conds.getLsbD 5 = false ∧ (risen 0).msixOpen 5 = true ∧
    (risen 1).vectorConds.getLsbD 5 = true ∧ (risen 1).msixOpen 5 = false ∧
    (let s := (running.setSt (pinPg 0) stOn).setF (pinPg 0) 0x44 7 0 0x24
     let s := s.withPins { s.pins with trig := 0 }
     s.trigSignals.getLsbD (s.pinFn 0 / 16) ≠ s.pins.trig.getLsbD (s.pinFn 0 / 16) ∧ s.pinFn 0 % 16 = 4 ∧
      s.pinFn 0 / 16 < 3) := by decide +kernel
/-! ### Further clauses: pages, data units, Gauges, cycle records, the dispatcher, the host link, power -/

theorem test_witness_EnableWrite_panels :
    (let s := (running.setF (pnlPg 3 131) 0x40 31 31 1).setF (pnlPg 3 131) 8 0 0 1
     s.f (pnlPg 3 131) 0x40 31 31 = 1 ∧ s.locked (pnlPg 3 131) = false ∧ s.en (pnlPg 3 131) = true) ∧
    (let s := running.setF clpPg 8 0 0 1
     s.en clpPg = !false ∧ s.st clpPg = stOff ∧ s.locked clpPg = false) ∧
    (running.setSt clpPg stOn).en clpPg = !true := by decide +kernel
/-- A vote that this device's own K does not count, one hop on. -/
theorem test_witness_Votes_beyond :
    let s := bundleAt (voted 112 0) 5 bsUp
    let s := (s.setF (bndPg 5) 0x44 11 8 8).setF clpPg 0x40 9 0 0
    s.bup 5 = true ∧ s.heardLoad 5 ((1064 : BitVec 64).toNat + 48 * 0) = false ∧ s.relays ≤ 0 ∧
      s.cyc.csc = (1064 : BitVec 64).toNat + 48 * (0 + 1) ∧ s.stepAhead s.cyc.csc = true ∧
      (∀ r ∈ s.cyc.rounds, s.voteKnown r = false) ∧ s.cycOn = true ∧ fld (4104 : BitVec 50).toNat 12 12 = 1 ∧
      fld (4104 : BitVec 50).toNat 25 13 ≠ s.nLen ∧ s.relays = 0 := by decide +kernel
theorem test_witness_DataUnits_again :
    let x := { BundleTx.empty with next := 5, resume := some 5, resend := [.unit (.state true) 0,
      .unit (.state false) 0] }
    let s := up5tx x
    s.bup 5 = true ∧ (s.bundle 5).rx.due = true ∧
      (s.bundle 5).tx.kept.length < ((s.bundle 5).tx.next + 2 ^ 24 - (6 : BitVec 24).toNat) % 2 ^ 24 ∧
      (s.bundle 5).tx.resume ≠ none ∧
        ((6 : BitVec 24).toNat + 2 ^ 24 - (s.bundle 5).tx.next) % 2 ^ 24 ≤ (s.bundle 5).tx.resend.length ∧
      (s.bundle 5).tx.resend.length < ((8 : BitVec 24).toNat + 2 ^ 24 - (s.bundle 5).tx.next) % 2 ^ 24 := by decide +kernel
theorem test_witness_DataUnits_load :
    let s := up5.setBundle 5 { Bundle.empty with partnerOff := true, told := [(0, true)] }
    s.heardLoad 5 (s.cyc.csc - 32) = true ∧ s.bup 5 = true ∧ (s.bundle 5).rx.due = true ∧
      up5.heardLoad 5 (up5.cyc.csc - 32) = false := by decide +kernel
theorem test_witness_GaugeTick_chosen :
    (∀ c ∈ [1, 2], ((gauged 15 { g0 with chosen := true }).setF (gauPg 15) 0x40 1 0 c).f (gauPg 15) 0x40 1 0 = c) ∧
    (let s := (gauged 15 { g0 with chosen := true, stale := [(0x40, some 1)] }).setF (gauPg 15) 0x40 1 0 0
     (s.gauge 15).chosen = true ∧ s.f (gauPg 15) 0x40 1 0 = 0 ∧ s.gauSrc 15 ≠ 0 ∧ s.refRuns = true) ∧
    (let s := (gauged 15 g0).setF (gauPg 15) 0x40 1 0 1
     let s := s.withPins { s.pins with edl3 := 1, edl4 := 0 }
     s.on (gauPg 15) = true ∧ s.f (gauPg 15) 0x40 1 0 = 1 ∧ s.f (gauPg 15) 0x40 8 4 = 0 ∧
       s.pins.edl3.getLsbD 0 ≠ s.pins.edl4.getLsbD 0 ∧ s.pins.edl3.getLsbD 0 ≠ (s.f (gauPg 15) 0x40 9 9 == 1)) ∧
    running.pins.edl3.getLsbD 0 = running.pins.edl4.getLsbD 0 := by decide +kernel
theorem test_witness_GaugeSources_write : (2 : BitVec 2).toNat ≠ 0 ∧ (3 : BitVec 2) = 3 ∧
  running.locked (gauPg 1) = false ∧
    running.serves .host := by unfold State.serves; decide +kernel
/-- Measurement unit 7 armed, its mode and what it has seen, at a record whose probe bit 0 is b. -/
def measured (mode b : Nat) (m : Meas) : State :=
  let s := ((atQ.setSt (measPg 7) stOn).setReg (measPg 7) 0x40 (BitVec.ofNat 32 (1 + 2 * mode))).setMeas 7 m
  let s := (s.setReg (pnlPg 0 0) 0x40 0x80000000).withLdr { s.ldr with counts := [1, 0, 0, 0] }
  recAt (s.withExports [(0, (b, 0, 0))])
theorem test_witness_CycleRecords_measures :
    ∀ mode ∈ [0, 1, 2, 3, 4], ∀ b ∈ [0, 1], ∀ prev ∈ [true, false], ∀ rise ∈ [none, some (5, 6)],
      let s := measured mode b ⟨some prev, rise, 0⟩
      (∀ j, j < 8 → j ≠ 7 → s.on (measPg j) = false) ∧ s.on trgPg = false ∧ s.on capPg = false ∧
        s.on (measPg 7) = true ∧ s.f (measPg 7) 0x40 0 0 = 1 ∧ s.f (measPg 7) 0x40 3 1 = mode ∧
        (s.measUnit 7).prev = some prev ∧ (s.measUnit 7).rise = rise ∧
        probeGroup (if s.f (measPg 7) 0x40 4 4 = 1 then (assemble s 9 true).trig else (assemble s 9 true).probe)
          (s.f (measPg 7) 0x40 13 8) = b := by decide +kernel
/-- The averager ON with blocks of 2^k records, a sum of 32 on die 0, and the block before as given. -/
def averaged (k dir thr pg : Nat) (prev : Option (Nat × Nat)) : State :=
  let s := (atQ.setSt trgPg stOn).setReg trgPg 0x800 (BitVec.ofNat 32 (k + 256 * dir + 2 ^ 16))
  let s := (s.setReg trgPg 0x810 (BitVec.ofNat 32 thr)).withLdr { s.ldr with counts := [pg, 0, 0, 0] }
  recAt (s.withTrg { s.trg with sums := [32, 0, 0, 0], prevBlock := [prev, none, none, none] })
theorem test_witness_CycleRecords_activity :
    (let s := averaged 1 0 0 1 none
     s.on trgPg = true ∧ s.f trgPg 0x40 0 0 = 0 ∧ s.f trgPg 0x800 16 16 = 1 ∧ s.on capPg = false ∧
      s.trg.blockN + 1 < 2 ^ s.f trgPg 0x800 4 0) ∧
    (∀ e ∈ [(1, 512, 0), (2, 1500, 2000)],
      let s := averaged 0 e.1 e.2.1 1 (some (e.2.2, 7))
      2 ^ s.f trgPg 0x800 4 0 ≤ s.trg.blockN + 1 ∧ s.ldr.counts.getD 0 0 = 1 ∧ s.trg.prevBlock.length = 4 ∧
        s.trg.prevBlock.getD 0 none = some (e.2.2, 7) ∧ s.f trgPg 0x810 23 0 = e.2.1 ∧ s.f trgPg 0x800 9 8 = e.1 ∧
        (s.trg.sums.getD 0 0 + (assemble s 9 true).toggles.getD 0 0) * 32 / 1 = 1024) ∧
    (averaged 0 1 512 0 none).ldr.counts.getD 0 0 = 0 := by decide +kernel
/-- An item for list 63, with its flow (31 for none), and its delay on delay list 3. -/
def itemOf (flow delay : Nat) : WorkItem := ⟨1, 2, BitVec.ofNat 32 (63 + 256 * flow + 65536 * delay), 3⟩
/-- Delay list 3 with its items, counting or draining; its Gauge stands at its next tick time. -/
def delaying (en drain : Nat) (q : List (Nat × WorkItem)) : State :=
  let s := (wdOn.setF wdPg 0x460 8 8 en).setF wdPg 0x460 9 9 drain
  (s.setSt (gauPg 0) stOn).withWd { s.wd with delays := [(3, q)] }
/-- No list takes an item. -/
def noRoom (s : State) : State := s.setF wdPg 0x54 12 0 0
theorem test_witness_WorkDispatch_delays :
    (∀ q ∈ [[], [(4, itemOf 31 0)], [(9, itemOf 31 0)]],
      let s := ((delaying 1 0 q).setReg wdPg 0x470 2).withWd { (delaying 1 0 q).wd with slots := [(7,
        some (itemOf 31 5))] }
      s.mayAct (placeOf (.slot 7)) = true ∧ s.resultSlot 7 = some (itemOf 31 5) ∧ s.postBad (itemOf 31 5) = false ∧
        s.postRoom (itemOf 31 5) = true ∧ (itemOf 31 5).delay = 5 ∧ (itemOf 31 5).dlist = 3 ∧ s.wdDelay 3 = q ∧
        (noRoom s).postRoom (itemOf 31 5) = false ∧ (noRoom s).resultSlot 7 = some (itemOf 31 5)) ∧
    (wdOn.withWd { wdOn.wd with slots := [(7, some (itemOf 31 5))] }).postBad (itemOf 31 5) = true ∧
    (∀ flow ∈ [15, 31],
      let s := delaying 1 0 [(1, itemOf flow 0)]
      s.mayAct 6 = true ∧ s.dlyEn 3 = true ∧ s.draining 3 = false ∧ s.wdDelay 3 = (1, itemOf flow 0) :: [] ∧
        s.gauOn (s.f wdPg 0x460 3 0) = true ∧ reached64 (s.gval (s.f wdPg 0x460 3 0)) (s.nextX 3) = true ∧
        reached32 (s.reg wdPg 0x470 + 1).toNat 1 = true ∧ reached32 (s.reg wdPg 0x470 + 1).toNat 2 = false ∧
        s.poolFree ≠ 0 ∧ s.listFull 63 = false ∧ (flow < 16 → s.flowOut flow < 64) ∧ (noRoom s).poolFree = 0 ∧
        s.wd.waits.contains (32 + 3) = false) ∧
    (∀ q ∈ [[], [(1, itemOf 31 0)], [(1, itemOf 31 0), (2, itemOf 31 0)]],
      let s := delaying 0 1 q
      s.mayAct 7 = true ∧ s.draining 3 = true ∧ s.wdDelay 3 = q ∧ s.poolFree ≠ 0 ∧ (noRoom s).poolFree = 0) ∧
    ((delaying 1 1 [(1, itemOf 31 0)]).dlyEn 3 = true ∧ (delaying 1 1 [(1, itemOf 31 0)]).draining 3 = true) := by
  decide +kernel
theorem test_witness_WorkDispatch_flows :
    (∀ i ∈ [itemOf 15 0, itemOf 31 5],
      let s := wdOn.withWd { wdOn.wd with reorder := [(15 * 65536, some (7, some i))] }
      s.mayAct 23 = true ∧ Tab.get (fun _ => none) s.wd.reorder (15 * 65536 + s.flowNext 15) = some (7, some i) ∧
        (s.postBad i = true ↔ i.delay = 5) ∧ (i.delay = 0 → s.postRoom i = true ∧ (noRoom s).postRoom i = false ∧
          i.flow = 15) ∧
        s.wd.waits.contains (16 + 15) = false) ∧
    (let s := wdOn.withWd { wdOn.wd with reorder := [(15 * 65536, some (7, none))] }
     Tab.get (fun _ => none) s.wd.reorder (15 * 65536 + s.flowNext 15) = some (7, none)) ∧
    (∀ e ∈ [(63 + 31 * 256, false), (128, true)],
      let s := (wdOn.setCcSts 7 1 true).setReg (ccPg 7) 0x98 (31 * 256)
      let s := s.setReg (ccPg 7) 0xb8 (BitVec.ofNat 32 e.1)
      s.ccSts 7 1 = true ∧ 16 ≤ (s.itemAt (ccPg 7) 0x90).flow ∧ s.on wdPg = true ∧
        s.postBad (s.itemAt (ccPg 7) 0xb0) = e.2) ∧
    running.ccSts 7 1 = false := by decide +kernel
theorem test_witness_RingRequests_urgency :
    (∀ u ∈ [(5, 6), (6, 5), (7, 7)], ∀ st ∈ [RingStage.sent, .answered 0 0 .clean []],
      let r := { req 1 8 0 4 [] st false with urg := u.1, backUrg := u.2 }
      (ringed r).request 7 3 = some r ∧ r.stage ≠ .lost ∧
        ∀ answer ∈ [true, false], r.urgency answer = if st = .sent then u.1 else u.2) ∧
    (∀ n ∈ [9, 10, 11, 15], running.request n 31 = none) := by decide +kernel
/-- The host's last free response buffer, on a device with its rings ON. -/
def lastBuffer : State :=
  ringsOn.withNet ((busy 9 ringsOn).net.drop 1)
theorem test_witness_HostLink_lines :
    let t : HostTrip := ⟨.parity 0 0, .none, .none⟩
    lastBuffer.hst.waits = [] ∧ lastBuffer.bufferFree 9 = true ∧ lastBuffer.aspmL1 = false ∧
    (bar2ReadRun (128 / 64 + 2) 0 128 t (0, [], lastBuffer)).1.2 = 64 ∧
    (bar2WriteRun (65 / 64 + 2) 0 (List.replicate 65 0) t (0, lastBuffer)).1.2 = [0] ∧ 65 ≤ lastBuffer.maxPayload := by
  decide +kernel
theorem test_witness_HostLink_faults : opened.aspmL1 = false ∧ opened.inD0 = true ∧
    (∀ e ∈ [(TlpFault.receiver, 0), (TlpFault.badTlp, 6), (TlpFault.badDllp, 7), (TlpFault.replayRollover, 8),
      (TlpFault.replayTimeout, 12)], (⟨.none, .none, e.1⟩ : HostTrip).link = e.1) ∧
    (⟨.none, .none, .dlProtocol⟩ : HostTrip).link = .dlProtocol ∧ State.reset.pwr.starting = true ∧
    State.reset.pwr.off = false := by decide +kernel
theorem test_witness_HostLink_more :
    cfgPm % 4 = 0 ∧ cfgPm < 4096 ∧ cfgPm ≠ cfgDev ∧ running.pwr.fromOff = false ∧
    (hosted { running.hst with conds := 32 }).serves .host ∧
      (hosted { running.hst with conds := 32 }).vectorConds.getLsbD 5 = false ∧
    (hosted { running.hst with conds := 32 }).hst.conds.getLsbD 5 = true := by unfold State.serves; decide +kernel
theorem test_witness_PowerStates_wakes :
    (let s := powered 1 (some 4) (some 4)
     s.f pwrPg 0x44 6 4 = 0 ∧ s.pwr.wake = some 4 ∧ s.pwr.target = some 4) ∧
    (∀ n ∈ [0, 2], ∀ c ∈ [1, 2, 4],
      let s := (powered 1 (some 2) (some c)).setF pwrPg 0x44 6 4 n
      s.pwr.off = false ∧ s.pwr.starting = false ∧ s.pwr.target = some 2 ∧ s.f pwrPg 0x44 2 0 = 1 ∧ s.pwr.wake = some c ∧
        s.f pwrPg 0x44 6 4 = n) ∧
    ((powered 1 (some 2) (some 1)).pwr.target ≠ none ∧ (powered 1 (some 2) (some 1)).serves (.core 7) ∧
      (powered 1 (some 2) (some 1)).serves .host) := by unfold State.serves; decide +kernel
theorem test_witness_TestPort_pads : running.tap.bypass = false ∧ running.on (pinPg 0) = false ∧
    (let s := (running.setSt (pinPg 0) stOn).withTap ⟨0, 0, false, false⟩
     s.tap.ir = 0 ∧ s.on (pinPg 0) = true ∧ s.pinFn 0 % 16 = 0 ∧ s.pwr.off = false) := by decide +kernel
theorem test_witness_WhatFollows_rearmed :
    let s := (risen 0).withHst { (risen 0).hst with conds := 32, rearms := 32 }
    s.vectorConds.getLsbD 5 = true ∧ s.hst.conds.getLsbD 5 = true ∧ s.hst.rearms.getLsbD 5 = true ∧ s.msixOpen 5 = true ∧
      ((risen 0).withHst { (risen 0).hst with conds := 32 }).hst.rearms.getLsbD 5 = false := by decide +kernel
/-- A step with a command waiting, on memories in canonical form. -/
theorem lasts_itself (s : State) : Lasts { s.lasting with pending := s.pending } s.lasting :=
  ⟨rfl, rfl, rfl, fun _ _ h => h, fun _ h => h, fun h => h⟩
theorem test_witness_WhatLasts_step : Lasts { (running.withPending [.idcode]).lasting with
      pending := (running.withPending [.idcode]).pending } (running.withPending [.idcode]).lasting :=
  lasts_itself _
theorem test_witness_WhatLasts_memories : (running.withPending [.idcode]).memories.ordered = true ∧
    (match step (running.withPending [.idcode]) with
      | .next t => some t.pending
      | _ => none) = some [] := by decide +kernel

/-! ### Single commands and operations, with results from the spec's worked examples and words -/

/-- The words of the worked example of the up-counter: opcode, KEEP, truth table and operands of Dowel 0 at step 0 and of
Dowel 16 at step 1. -/
theorem test_counter_words :
    (let w : BitVec 80 := 0x234788C447100C440000
     wOp w = 2 ∧ wKeep w = false ∧ wInv w = false ∧ wTt w = 0xD1E2 ∧ wOpd w = 0x3111 ∧ wOpc w = 0x3100 ∧ wOpb w = 0x3110 ∧
      wOpa w = 0) ∧
    (let w : BitVec 80 := 0x7AAAA80003000C001000
     wOp w = 7 ∧ wKeep w = true ∧ wTt w = 0xAAAA ∧ wOpd w = 0 ∧ wOpc w = 0x3000 ∧ wOpb w = 0x3000 ∧ wOpa w = 0x1000) := by
  decide +kernel
/-- The carry of the counter is maj(Q, LOAD, cin), and its table gives D where LOAD is 1 and Q xor cin where it is 0. -/
theorem test_counter_table : ∀ q l d c : Bool,
    Nat.testBit 0xD1E2 (bit q + 2 * bit l + 4 * bit d + 8 * bit c) = (if l then d else xor q c) := by decide
/-- EVAL with a table of all ones writes 1 into slot s of its Dowel and shows it as the step's result (R67, R76). -/
theorem test_eval_writes_slot :
    seen (.eval ⟨0, 0, 63, 5⟩) (dowelAt 63 5 (word 1 0xffff 0))
      (fun t => (Tab.get (fun _ => false) (t.panel 0 0).vs (63 * 4096 + 5),
        (Tab.get (zeroAt 64) (t.panel 0 0).res 5).getLsbD 63)) = some (true, true) := by decide +kernel
/-- PINO of the counter's second step contributes to output data bit 3 and, with KEEP = 1, writes no slot (R81). -/
theorem test_pino_keeps :
    seen (.pino ⟨0, 0, 16, 5⟩) (dowelAt 16 5 (BitVec.ofNat 80 (7 * 2 ^ 76 + 2 ^ 75 + 0xffff * 2 ^ 58 + 3 * 2 ^ 42)))
      (fun t => Tab.get (fun _ => false) (t.panel 0 0).vs (16 * 4096 + 5)) = some false := by decide +kernel
/-- The steps of the worked example of a late response: N = 3,584, S = 192, PROP = 160. -/
theorem test_steps :
    let s := (running.setReg cycPg 0x40 (BitVec.ofNat 32 (3584 + 192 * 2 ^ 16))).setF clpPg 0x40 9 0 160
    s.tStep = 3776 ∧ s.dStep = 3616 ∧ s.cStep = 3760 ∧ s.qStep = 3760 ∧ s.relays = 3 := by decide +kernel
/-- The worked example of a target's crystal: 16,384 edges of 64 ns in a window of 2^20 ticks give exactly 1 ns a tick. -/
theorem test_tclk_increment :
    seen (.tclkWindowEnd 2) (((((running.setSt (gauPg 2) stOn).setReg (gauPg 2) 0x40 0x72).setReg64 (gauPg 2) 0x74
        0x4000000000).setF (gauPg 2) 0x7c 4 0 20).setGauge 2 { Gauge.empty with closed := some (16384, 0) })
      (fun t => t.reg64 (gauPg 2) 0x58) = some 0x100000000 := by decide +kernel
/-- A tick of a Gauge whose increment is 2.5 units leaves the half in the residue (R334). -/
theorem test_gauge_residue :
    seen (.referenceTick ⟨0, 0⟩) ((running.setSt (gauPg 3) stOn).setReg64 (gauPg 3) 0x50 0x28000)
      (fun t => ((t.gauge 3).value, (t.gauge 3).resid)) = some (2, 0x8000) := by decide +kernel
/-- AES-256 on the example vector of FIPS 197, the algorithm that the spec names. -/
theorem test_aes256 : aesEnc 0x000102030405060708090a0b0c0d0e0f101112131415161718191a1b1c1d1e1f
      [0x00, 0x11, 0x22, 0x33, 0x44, 0x55, 0x66, 0x77, 0x88, 0x99, 0xaa, 0xbb, 0xcc, 0xdd, 0xee, 0xff] =
    [0x8e, 0xa2, 0xb7, 0xca, 0x51, 0x67, 0x45, 0xbf, 0xea, 0xfc, 0x49, 0x90, 0x4b, 0x49, 0x60, 0x89] := by decide +kernel
/-- The region of the worked example of a flow table: region 3 of stack 0, VNR_RGN_CFG 0x00020323. -/
theorem test_region_fields :
    let s := ((running.setReg (vnrPg 0) 0x160 0x00020323).setReg (vnrPg 0) 0x164 0x10000).setReg (vnrPg 0) 0x168 0x1000
    s.region 0 3 = ⟨true, 1, 2, 3, 2, 0x100000000, 0x10000000, (s.region 0 3).meta_, (s.region 0 3).gen⟩ := by
  decide +kernel
/-- PG_CTL.EN of an OFF page begins its start sequence (R40). -/
theorem test_en_starts : seen (.pgCtlEn .host clpPg true) running (fun t => (t.st clpPg == stOff, t.en clpPg)) =
    some (false, true) := by decide +kernel
/-- The events of one reference-clock period are recorded by BIT, then by INFO, in whichever order they come; a third is
lost, and an event of a later period takes no capture's place (R43). -/
theorem test_captures :
    let s := raise (raise (raise running clpPg 9 3) clpPg 9 1) clpPg 8 2
    let t := raise ((raise running clpPg 9 3).withRecent []) clpPg 8 2
    s.reg clpPg 0x18 = 0x88000002 ∧ s.reg clpPg 0x1c = 0x89000001 ∧ s.f clpPg 0x10 3 3 = 1 ∧
      t.reg clpPg 0x18 = 0x89000003 ∧ t.reg clpPg 0x1c = 0x88000002 := by decide +kernel
/-- A packet's units bring the packet again (R302, R308). -/
theorem test_packet_units :
    ∀ p ∈ [Packet.retry 0x123456, .lanemap 3 8 0xabcd, .time 7 0x1000 6 0x2000, .state true, .chain (.fail 63 13 17),
        .chain (.start 5 0xdeadbeef), .ident ⟨2, 9, 4, true, 77, true, 5⟩, .mesh 11 0x0123456789abcdef,
        .topo ⟨2, 3, [none, some (9, 5), none, none, none, some (7, 0)]⟩],
      Packet.ofContent p.code (contentOf ((List.range p.units).map p.unit)) 5 = some p ∧ ptypeUnits p.code = p.units := by
  decide +kernel
/-- A vote message survives its two frame units and its spare-lane block (R305, R306). -/
theorem test_vote_copies :
    let m : BitVec 50 := 0x2abcdef012345
    spareCopy (voteBlock m) = some m ∧
    frameCopy (up5rx { BundleRx.empty with votes := [(1104, voteUnit2 m), (1103, voteUnit1 m)] }) 5 1064 0 = some m := by
  decide +kernel
/-- The decoder corrects a symbol of a frame, and two (R299). -/
theorem test_frame_correction :
    rsDecode (frame40 5 ^^^ 0x1ff * 2 ^ 90) = (rsDecode (frame40 5)).map (fun e => (1, e.2)) ∧
    rsDecode (frame40 5 ^^^ 2 ^ 90 ^^^ 2 ^ 180) = (rsDecode (frame40 5)).map (fun e => (2, e.2)) := by decide +kernel
/-- The level of a UART line at 8 data bits, even parity and two stop bits: 0x41 (R458). -/
theorem test_uart_bits : uartBits 0x50000 0x41 =
    [false, true, false, false, false, false, false, true, false, false, true, true] := by decide
/-- Dowel events of one period are recorded by step, then by Dowel (R107). -/
theorem test_dowel_captures :
    let s := raise (raise running (pnlPg 0 3) 9 (dowelInfo 0 5 7)) (pnlPg 0 3) 9 (dowelInfo 1 3 7)
    s.f (pnlPg 0 3) 0x18 17 12 = 3 ∧ s.f (pnlPg 0 3) 0x1c 17 12 = 5 := by decide +kernel
/-- A write of SRST that carries a 1 in a reserved bit resets the page, and then records RSVD (R8, R548). -/
theorem test_srst_rsvd : seen (.registerWrite .host trgPg 8 15 0x82) ((running.setReg trgPg 0x50 5).setSt trgPg stOff)
    (fun t => (t.reg trgPg 0x50, t.f trgPg 0x10 0 0)) = some (0, 1) := by decide +kernel
/-- A broadcast write of PG_STICKY_EN reaches the cores of the group only (R53, R54). -/
theorem test_broadcast :
    seen (.broadcastWrite .host (pageCode .cc) 0x14 15 2) ((running.setReg hstPg 0x40 2).setReg ⟨.cc, 6⟩ 0x24 2)
      (fun t => (t.reg ⟨.cc, 6⟩ 0x14, t.reg ⟨.cc, 5⟩ 0x14)) = some (running.reg ⟨.cc, 6⟩ 0x14 ||| 2, running.reg ⟨.cc,
        5⟩ 0x14) := by
  decide +kernel
/-- A core's ADDI x1, x0, 5 (the unprivileged instruction set that R408 names). -/
theorem test_core_addi : seen (.coreInstruction 7) (cored 0x00500093 id) (fun t => ((t.core 7).get 1, (t.core 7).pc)) =
    some (5, 0x104) := by decide +kernel
/-- ECALL in machine mode traps with cause 11 to mtvec, mepc at the instruction. -/
theorem test_core_ecall : seen (.coreInstruction 7) (cored 0x73 (fun k => { k with mtvec := 0x80 }))
    (fun t => ((t.core 7).pc, (t.core 7).mepc, (t.core 7).mcause)) = some (0x80, 0x100, 11) := by decide +kernel
/-- C.EBREAK (0x9002) is EBREAK: cause 3, mtval the address of the instruction. -/
theorem test_core_c_ebreak : seen (.coreInstruction 7) (cored 0x9002 (fun k => { k with mtvec := 0x80 }))
    (fun t => ((t.core 7).pc, (t.core 7).mepc, (t.core 7).mcause)) = some (0x80, 0x100, 3) := by decide +kernel
/-- A module that is down stays down while it trains again (R130). -/
theorem test_retraining_is_down : seen (.dieLinkRetrain .host 3) (running.setMod 3 3 .down)
    (fun t => (t.usable 3, t.modTrains 3 3, t.modDown 3 3)) = some (0, true, true) := by decide +kernel
/-- WFI with nothing pending sleeps; CC_STS.SLEEP reads 1 (R414). -/
theorem test_core_wfi : seen (.wfi 7) (cored 0x10500073 id) (fun t => t.ccSts 7 0) = some true := by decide +kernel
/-- BURN programs a slot once: the second finds it programmed and records KEY_FAIL (R217). -/
theorem test_burn :
    seen (.burn .host 3) (running.setF pwrPg 0x60 15 0 12000) (fun t => ((Tab.get (fun _ => none) t.ldr.fuses 3).isSome,
        (seen (.burn .host 3) t (fun u => u.f ldrPg 0x10 10 10)))) = some (true, some 1) := by decide +kernel
/-- A GPIO write puts its bits on the pads of pins whose function is GPIO, where the bank is ON (R456). -/
theorem test_gpio :
    seen (.gpioWrite .host 0 false 15 1) (((running.setSt (portPg 0) stOn).setF (portPg 0) 0x44 7 0 2).setReg (portPg 0) 0xe4 1) (fun t => t.pad 0) = some (padOf true true) := by decide +kernel
/-- IDCODE sends the 32 bits of R542's identification code. -/
theorem test_idcode : seen .idcode running (fun t => t.out.head?) = some (some (.tdo 32 0x172649cb)) := by decide +kernel
/-- The key of DRW_RST starts a warm reset; another value does not (R513). -/
theorem test_warm_reset : seen (.drwRst .host 0x57525354 ⟨[]⟩) running (fun t => t.pwr.starting) = some true ∧
    seen (.drwRst .host 0 ⟨[]⟩) running (fun t => (t.pwr.starting, t.f drwPg 0x10 2 2)) = some (false,
      1) := by decide +kernel
/-- An idle block, and one with a command waiting. -/
theorem test_step : step running = .next running ∧
    (match step (running.withPending [.bypass 0xff, .idcode]) with
      | .next t => t.pending
      | _ => []) = [.idcode] := ⟨rfl, by decide +kernel⟩

end Sys2Proof.Tests
end

/-! Broadcast accesses (R53-R56): which pages one addresses, the OR that a read returns, and a write of PG_STICKY_EN as
direct writes of one page after another. -/
namespace Sys2Proof.Machine

/-! ### The pages that a broadcast addresses -/

/-- Each number that a page type lists names a page of the device (R51, R52). -/
theorem pageExists_of_mem_instancesOf {ty : PageType} {i : Nat} (h : i ∈ instancesOf ty) :
    pageExists ⟨ty, i⟩ = true := by
  cases ty <;> simp [instancesOf, pageExists] at h ⊢ <;> omega

theorem mem_addressed (s : State) (rq : Requester) (ty : PageType) (p : PageId) :
    p ∈ s.addressed rq (pageCode ty) ↔ p.ty = ty ∧ p.inst ∈ instancesOf ty ∧
      BitVec.ofNat 16 (s.f p 0x24 15 0) &&& BitVec.ofNat 16 (s.groupSel rq) ≠ 0 := by
  unfold State.addressed
  simp only [pageOf_code, List.mem_filter, List.mem_map, bne_iff_ne]
  constructor
  · rintro ⟨⟨i, hi, rfl⟩, hg⟩
    exact ⟨rfl, hi, hg⟩
  · rintro ⟨rfl, hi, hg⟩
    exact ⟨⟨p.inst, hi, rfl⟩, hg⟩

/-! ### The broadcast read -/

theorem getLsbD_foldl_or {α : Type} (g : α → Word) (i : Nat) (l : List α) (z : Word) :
    (l.foldl (fun a p => a ||| g p) z).getLsbD i = true ↔ z.getLsbD i = true ∨ ∃ p ∈ l, (g p).getLsbD i = true := by
  induction l generalizing z with
  | nil => simp
  | cons a l ih =>
    simp only [List.foldl_cons, ih, BitVec.getLsbD_or, Bool.or_eq_true, List.mem_cons, or_and_right, exists_or,
      exists_eq_left, or_assoc]

theorem getLsbD_readAll (s : State) (rq : Requester) (code off i : Nat) :
    (s.readAll rq code off).getLsbD i = true ↔ ∃ p ∈ s.addressed rq code, (s.readReg p off).getLsbD i = true := by
  have hzero : (0 : Word).getLsbD i = false := BitVec.getLsbD_zero
  rw [State.readAll, getLsbD_foldl_or, hzero]
  simp only [Bool.false_eq_true, false_or]

/-! ### A direct write of PG_STICKY_EN -/

/-- What PG_STICKY_EN of a page holds after a full-width write of v: its reserved positions are those of PG_STICKY (R35). -/
def stickyEnTaken (p : PageId) (old v : Word) : Word := (old &&& ~~~stickyMask p.ty p.inst) ||| v

/-- The same write again changes nothing. -/
theorem stickyEnTaken_idem (p : PageId) (old v : Word) :
    stickyEnTaken p (stickyEnTaken p old v) v = stickyEnTaken p old v := by
  unfold stickyEnTaken
  ext i
  simp only [BitVec.getElem_or, BitVec.getElem_and]
  cases v[i] <;> simp

/-- A value with no bit outside a mask is not cut by the mask. -/
theorem and_of_and_not_eq_zero {v m : Word} (h : v &&& ~~~m = 0) : v &&& m = v := by
  ext i hi
  have hbit := congrArg (·[i]) h
  simp only [BitVec.getElem_and, BitVec.getElem_not] at hbit ⊢
  cases hm : m[i] <;> simp_all

theorem regWrite_stickyEn (s : State) (rq : Requester) (p : PageId) (v : Word) (hs : s.serves rq)
    (hp : pageExists p = true) (hv : v &&& ~~~stickyMask p.ty p.inst = 0) :
    regWrite s rq p 0x14 15 v = s.setReg p 0x14 (stickyEnTaken p (s.reg p 0x14) v) := by
  obtain ⟨-, -, -, -, -, -, hrw, hrwl, hdef, -⟩ := hdr_masks p
  have hx : (Write.mk rq (s.modeOf rq) (beMask 15) v).x = v := by
    rw [Write.x, be_all, BitVec.and_allOnes]
  have hev : s.writeEvents p 0x14 ⟨rq, s.modeOf rq, beMask 15, v⟩ = [] :=
    events_hdr s p 0x14 _ (by decide) (by rw [hx, hdef, hv]) hrwl (by decide)
  rw [regWrite_hdr s rq p 0x14 15 v none hs.1 hs.2 hp (by decide) (by decide),
    writeField_plain s p 0x14 _ none hev fun old new => hdr_fix s p 0x14 _ old new (by decide) (by decide),
    open_hdr s p 0x14 (by decide) hrwl, hrw, be_all, BitVec.and_allOnes, and_of_and_not_eq_zero hv]
  rfl

/-! ### One page after another -/

theorem writeReg_eq_regWrite (s : State) (rq : Requester) (p : PageId) (off : Nat) (be : BitVec 4) (v : Word)
    (f : Option StartupFindings) (hr : s.refRuns = true) :
    writeReg s rq p off be v (s.modeOf rq) f = regWrite s rq p off be v f := by
  simp only [regWrite, State.reaches, hr, Bool.true_or, if_true]

theorem regKey_eq_of_ty_eq {p q : PageId} {off : Nat} (ht : p.ty = q.ty) (h : regKey p off = regKey q off) : p = q := by
  obtain ⟨tp, ip⟩ := p
  obtain ⟨tq, iq⟩ := q
  obtain rfl : tp = tq := ht
  obtain rfl : ip = iq := by simp only [regKey] at h; omega
  rfl

/-- No write of PG_STICKY_EN stops the device: PWR_STS stands elsewhere. -/
theorem refRuns_setReg_stickyEn (s : State) (p : PageId) (v : Word) : (s.setReg p 0x14 v).refRuns = s.refRuns := by
  have hk : regKey (pg .pwr) 0x44 ≠ regKey p 0x14 := by unfold regKey; omega
  unfold State.refRuns
  rw [f_setReg_other s 2 0 v hk]
  rfl

/-- The state t is s, but that PG_STICKY_EN of each listed page has taken v. -/
def StickyEnWritten (v : Word) (l : List PageId) (s t : State) : Prop :=
  t = s.withRegs t.regs ∧ (∀ p ∈ l, t.reg p 0x14 = stickyEnTaken p (s.reg p 0x14) v) ∧
    ∀ q o, (∀ p ∈ l, regKey q o ≠ regKey p 0x14) → t.reg q o = s.reg q o

/-- The page a first, then pages of its type, a among them or not. -/
theorem StickyEnWritten.cons {v : Word} {a : PageId} {l : List PageId} {s t : State} (hl : ∀ p ∈ l, p.ty = a.ty)
    (h : StickyEnWritten v l (s.setReg a 0x14 (stickyEnTaken a (s.reg a 0x14) v)) t) :
    StickyEnWritten v (a :: l) s t := by
  obtain ⟨hregs, htaken, hframe⟩ := h
  have hl' : ∀ p ∈ l, t.reg p 0x14 = stickyEnTaken p (s.reg p 0x14) v := by
    intro p hp
    rw [htaken p hp]
    by_cases hpa : p = a
    · rw [hpa, reg_setReg_same, stickyEnTaken_idem]
    · rw [reg_setReg_other s _ fun hk => hpa (regKey_eq_of_ty_eq (hl p hp) hk)]
  refine ⟨hregs, fun p hp => ?_, fun q o hq => ?_⟩
  · by_cases hpl : p ∈ l
    · exact hl' p hpl
    · obtain rfl : p = a := (List.mem_cons.mp hp).resolve_right hpl
      rw [hframe p 0x14 fun q hq hk => hpl (regKey_eq_of_ty_eq (hl q hq).symm hk ▸ hq), reg_setReg_same]
  · rw [hframe q o fun p hp => hq p (List.mem_cons_of_mem a hp), reg_setReg_other s _ (hq a List.mem_cons_self)]

theorem foldl_writeReg_stickyEn (rq : Requester) (ty : PageType) (v : Word) (m : Bool) (l : List PageId)
    (hl : ∀ p ∈ l, p.ty = ty ∧ pageExists p = true ∧ v &&& ~~~stickyMask p.ty p.inst = 0) (s : State)
    (hs : s.serves rq) (hm : s.modeOf rq = m) :
    StickyEnWritten v l s (l.foldl (fun s p => writeReg s rq p 0x14 15 v m) s) := by
  induction l generalizing s with
  | nil => exact ⟨rfl, by simp, fun _ _ _ => rfl⟩
  | cons a l ih =>
    obtain ⟨⟨hty, hex, hv⟩, hl⟩ := List.forall_mem_cons.mp hl
    have hstep : writeReg s rq a 0x14 15 v m = s.setReg a 0x14 (stickyEnTaken a (s.reg a 0x14) v) := by
      rw [← hm, writeReg_eq_regWrite s rq a 0x14 15 v none hs.1, regWrite_stickyEn s rq a v hs hex hv]
    rw [List.foldl_cons, hstep]
    refine StickyEnWritten.cons (fun p hp => (hl p hp).1.trans hty.symm) (ih hl _ ?_ ?_)
    · exact ⟨(refRuns_setReg_stickyEn s a _).trans hs.1, hs.2⟩
    · exact hm

theorem writeAll_stickyEn (s : State) (rq : Requester) (ty : PageType) (v : Word) (hs : s.serves rq)
    (hv : ∀ i ∈ instancesOf ty, v &&& ~~~stickyMask ty i = 0) :
    StickyEnWritten v (s.addressed rq (pageCode ty)) s (writeAll s rq (pageCode ty) 0x14 15 v (s.modeOf rq)) := by
  unfold writeAll
  simp only [pageOf_code]
  refine foldl_writeReg_stickyEn rq ty v _ _ (fun p hp => ?_) s hs rfl
  obtain ⟨rfl, hi, -⟩ := (mem_addressed s rq ty p).mp hp
  exact ⟨rfl, pageExists_of_mem_instancesOf hi, hv p.inst hi⟩

/-! ### The obligation -/

/-- BROADCAST_READ at a word-aligned offset is one message to its requester. -/
theorem exec_broadcastRead (s : State) (rq : Requester) (code off : Nat) (hs : s.serves rq) (ho : off % 4 = 0) :
    exec (.broadcastRead rq code off) s =
      .next (settle (s.withOut (.regData rq (s.readAll rq code off) :: s.out))) := by
  have hword : off / 4 * 4 = off := by omega
  change execBroadcastRead rq code off s = _
  simp only [execBroadcastRead, done, State.send, hs.1, hs.2, hword, Bool.and_self, if_true]

/-- BROADCAST_WRITE is the write of every addressed page in the mode of its requester. -/
theorem exec_broadcastWrite (s : State) (rq : Requester) (code off : Nat) (be : BitVec 4) (v : Word)
    (hr : s.refRuns = true) :
    exec (.broadcastWrite rq code off be v) s = .next (settle (writeAll s rq code off be v (s.modeOf rq))) := by
  change execBroadcastWrite rq code off be v s = _
  simp only [execBroadcastWrite, done, hr, if_true]

/-- Settles O5: a broadcast read is a fold of ORs, a broadcast write a fold of direct writes over the addressed pages. -/
theorem broadcasts : Obligations.Broadcasts := by
  intro s rq ty hs
  refine ⟨fun off ho => ⟨_, exec_broadcastRead s rq (pageCode ty) off hs ho, fun i => ?_⟩, fun v hv => ?_⟩
  · rw [getLsbD_readAll]
    simp only [mem_addressed, and_assoc]
  · obtain ⟨hregs, htaken, hframe⟩ := writeAll_stickyEn s rq ty v hs hv
    refine ⟨_, exec_broadcastWrite s rq (pageCode ty) 0x14 15 v hs.1, hregs, fun p hp => ?_, hframe⟩
    obtain ⟨hty, -⟩ := (mem_addressed s rq ty p).mp hp
    rw [htaken p hp, stickyEnTaken, hty]

end Sys2Proof.Machine

/-! The Dowel instruction set (R57-R107): what one command of a due Dowel comes to when its word checks and its operand
reads record nothing, and when its word does not check. -/
namespace Sys2Proof.Machine

/-! ### Operand reads that record nothing -/

/-- Reading an operand recorded nothing: its index is not reserved and its row is not bad (R66, R103). -/
def OperandRead.Clean (o : OperandRead) : Prop := o.rsvd = false ∧ o.badRow = none

theorem readsClean_iff (s : State) (d : DowelAt) (x : Nat) :
    s.readsClean d x ↔ (readOperand s d.die d.panel d.dowel d.step x).Clean := Iff.rfl

theorem operandEvents_of_clean (k step : Nat) {rs : List (Nat × OperandRead)} (h : ∀ e ∈ rs, e.2.Clean) :
    operandEvents k step rs false false = [] := by
  have hrsvd : rs.filter (fun e => e.2.rsvd) = [] :=
    List.filter_eq_nil_iff.mpr fun e he => by simp [(h e he).1]
  have hrow : rs.filterMap (fun e => e.2.badRow.map fun row => (12, dowelInfo row k step)) = [] :=
    List.filterMap_eq_nil_iff.mpr fun e he => by rw [(h e he).2, Option.map_none]
  simp [operandEvents, hrsvd, hrow]

theorem filter_badRow_of_clean {rs : List (Nat × OperandRead)} (h : ∀ e ∈ rs, e.2.Clean) :
    rs.filter (fun e => e.2.badRow.isSome) = [] :=
  List.filter_eq_nil_iff.mpr fun e he => by simp [(h e he).2]

/-! ### A word of opcode 1 or 2 -/

/-- What operand d of a word gives: read by EVAL, the carry-in of EVALC, and 0 for the rest (R76, R77, R80). -/
def operandD (s : State) (d : DowelAt) (w : BitVec 80) : OperandRead :=
  if wOp w = 1 then readOperand s d.die d.panel d.dowel d.step (wOpd w)
  else if wOp w = 2 then carryIn s d.die d.panel d.dowel d.step (wOpd w)
  else ⟨false, false, none⟩

theorem operandD_eval (s : State) (d : DowelAt) {w : BitVec 80} (h : wOp w = 1) :
    operandD s d w = readOperand s d.die d.panel d.dowel d.step (wOpd w) := if_pos h

theorem operandD_evalc (s : State) (d : DowelAt) {w : BitVec 80} (h : wOp w = 2) :
    operandD s d w = carryIn s d.die d.panel d.dowel d.step (wOpd w) := by
  simp [operandD, h]

/-- The four operand reads of a word, numbered as a capture numbers them (R107). -/
def operandReads (s : State) (d : DowelAt) (w : BitVec 80) : List (Nat × OperandRead) :=
  let read := readOperand s d.die d.panel d.dowel d.step
  [(0, read (wOpa w)), (1, read (wOpb w)), (2, read (wOpc w)), (3, operandD s d w)]

theorem operandReads_clean {s : State} {d : DowelAt} {w : BitVec 80} (ha : s.readsClean d (wOpa w))
    (hb : s.readsClean d (wOpb w)) (hc : s.readsClean d (wOpc w)) (hd : (operandD s d w).Clean) :
    ∀ e ∈ operandReads s d w, e.2.Clean := by
  simpa [operandReads, ← readsClean_iff] using ⟨ha, hb, hc, hd⟩

/-- The end of the step of a word that looks its result up in the truth table, in a state (R67, R73, R78). -/
def endLookup (s t : State) (d : DowelAt) (w : BitVec 80) : State :=
  let x := (operandD s d w).val
  endOfStep t d.die d.panel d.dowel d.step (lookup w (s.opd d (wOpa w)) (s.opd d (wOpb w)) (s.opd d (wOpc w)) x)
    (!wKeep w) (wOp w == 2 && maj (s.opd d (wOpa w)) (s.opd d (wOpb w)) x)

/-- A word that contributes nothing records what its operand reads found, and then its step ends. -/
theorem runWord_of_lt (s : State) (d : DowelAt) {w : BitVec 80} (ce : Bool) (hop : wOp w < 3) :
    runWord s d.die d.panel d.dowel d.step w ce =
      endLookup s (((operandReads s d w).filter fun e => e.2.badRow.isSome).foldl (fun s _ => raiseReplay s 3 d.die 0)
        (raiseAll s (pnlPg d.die d.panel) (operandEvents d.dowel d.step (operandReads s d w) false ce))) d w := by
  have h3 : ¬ 3 ≤ wOp w := by omega
  simp only [runWord, h3, decide_false, Bool.false_and, if_false]
  rfl

theorem runWord_of_clean (s : State) (d : DowelAt) {w : BitVec 80} (hop : wOp w < 3)
    (hclean : ∀ e ∈ operandReads s d w, e.2.Clean) :
    runWord s d.die d.panel d.dowel d.step w false = endLookup s s d w := by
  rw [runWord_of_lt s d false hop, operandEvents_of_clean _ _ hclean, filter_badRow_of_clean hclean, raiseAll_nil,
    List.foldl_nil]

/-! ### The command of a due Dowel -/

/-- The step in hand is reached already. -/
theorem moveStep_step (s : State) : moveStep s s.step = s := if_pos (Nat.le_refl s.step)

/-- A Dowel whose word checks executes it in the state as it stands, by the class of its opcode (R71). -/
theorem execDowel_of_ready {s : State} {d : DowelAt} {w : BitVec 80} {ops : Nat → Bool} (h : s.dowelReady d w)
    (hops : ops (wOp w) = true) :
    execDowel s d ops =
      if wOp w = 0 then endOfStep s d.die d.panel d.dowel d.step false false false
      else if 10 ≤ wOp w then
        endOfStep (raise s (pnlPg d.die d.panel) 8 (d.dowel * 2 ^ 12 + d.step))
          d.die d.panel d.dowel d.step false (!wKeep w) false
      else runWord s d.die d.panel d.dowel d.step w false := by
  obtain ⟨hdue, hstep, hfetch⟩ := h
  have hmove : moveStep s d.step = s := hstep ▸ moveStep_step s
  have hclass : (EccClass.clean == EccClass.corrected) = false := rfl
  simp [execDowel, hdue, hfetch, hops, hmove, hclass, raiseAll, dowelInfo]

/-- A word that does not check executes as NOP, whatever its opcode bits say, with what R102 records. -/
theorem execDowel_of_uncorrectable {s : State} {d : DowelAt} {w : BitVec 80} {ops : Nat → Bool}
    (hdue : dowelDue s d = true) (hstep : s.step = d.step)
    (hfetch : fetchWord (s.panel d.die d.panel) d.dowel d.step = (w, .uncorrectable)) (hops : ops (wOp w) = true) :
    execDowel s d ops =
      endOfStep (raiseFault (markPanel (raise s (pnlPg d.die d.panel) 11 (d.dowel * 2 ^ 12 + d.step)) d.die d.panel 2)
        4 d.die 0) d.die d.panel d.dowel d.step false false false := by
  have hmove : moveStep s d.step = s := hstep ▸ moveStep_step s
  simp [execDowel, hdue, hfetch, hops, hmove, dowelInfo]

/-- EVAL's and EVALC's words: with clean operand reads, the step ends with the lookup and nothing else happens. -/
theorem execDowel_of_clean {s : State} {d : DowelAt} {w : BitVec 80} {ops : Nat → Bool} (h : s.dowelReady d w)
    (hops : ops (wOp w) = true) (hop : wOp w = 1 ∨ wOp w = 2) (hclean : ∀ e ∈ operandReads s d w, e.2.Clean) :
    execDowel s d ops = endLookup s s d w := by
  rw [execDowel_of_ready h hops, if_neg (by omega), if_neg (by omega), runWord_of_clean s d (by omega) hclean]

/-! ### The commands -/

theorem exec_nop (d : DowelAt) (s : State) : exec (.nop d) s = .next (settle (execDowel s d (· == 0))) := rfl

theorem exec_eval (d : DowelAt) (s : State) : exec (.eval d) s = .next (settle (execDowel s d (· == 1))) := rfl

theorem exec_evalc (d : DowelAt) (s : State) : exec (.evalc d) s = .next (settle (execDowel s d (· == 2))) := rfl

theorem exec_reservedOpcode (d : DowelAt) (s : State) :
    exec (.reservedOpcode d) s = .next (settle (execDowel s d fun o => decide (10 ≤ o))) := rfl

/-! ### The obligations -/

/-- Settles O12: EVAL's operand d is read as the others are, EVALC's is the carry-in, and both look the result up. -/
theorem dowelLookup : Obligations.DowelLookup := by
  intro s d w h ha hb hc
  constructor
  case left =>
    intro hop hd
    have hopd := operandD_eval s d hop
    have hclean := operandReads_clean ha hb hc (hopd ▸ hd)
    rw [exec_eval, execDowel_of_clean h (by simp [hop]) (.inl hop) hclean, endLookup, hopd, hop]
    rfl
  case right =>
    intro hop cin hrsvd hrow
    have hopd := operandD_evalc s d hop
    have hclean := operandReads_clean ha hb hc (hopd ▸ ⟨hrsvd, hrow⟩)
    rw [exec_evalc, execDowel_of_clean h (by simp [hop]) (.inr hop) hclean, endLookup, hopd, hop]
    rfl

/-- Settles O15: the three words that deliver nothing, by the class of the opcode and of the fetch. -/
theorem dowelIdleAndBadWords : Obligations.DowelIdleAndBadWords := by
  intro s d w
  refine ⟨fun h hop => ?_, fun h hop => ?_, fun hdue hstep hfetch hop => ?_⟩
  case refine_1 => rw [exec_nop, execDowel_of_ready h (by simp [hop]), if_pos hop]
  case refine_2 =>
    rw [exec_reservedOpcode, execDowel_of_ready h (decide_eq_true hop), if_neg (by omega), if_pos hop]
  case refine_3 => rw [exec_eval, execDowel_of_uncorrectable hdue hstep hfetch (by simp [hop])]

end Sys2Proof.Machine

/-! Gauges as they stand (R332-R334): what one update of the state leaves in a Gauge, in the registers of its page, and in
those registers as the tick in hand has them in force. -/
namespace Sys2Proof.Machine

/-! ### What an error event reaches -/

section RaiseKeeps
variable {β : Type} (g : State → β) (p : PageId)

/-- A reading that no write of the header's capture registers changes, nor of the line addresses of a VNR_ page. -/
def KeepsCaptures : Prop :=
  ∀ (t : State) (off : Nat) (v : Word), off ∈ [0x10, 0x18, 0x1c] ∨ p.ty = .vnr ∧ off ∈ [0x58, 0x5c, 0x60, 0x64] →
    g (t.setReg p off v) = g t

variable {g p} {b : Nat} (hreg : KeepsCaptures g p) (hmark : ∀ (t : State) i, i = b ∨ i ∈ [3, 4, 5] → g (t.mark p i) = g t)
include hreg hmark

theorem setCapture_keeps (s : State) (second : Bool) (w : Word) (a : Nat) : g (setCapture s p second w a) = g s := by
  have hword : g (s.setReg p (if second then 0x1c else 0x18) w) = g s :=
    hreg _ _ _ (.inl (by cases second <;> simp))
  unfold setCapture
  dsimp only
  rw [hmark _ _ (.inr (by cases second <;> simp))]
  split
  case isTrue hv =>
    unfold State.setReg64
    rw [hreg _ _ _ (.inr ⟨hv, by cases second <;> simp⟩), hreg _ _ _ (.inr ⟨hv, by cases second <;> simp⟩), hword]
  case isFalse => exact hword

theorem captureLost_keeps (s : State) : g (captureLost s p) = g s := by
  unfold captureLost State.setF
  rw [hmark _ _ (.inr (by simp)), hreg _ _ _ (.inl (by simp))]

theorem capture_keeps (s : State) (info a : Nat) : g (capture s p b info a) = g s := by
  have hset := setCapture_keeps hreg hmark
  have hlost := captureLost_keeps hreg hmark
  unfold capture
  dsimp only
  split
  · exact hset ..
  · split
    · rw [hset, hset]
      split
      · rfl
      · exact hlost s
    · split
      · exact hset ..
      · split
        · rw [hset, hlost]
        · exact hlost s

theorem raiseAt_keeps (s : State) (info a : Nat) : g (raiseAt s p b info a) = g s := by
  unfold raiseAt State.setF
  rw [hmark _ _ (.inl rfl), capture_keeps hreg hmark, hreg _ _ _ (.inl (by simp))]

/-- A reading that the writes and marks of an error event leave alone, the event leaves alone. -/
theorem raise_keeps (s : State) (info : Nat) : g (raise s p b info) = g s := raiseAt_keeps hreg hmark s info 0

end RaiseKeeps

/-! ### A Gauge and the registers of its page -/

@[simp] theorem gauge_setGauge_same (s : State) (k : Nat) (g : Gauge) : (s.setGauge k g).gauge k = g := by
  simp only [State.gauge, State.setGauge, State.withGauges_fields, Tab.get_set_same]

theorem gauge_setGauge_other (s : State) {j k : Nat} (g : Gauge) (h : j ≠ k) :
    (s.setGauge k g).gauge j = s.gauge j := by
  simp only [State.gauge, State.setGauge, State.withGauges_fields]
  exact Tab.get_set_other _ _ h g

@[simp] theorem reg_setGauge (s : State) (k : Nat) (g : Gauge) : (s.setGauge k g).reg = s.reg := rfl
@[simp] theorem f_setGauge (s : State) (k : Nat) (g : Gauge) : (s.setGauge k g).f = s.f := rfl
@[simp] theorem on_setGauge (s : State) (k : Nat) (g : Gauge) : (s.setGauge k g).on = s.on := rfl
@[simp] theorem gauge_setReg (s : State) (p : PageId) (off : Nat) (v : Word) : (s.setReg p off v).gauge = s.gauge := rfl
@[simp] theorem gauge_setF (s : State) (p : PageId) (off hi lo v : Nat) : (s.setF p off hi lo v).gauge = s.gauge := rfl
@[simp] theorem gauge_setReg64 (s : State) (p : PageId) (off v : Nat) : (s.setReg64 p off v).gauge = s.gauge := rfl

@[simp] theorem gauge_raise (s : State) (p : PageId) (b info : Nat) : (raise s p b info).gauge = s.gauge :=
  raise_keeps (g := State.gauge) (fun _ _ _ _ => rfl) (fun _ _ _ => rfl) s info

@[simp] theorem settle_gauge (s : State) (k : Nat) : (settle s).gauge k = s.gauge k := by
  simp only [State.gauge, settle_gauges]

/-- An event of a Gauge's page reaches PG_STICKY, PG_FIRST and PG_SECOND alone of its registers. -/
theorem reg_raise_gauPg (s : State) (k b info : Nat) {o : Nat} (h : 0x20 ≤ o) :
    (raise s (gauPg k) b info).reg (gauPg k) o = s.reg (gauPg k) o := by
  refine raise_keeps (g := fun t => t.reg (gauPg k) o) (fun t off v hoff => ?_) (fun _ _ _ => rfl) s info
  rcases hoff with hoff | ⟨hty, -⟩
  · simp only [List.mem_cons, List.not_mem_nil, or_false] at hoff
    exact reg_setReg_other t v (regKey_ne_off _ (by omega))
  · exact nomatch hty

/-! ### Its registers as the tick in hand has them in force (R334) -/

/-- The value that a register's stale entry keeps in force, if it has one. -/
def Gauge.staleAt (g : Gauge) (off : Nat) : Option Word := Tab.get (fun _ => none) g.stale off

theorem gin_def (s : State) (k off : Nat) : s.gin k off = ((s.gauge k).staleAt off).getD (s.reg (gauPg k) off) := rfl

theorem gin_of_fresh {s : State} {k : Nat} (h : (s.gauge k).stale = []) (off : Nat) : s.gin k off = s.reg (gauPg k) off := by
  rw [gin_def, Gauge.staleAt, h]
  rfl

theorem gin_congr {s t : State} {k off : Nat} (hst : (t.gauge k).staleAt off = (s.gauge k).staleAt off)
    (hreg : t.reg (gauPg k) off = s.reg (gauPg k) off) : t.gin k off = s.gin k off := by
  rw [gin_def, gin_def, hst, hreg]

@[simp] theorem settle_gin (s : State) (k off : Nat) : (settle s).gin k off = s.gin k off :=
  gin_congr (by rw [settle_gauge]) (settle_reg ..)

theorem gin_setGauge (s : State) (k off : Nat) {g : Gauge} (h : g.stale = (s.gauge k).stale) :
    (s.setGauge k g).gin k off = s.gin k off :=
  gin_congr (by rw [gauge_setGauge_same, Gauge.staleAt, h]; rfl) rfl

theorem gin_setReg_other (s : State) {k off o : Nat} (v : Word) (h : o / 4 ≠ off / 4) :
    (s.setReg (gauPg k) off v).gin k o = s.gin k o :=
  gin_congr rfl (reg_setReg_other s v (regKey_ne_off _ h))

theorem gin_raise (s : State) (k b info : Nat) {o : Nat} (h : 0x20 ≤ o) :
    (raise s (gauPg k) b info).gin k o = s.gin k o :=
  gin_congr (by rw [gauge_raise]) (reg_raise_gauPg s k b info h)

/-! ### A register that the Gauge itself sets -/

theorem gauPut_of_fresh {s : State} {k off : Nat} (h : (s.gauge k).staleAt off = none) (v : Word) :
    gauPut s k off v = s.setReg (gauPg k) off v :=
  if_neg (by rw [← Gauge.staleAt, h]; simp)

theorem gauPut_of_stale {s : State} {k off : Nat} {w : Word} (h : (s.gauge k).staleAt off = some w) (v : Word) :
    gauPut s k off v =
      s.setGauge k { s.gauge k with stale := Tab.set (fun _ => none) (s.gauge k).stale off (some v) } :=
  if_pos (by rw [← Gauge.staleAt, h]; rfl)

@[simp] theorem gin_gauPut_same (s : State) (k off : Nat) (v : Word) : (gauPut s k off v).gin k off = v := by
  cases h : (s.gauge k).staleAt off with
  | none =>
    rw [gauPut_of_fresh h, gin_def, gauge_setReg, h, reg_setReg_same]
    rfl
  | some w =>
    rw [gauPut_of_stale h, gin_def, gauge_setGauge_same, Gauge.staleAt, Tab.get_set_same]
    rfl

theorem gin_gauPut_other (s : State) {k off o : Nat} (v : Word) (h : o / 4 ≠ off / 4) :
    (gauPut s k off v).gin k o = s.gin k o := by
  cases hst : (s.gauge k).staleAt off with
  | none => rw [gauPut_of_fresh hst, gin_setReg_other s v h]
  | some w =>
    rw [gauPut_of_stale hst]
    have hne : o ≠ off := fun e => h (congrArg (· / 4) e)
    refine gin_congr ?_ rfl
    rw [gauge_setGauge_same, Gauge.staleAt, Tab.get_set_other _ _ hne]
    rfl

theorem reg_gauPut_other (s : State) {k off : Nat} (v : Word) {o : Nat} (h : o / 4 ≠ off / 4) :
    (gauPut s k off v).reg (gauPg k) o = s.reg (gauPg k) o := by
  cases hst : (s.gauge k).staleAt off with
  | none => rw [gauPut_of_fresh hst, reg_setReg_other s v (regKey_ne_off _ h)]
  | some w => rw [gauPut_of_stale hst, reg_setGauge]

/-- Two states hold the same of a Gauge but for the registers kept in force. -/
def SameButStale (g h : Gauge) : Prop := h = { g with stale := h.stale }

theorem SameButStale.refl (g : Gauge) : SameButStale g g := rfl

theorem SameButStale.trans {a b c : Gauge} (h : SameButStale a b) (h' : SameButStale b c) : SameButStale a c := by
  unfold SameButStale at *
  rw [h', h]

theorem gauge_gauPut (s : State) (k off : Nat) (v : Word) : SameButStale (s.gauge k) ((gauPut s k off v).gauge k) := by
  cases hst : (s.gauge k).staleAt off with
  | none => rw [gauPut_of_fresh hst, gauge_setReg]; exact .refl _
  | some w => rw [gauPut_of_stale hst, gauge_setGauge_same]; exact .refl _

theorem gauge_gauPut64 (s : State) (k off v : Nat) : SameButStale (s.gauge k) ((gauPut64 s k off v).gauge k) :=
  (gauge_gauPut ..).trans (gauge_gauPut ..)

theorem reg_gauPut64_other (s : State) {k off : Nat} (v : Nat) {o : Nat} (h : o / 4 ≠ off / 4) (h' : o / 4 ≠ off / 4 + 1) :
    (gauPut64 s k off v).reg (gauPg k) o = s.reg (gauPg k) o := by
  rw [gauPut64, reg_gauPut_other _ _ (by omega), reg_gauPut_other _ _ h]

/-- A 64-bit quantity that the Gauge sets is in force at once, modulo 2^64. -/
theorem gin64_gauPut64 (s : State) (k off v : Nat) : (gauPut64 s k off v).gin64 k off = v % 2 ^ 64 := by
  rw [State.gin64, gauPut64, gin_gauPut_same, gin_gauPut_other _ _ (by omega), gin_gauPut_same, BitVec.toNat_ofNat,
    BitVec.toNat_ofNat]
  omega

theorem gin64_lt (s : State) (k off : Nat) : s.gin64 k off < 2 ^ 64 := by
  unfold State.gin64
  have := (s.gin k off).isLt
  have := (s.gin k (off + 4)).isLt
  omega

/-- A field that the Gauge sets, where no write of the tick waits, is a field of the register. -/
theorem gauPutF_of_fresh {s : State} {k : Nat} (h : (s.gauge k).stale = []) (off hi lo v : Nat) :
    gauPutF s k off hi lo v = s.setF (gauPg k) off hi lo v := by
  rw [gauPutF, gauPut_of_fresh (by rw [Gauge.staleAt, h]; rfl), gin_of_fresh h]
  rfl

theorem ginF_gauPutF_same (s : State) (k off hi lo v : Nat) (h : lo ≤ hi) (h32 : hi < 32) :
    (gauPutF s k off hi lo v).ginF k off hi lo = v % 2 ^ (hi + 1 - lo) := by
  rw [State.ginF, gauPutF, gin_gauPut_same, fld_setFld _ _ _ _ h h32]

end Sys2Proof.Machine

/-! Event units of Gauges (R350-R356): how a periodic unit's time leaves the past, what each firing comes to where it is due
and where it is not, and what a write of ARM leaves. -/
namespace Sys2Proof.Machine

/-! ### Times modulo 2^64 -/

/-- How far a time lies behind a Gauge value, modulo 2^64: the time is due where that is below 2^63. -/
def behind (g a : Nat) : Nat := (g + 2 ^ 64 - a % 2 ^ 64) % 2 ^ 64

theorem reached64_iff (g a : Nat) : reached64 g a = true ↔ behind g a < 2 ^ 63 := decide_eq_true_iff

theorem behind_of_lt (g : Nat) {a : Nat} (h : a < 2 ^ 64) : behind g a = (g + 2 ^ 64 - a) % 2 ^ 64 := by
  rw [behind, Nat.mod_eq_of_lt h]

@[simp] theorem behind_mod (g a : Nat) : behind g (a % 2 ^ 64) = behind g a := by
  rw [behind, Nat.mod_mod, behind]

/-- m additions of b move a time as m additions of 2^64 - b move the distance to it. -/
theorem behind_add_mul (g a m : Nat) {b : Nat} (hb : b < 2 ^ 64) :
    behind g (a + m * b) = (behind g a + m * (2 ^ 64 - b)) % 2 ^ 64 := by
  have hsum : m * b + m * (2 ^ 64 - b) = m * 2 ^ 64 := by
    rw [← Nat.mul_add, Nat.add_sub_cancel' (Nat.le_of_lt hb)]
  unfold behind
  omega

/-- `skipCount` counts the additions that still leave a due time due: the next one does not. -/
theorem skipCount_spec {d b : Nat} (hd : d < 2 ^ 63) (hb : 0 < b) (hb' : b < 2 ^ 64) :
    (∀ m, m < skipCount d b → (d + m * (2 ^ 64 - b)) % 2 ^ 64 < 2 ^ 63) ∧
      2 ^ 63 ≤ (d + skipCount d b * (2 ^ 64 - b)) % 2 ^ 64 := by
  have hsum : ∀ m, m * b + m * (2 ^ 64 - b) = m * 2 ^ 64 := fun m => by
    rw [← Nat.mul_add, Nat.add_sub_cancel' (Nat.le_of_lt hb')]
  unfold skipCount
  split
  case isTrue hlt =>
    have hdiv := Nat.div_add_mod' d b
    have hmod := Nat.mod_lt d hb
    refine ⟨fun m hm => ?_, ?_⟩
    · have := hsum m
      have : m * b ≤ d / b * b := Nat.mul_le_mul_right b (by omega)
      omega
    · have := hsum (d / b + 1)
      have : (d / b + 1) * b = d / b * b + b := Nat.succ_mul ..
      omega
  case isFalse hge =>
    obtain ⟨c, hc⟩ : ∃ c, c = 2 ^ 64 - b := ⟨_, rfl⟩
    rw [← hc]
    have hdiv := Nat.div_add_mod' (2 ^ 63 - d + c - 1) c
    have hmod := Nat.mod_lt (2 ^ 63 - d + c - 1) (y := c) (by omega)
    refine ⟨fun m hm => ?_, ?_⟩
    · have : (m + 1) * c ≤ (2 ^ 63 - d + c - 1) / c * c := Nat.mul_le_mul_right c hm
      rw [Nat.succ_mul] at this
      omega
    · omega

theorem skipCount_pos {d b : Nat} (hd : d < 2 ^ 63) (hb' : b < 2 ^ 64) : 0 < skipCount d b := by
  unfold skipCount
  split
  case isTrue => exact Nat.succ_pos _
  case isFalse => exact Nat.div_pos (by omega) (by omega)

/-- How many periods a periodic unit that fires at a has missed (R352). -/
def missed (g a b : Nat) : Nat :=
  if reached64 g ((a + b) % 2 ^ 64) then skipCount ((g + 2 ^ 64 - (a + b) % 2 ^ 64) % 2 ^ 64) b else 0

/-- The periods missed are those whose times are due: the first one that is not due is the next time of the unit. -/
theorem missed_spec (g a : Nat) {b : Nat} (hb : 0 < b) (hb' : b < 2 ^ 64) :
    (∀ m, m < missed g a b → behind g (a + (m + 1) * b) < 2 ^ 63) ∧ 2 ^ 63 ≤ behind g (a + (missed g a b + 1) * b) := by
  have hnext : ∀ m, behind g (a + (m + 1) * b) = (behind g (a + b) + m * (2 ^ 64 - b)) % 2 ^ 64 := fun m => by
    rw [← behind_add_mul g (a + b) m hb', Nat.succ_mul]
    congr 1
    omega
  simp only [hnext]
  by_cases hdue : reached64 g ((a + b) % 2 ^ 64) = true
  · rw [missed, if_pos hdue]
    rw [reached64_iff, behind_mod] at hdue
    exact skipCount_spec hdue hb hb'
  · rw [missed, if_neg hdue]
    rw [reached64_iff, behind_mod] at hdue
    have hlt : behind g (a + b) < 2 ^ 64 := Nat.mod_lt _ (by decide)
    exact ⟨fun m hm => absurd hm (Nat.not_lt_zero m), by omega⟩

/-! ### A unit that acts and is armed -/

theorem evtReady_iff (s : State) (k mode : Nat) :
    s.evtReady k mode = true ↔ s.unitActs k = true ∧ s.evtArmed k = true ∧ s.evtMode k = mode := by
  simp only [State.evtReady, Bool.and_eq_true, beq_iff_eq, and_assoc]

theorem evtArmed_eq_false {s : State} {k : Nat} (h : s.ginF k 0xc0 0 0 = 0) : s.evtArmed k = false := by
  rw [State.evtArmed, h]
  rfl

/-- FIRED is set: no register in force moves but GAU_EVT_STS. -/
theorem gin_setFired (s : State) (k : Nat) {o : Nat} (h : o / 4 ≠ 0xc4 / 4) : (setFired s k).gin k o = s.gin k o :=
  gin_setReg_other s _ h

theorem evtWidth_setFired (s : State) (k : Nat) : (setFired s k).evtWidth k = s.evtWidth k := by
  rw [State.evtWidth, gin_setFired s k (by decide), State.evtWidth]

theorem evtA_setFired (s : State) (k : Nat) : (setFired s k).evtA k = s.evtA k := by
  rw [State.evtA, State.gin64, gin_setFired s k (by decide), gin_setFired s k (by decide)]
  rfl

theorem gauge_setFired (s : State) (k : Nat) : (setFired s k).gauge = s.gauge := rfl

theorem fired_setFired (s : State) (k : Nat) : (setFired s k).f (gauPg k) 0xc4 0 0 = 1 :=
  f_setF_same _ _ _ _ _ _ (by decide) (by decide)

/-- A field set by the Gauge in another register leaves FIRED. -/
theorem fired_gauPut (s : State) {k off : Nat} (v : Word) (h : 0xc4 / 4 ≠ off / 4) :
    (gauPut s k off v).f (gauPg k) 0xc4 0 0 = s.f (gauPg k) 0xc4 0 0 := by
  rw [State.f, reg_gauPut_other s v h, State.f]

/-! ### One-shot units (R351) -/

theorem oneShotFire_of_due {s : State} {k : Nat} (hready : s.evtReady k 0 = true) (hpulse : (s.gauge k).pulse = none)
    (hdue : reached64 (s.evtG k) (s.evtA k) = true) :
    oneShotFire s k = if s.evtWidth k = 0 then gauPutF (setFired s k) k 0xc0 0 0 0
      else (setFired s k).setGauge k
        { s.gauge k with pulse := some (BitVec.ofNat 64 (s.evtA k + s.evtWidth k)) } := by
  unfold oneShotFire
  rw [if_pos (by simp [hready, hpulse, hdue])]
  simp only [evtWidth_setFired, evtA_setFired, gauge_setFired]

theorem oneShotFire_of_not_due {s : State} {k : Nat} (h : reached64 (s.evtG k) (s.evtA k) = false) :
    oneShotFire s k = s := by
  unfold oneShotFire
  rw [if_neg (by simp [h])]

/-- A disarm by the unit itself: ARM is 0 at once. -/
theorem evtArmed_gauPutF (s : State) (k : Nat) : (gauPutF s k 0xc0 0 0 0).evtArmed k = false :=
  evtArmed_eq_false (ginF_gauPutF_same s k 0xc0 0 0 0 (by decide) (by decide))

/-! ### Periodic units (R352) -/

/-- The Gauge of a periodic unit that has fired at A: its pulse begins. -/
def firedGauge (s : State) (k : Nat) : Gauge :=
  { s.gauge k with pulse := if s.evtWidth k = 0 then none else some (BitVec.ofNat 64 (s.evtA k + s.evtWidth k)) }

/-- A periodic unit has fired at A: FIRED is set and its pulse begins. -/
def pulseBegun (s : State) (k : Nat) : State := (setFired s k).setGauge k (firedGauge s k)

/-- What a periodic unit that fires comes to, by the periods that it has missed. -/
theorem periodicFire_of_due {s : State} {k : Nat} (hready : s.evtReady k 1 = true)
    (hdue : reached64 (s.evtG k) (s.evtA k) = true) :
    periodicFire s k =
      let n := missed (s.evtG k) (s.evtA k) (s.evtB k)
      if reached64 (s.evtG k) ((s.evtA k + s.evtB k) % 2 ^ 64) then
        raise (gauBump (gauPut64 (pulseBegun s k) k 0xc8 ((s.evtA k + s.evtB k) % 2 ^ 64 + n * s.evtB k)) k 0xdc n)
          (gauPg k) 12 (min n 0xffff)
      else gauPut64 (pulseBegun s k) k 0xc8 ((s.evtA k + s.evtB k) % 2 ^ 64) := by
  unfold periodicFire
  rw [if_pos (by simp [hready, hdue])]
  dsimp only
  split
  case isTrue h => simp only [missed, if_pos h]; rfl
  case isFalse => rfl

theorem gin64_raise (s : State) (k b info : Nat) {o : Nat} (h : 0x20 ≤ o) :
    (raise s (gauPg k) b info).gin64 k o = s.gin64 k o := by
  rw [State.gin64, gin_raise s k b info h, gin_raise s k b info (by omega), State.gin64]

theorem gin64_gauBump_other (s : State) {k off o : Nat} (n : Nat) (h : o / 4 ≠ off / 4) (h' : o / 4 + 1 ≠ off / 4) :
    (gauBump s k off n).gin64 k o = s.gin64 k o := by
  simp only [State.gin64, gauBump, gauPutF]
  rw [gin_gauPut_other _ _ h, gin_gauPut_other _ _ (by omega)]

theorem gauge_gauBump (s : State) (k off n : Nat) : SameButStale (s.gauge k) ((gauBump s k off n).gauge k) := by
  rw [gauBump, gauPutF]
  exact gauge_gauPut ..

section Periodic
variable {s : State} {k : Nat} (hready : s.evtReady k 1 = true) (hdue : reached64 (s.evtG k) (s.evtA k) = true)
include hready hdue

theorem evtA_periodicFire : (periodicFire s k).evtA k =
    (s.evtA k + (missed (s.evtG k) (s.evtA k) (s.evtB k) + 1) * s.evtB k) % 2 ^ 64 := by
  rw [periodicFire_of_due hready hdue]
  dsimp only
  split
  case isTrue h =>
    rw [State.evtA, gin64_raise _ _ _ _ (by decide), gin64_gauBump_other _ _ (by decide) (by decide), gin64_gauPut64,
      Nat.mod_add_mod, Nat.succ_mul, Nat.add_assoc, Nat.add_comm (s.evtB k)]
  case isFalse h =>
    rw [State.evtA, gin64_gauPut64, Nat.mod_mod, missed, if_neg h, Nat.zero_add, Nat.one_mul]

theorem gauge_periodicFire : SameButStale (firedGauge s k) ((periodicFire s k).gauge k) := by
  have hbegun : (pulseBegun s k).gauge k = firedGauge s k := gauge_setGauge_same ..
  rw [periodicFire_of_due hready hdue, ← hbegun]
  dsimp only
  split
  case isTrue =>
    rw [gauge_raise]
    exact (gauge_gauPut64 ..).trans (gauge_gauBump ..)
  case isFalse => exact gauge_gauPut64 ..

theorem fired_periodicFire : (periodicFire s k).f (gauPg k) 0xc4 0 0 = 1 := by
  have hput : ∀ a, (gauPut64 (pulseBegun s k) k 0xc8 a).f (gauPg k) 0xc4 0 0 = 1 := fun a => by
    rw [gauPut64, fired_gauPut _ _ (by decide), fired_gauPut _ _ (by decide), pulseBegun, f_setGauge, fired_setFired]
  rw [periodicFire_of_due hready hdue]
  dsimp only
  split
  case isTrue =>
    rw [State.f, reg_raise_gauPg _ _ _ _ (by decide), ← State.f, gauBump, gauPutF, fired_gauPut _ _ (by decide), hput]
  case isFalse => exact hput _

/-- A unit that has missed a period records MISSED. -/
theorem missed_periodicFire (h : missed (s.evtG k) (s.evtA k) (s.evtB k) ≠ 0) :
    (periodicFire s k).f (gauPg k) 0x10 12 12 = 1 := by
  have hreached : reached64 (s.evtG k) ((s.evtA k + s.evtB k) % 2 ^ 64) = true :=
    Decidable.byContradiction fun hc => h (if_neg hc)
  rw [periodicFire_of_due hready hdue]
  dsimp only
  rw [if_pos hreached, raise_sticky _ _ _ _ _ (by decide) (by decide), if_pos rfl]

end Periodic

/-! ### Window units (R353), and the end of a pulse -/

theorem windowFire_of_same {s : State} {k : Nat} (hready : s.evtReady k 2 = true)
    (h : (s.gauge k).winOn = inside64 (s.evtG k) (s.evtA k) (s.evtB k)) : windowFire s k = s := by
  unfold windowFire
  rw [hready, Bool.true_and]
  exact if_pos h.symm

theorem windowFire_of_changed {s : State} {k : Nat} {now : Bool} (hready : s.evtReady k 2 = true)
    (hnow : inside64 (s.evtG k) (s.evtA k) (s.evtB k) = now) (h : (s.gauge k).winOn = !now) :
    windowFire s k = if now then setFired (s.setGauge k { s.gauge k with winOn := now }) k
      else s.setGauge k { s.gauge k with winOn := now } := by
  unfold windowFire
  rw [hready, Bool.true_and, hnow, h]
  exact if_neg (by cases now <;> decide)

theorem pulseEnd_of_past {s : State} {k : Nat} {e : BitVec 64} (he : (s.gauge k).pulse = some e)
    (hacts : s.unitActs k = true) (hpast : reached64 (s.evtG k) e.toNat = true) :
    pulseEnd s k = if s.evtMode k = 0 then gauPutF (s.setGauge k { s.gauge k with pulse := none }) k 0xc0 0 0 0
      else s.setGauge k { s.gauge k with pulse := none } := by
  have hmode : (s.setGauge k { s.gauge k with pulse := none }).evtMode k = s.evtMode k := by
    rw [State.evtMode, State.ginF, gin_setGauge s k _ (by rfl)]
    rfl
  unfold pulseEnd
  simp only [he, hacts, hpast, hmode, Bool.and_self, if_true]

theorem pulseEnd_of_not_past {s : State} {k : Nat} {e : BitVec 64} (he : (s.gauge k).pulse = some e)
    (h : reached64 (s.evtG k) e.toNat = false ∨ s.unitActs k = false) : pulseEnd s k = s := by
  unfold pulseEnd
  simp only [he]
  exact if_neg (by rcases h with h | h <;> simp [h])

end Sys2Proof.Machine

/-! A write of ARM (R334, R350, R354): the register changes at once, and what was in force stays so until the next tick. -/
namespace Sys2Proof.Machine

/-! ### What a register write of a Gauge's page keeps in force -/

@[simp] theorem reg_keepTick (old new : State) (k : Nat) : (keepTick old new k).reg = new.reg := by
  unfold keepTick
  dsimp only
  split <;> rfl

@[simp] theorem f_keepTick (old new : State) (k : Nat) : (keepTick old new k).f = new.f := by
  unfold keepTick
  dsimp only
  split <;> rfl

/-- One register of the fold of `keepTick`: what it held stays in force, where it has changed and nothing is kept yet. -/
def keepOne (old new : State) (k : Nat) (t : Tab (Option Word)) (off : Nat) : Tab (Option Word) :=
  if (Tab.get (fun _ => none) t off).isSome || new.reg (gauPg k) off == old.reg (gauPg k) off then t
  else Tab.set (fun _ => none) t off (some (old.reg (gauPg k) off))

/-- The registers kept in force after a write. -/
def keptStale (old new : State) (k : Nat) : Tab (Option Word) := gauTimed.foldl (keepOne old new k) (new.gauge k).stale

theorem keepTick_eq (old new : State) (k : Nat) :
    keepTick old new k = if keptStale old new k = (new.gauge k).stale then new
      else new.setGauge k { new.gauge k with stale := keptStale old new k } := rfl

theorem gauge_keepTick_same (old new : State) (k : Nat) :
    (keepTick old new k).gauge k = { new.gauge k with stale := keptStale old new k } := by
  rw [keepTick_eq]
  split
  case isTrue h => rw [h]
  case isFalse => exact gauge_setGauge_same ..

theorem gauge_keepTick_other (old new : State) {j k : Nat} (h : j ≠ k) :
    (keepTick old new k).gauge j = new.gauge j := by
  rw [keepTick_eq]
  split
  case isTrue => rfl
  case isFalse => exact gauge_setGauge_other _ _ h

/-- Nothing but the Gauge itself is touched. -/
theorem keepTick_withGauges (old new : State) (k : Nat) :
    keepTick old new k = new.withGauges (keepTick old new k).gauges := by
  rw [keepTick_eq]
  split <;> rfl

section KeptStale
variable (old new : State) (k : Nat)

theorem get_keepOne_other (t : Tab (Option Word)) {a off : Nat} (h : off ≠ a) :
    Tab.get (fun _ => none) (keepOne old new k t a) off = Tab.get (fun _ => none) t off := by
  unfold keepOne
  split
  · rfl
  · exact Tab.get_set_other _ _ h _

/-- A register that is kept already, or has not changed, is passed over. -/
theorem get_foldl_keepOne_of_settled {off : Nat} (l : List Nat) (t : Tab (Option Word))
    (h : ((Tab.get (fun _ => none) t off).isSome || new.reg (gauPg k) off == old.reg (gauPg k) off) = true) :
    Tab.get (fun _ => none) (l.foldl (keepOne old new k) t) off = Tab.get (fun _ => none) t off := by
  induction l generalizing t with
  | nil => rfl
  | cons a l ih =>
    have hone : Tab.get (fun _ => none) (keepOne old new k t a) off = Tab.get (fun _ => none) t off := by
      by_cases ha : off = a
      · subst ha
        rw [keepOne, if_pos h]
      · exact get_keepOne_other old new k t ha
    rw [List.foldl_cons, ih _ (by rw [hone]; exact h), hone]

/-- A register of the fold holds as in force what it held before the write. -/
theorem getD_foldl_keepOne {off : Nat} (l : List Nat) (t : Tab (Option Word)) (h : off ∈ l) :
    (Tab.get (fun _ => none) (l.foldl (keepOne old new k) t) off).getD (new.reg (gauPg k) off) =
      (Tab.get (fun _ => none) t off).getD (old.reg (gauPg k) off) := by
  induction l generalizing t with
  | nil => exact absurd h List.not_mem_nil
  | cons a l ih =>
    rw [List.foldl_cons]
    by_cases ha : off = a
    · subst ha
      by_cases hset : ((Tab.get (fun _ => none) t off).isSome || new.reg (gauPg k) off == old.reg (gauPg k) off) = true
      · rw [keepOne, if_pos hset, get_foldl_keepOne_of_settled old new k l t hset]
        cases hget : Tab.get (fun _ => none) t off with
        | some w => rfl
        | none =>
          rw [hget] at hset
          exact beq_iff_eq.mp hset
      · have hnone : Tab.get (fun _ => none) t off = none := by
          cases hget : Tab.get (fun _ => none) t off with
          | some w => simp [hget] at hset
          | none => rfl
        rw [keepOne, if_neg hset, get_foldl_keepOne_of_settled old new k l _ (by rw [Tab.get_set_same]; rfl),
          Tab.get_set_same, hnone]
        rfl
    · rw [ih _ ((List.mem_cons.mp h).resolve_left ha), get_keepOne_other old new k t ha]

end KeptStale

/-- What was in force before a register write is in force after it, until the next tick (R334). -/
theorem gin_keepTick {old new : State} {k off : Nat} (hst : (new.gauge k).stale = (old.gauge k).stale)
    (h : off ∈ gauTimed) : (keepTick old new k).gin k off = old.gin k off := by
  rw [gin_def, gauge_keepTick_same, reg_keepTick, Gauge.staleAt, keptStale, getD_foldl_keepOne old new k gauTimed _ h, hst]
  rfl

/-! ### GAU_EVT_CTL with ARM written -/

/-- Bit i of a word with bit i set to b. -/
theorem getLsbD_setFld_bit (w : Word) (i : Nat) (b : Bool) (hi : i < 32) (j : Nat) :
    (setFld w i i (bit b)).getLsbD j = if j = i then b else w.getLsbD j := by
  have hbit : ∀ x y : Bool, bit x = bit y → x = y := by decide
  apply hbit
  rw [← fld1]
  rcases Nat.lt_trichotomy j i with h | h | h
  · rw [if_neg (by omega), fld_setFld_below _ _ _ _ _ _ (Nat.le_refl i) hi h (Nat.le_refl j), fld1]
  · subst h
    rw [if_pos rfl, fld_setFld _ _ _ _ (Nat.le_refl j) hi, Nat.add_sub_cancel_left]
    cases b <;> rfl
  · rw [if_neg (by omega), fld_setFld_above _ _ _ _ _ _ (Nat.le_refl i) hi h, fld1]

/-- GAU_EVT_CTL as a command writes it: INV, GAUGE and MODE as they stand, and ARM. -/
def evtCtlWord (old : Word) (arm : Bool) : Word := BitVec.ofNat 32 ((old &&& 0x1f6).toNat + bit arm)

theorem evtCtlWord_eq (old : Word) (arm : Bool) : evtCtlWord old arm = (old &&& 0x1f6) ||| BitVec.ofNat 32 (bit arm) := by
  have hdisj : (old &&& 0x1f6) &&& BitVec.ofNat 32 (bit arm) = 0 := by
    rw [BitVec.and_assoc]
    cases arm <;> simp [bit]
  rw [evtCtlWord, BitVec.ofNat_add, BitVec.ofNat_toNat, BitVec.setWidth_eq, BitVec.add_eq_or_of_and_eq_zero _ _ hdisj]

/-- The bits of INV, GAUGE and MODE: the defined ones but ARM. -/
theorem getLsbD_evtCtlRest {i : Nat} (h : i < 32) : (0x1f6 : Word).getLsbD i = ((0x1f7 : Word).getLsbD i && !decide (i = 0)) := by
  decide +revert

theorem getLsbD_evtCtlWord (old : Word) (arm : Bool) {i : Nat} (hi : i < 32) :
    (evtCtlWord old arm).getLsbD i = if i = 0 then arm else old.getLsbD i && (0x1f7 : Word).getLsbD i := by
  have harm : (BitVec.ofNat 32 (bit arm)).getLsbD i = (arm && decide (i = 0)) := by
    cases arm <;> simp [bit, BitVec.getLsbD_one]
  rw [evtCtlWord_eq, BitVec.getLsbD_or, BitVec.getLsbD_and, harm, getLsbD_evtCtlRest hi]
  split
  case isTrue h => simp [h]
  case isFalse h => simp [h]

/-- Writing that word through fields that hold ARM, and INV, GAUGE and MODE or not, moves ARM alone. -/
theorem evtCtlWord_through (old : Word) (arm : Bool) {can : Word} (h : can = 1 ∨ can = 0x1f7) :
    (old &&& ~~~can) ||| (evtCtlWord old arm &&& can) = setFld old 0 0 (bit arm) := by
  apply BitVec.eq_of_getLsbD_eq
  intro i hi
  rw [getLsbD_setFld_bit _ _ _ (by decide), BitVec.getLsbD_or, BitVec.getLsbD_and, BitVec.getLsbD_and,
    BitVec.getLsbD_not, getLsbD_evtCtlWord old arm hi]
  by_cases h0 : i = 0
  · subst h0
    rcases h with rfl | rfl <;> simp
  · rcases h with rfl | rfl
    · simp [h0, hi]
    · simp only [h0, hi, if_false]
      cases old.getLsbD i <;> cases (0x1f7 : Word).getLsbD i <;> rfl

/-- The word carries nothing outside its fields, and moves nothing but ARM. -/
theorem evtCtlWord_reserved (old : Word) (arm : Bool) : evtCtlWord old arm &&& ~~~0x1f7 = 0 := by
  apply BitVec.eq_of_getLsbD_eq
  intro i hi
  rw [BitVec.getLsbD_and, BitVec.getLsbD_not, getLsbD_evtCtlWord old arm hi]
  by_cases h0 : i = 0
  · subst h0
    simp
  · simp only [h0, if_false]
    cases (0x1f7 : Word).getLsbD i <;> simp

theorem evtCtlWord_moves (old : Word) (arm : Bool) : (old ^^^ evtCtlWord old arm) &&& 0x1f6 = 0 := by
  apply BitVec.eq_of_getLsbD_eq
  intro i hi
  rw [BitVec.getLsbD_and, BitVec.getLsbD_xor, getLsbD_evtCtlWord old arm hi, getLsbD_evtCtlRest hi]
  by_cases h0 : i = 0
  · simp [h0]
  · simp only [h0, if_false]
    cases (0x1f7 : Word).getLsbD i <;> simp

theorem evtCtl_masks {k : Nat} (hk : k < 16) :
    regMask .gau k 0xc0 .rw = 0x1f7 ∧ regMask .gau k 0xc0 .rwl = 0 ∧ regMask .gau k 0xc0 .w1c = 0 ∧
      definedMask .gau k 0xc0 = 0x1f7 ∧ (regSpec .gau k 0xc0).isSome = true := by
  decide +kernel +revert

section EvtCtl
variable (s : State) {k : Nat} (hk : k < 16)

/-- An armed unit has INV, GAUGE and MODE frozen (R354). -/
theorem freezes_evtCtl : s.freezes (gauPg k) 0xc0 = freezeIf (s.evtArm k) 0x1f6 13 2 := by
  simp [State.freezes, gauPg, freezeIf]

include hk

theorem lockMask_evtCtl : s.lockMask (gauPg k) 0xc0 = 0 :=
  lockMask_zero s _ _ (evtCtl_masks hk).2.1 (nomatch ·) (nomatch ·)

theorem open_evtCtl : s.open_ (gauPg k) 0xc0 = if s.evtArm k then 1 else 0x1f7 := by
  obtain ⟨hrw, hrwl, -⟩ := evtCtl_masks hk
  rw [State.open_, lockMask_evtCtl s hk, freezes_evtCtl]
  change (regMask .gau k 0xc0 .rw ||| regMask .gau k 0xc0 .rwl) &&& _ = _
  rw [hrw, hrwl]
  cases s.evtArm k <;> decide

/-- A write of ARM with the fields beside it as they stand records nothing. -/
theorem writeEvents_evtCtl (rq : Requester) (m arm : Bool) :
    s.writeEvents (gauPg k) 0xc0 ⟨rq, m, BitVec.allOnes 32, evtCtlWord (s.reg (gauPg k) 0xc0) arm⟩ = [] := by
  obtain ⟨hrw, hrwl, -, hdef, -⟩ := evtCtl_masks hk
  have hmoves : ∀ f ∈ freezeIf (s.evtArm k) 0x1f6 13 2,
      s.wanted (gauPg k) 0xc0 ⟨rq, m, BitVec.allOnes 32, evtCtlWord (s.reg (gauPg k) 0xc0) arm⟩ &&& f.bits = 0 := by
    intro f hf
    obtain rfl : f = ⟨0x1f6, 13, 2⟩ := by
      unfold freezeIf at hf
      split at hf
      · exact List.mem_singleton.mp hf
      · exact absurd hf List.not_mem_nil
    change (s.reg (gauPg k) 0xc0 ^^^ evtCtlWord (s.reg (gauPg k) 0xc0) arm) &&& BitVec.allOnes 32 &&&
      (regMask .gau k 0xc0 .rw ||| regMask .gau k 0xc0 .rwl) &&& 0x1f6 = 0
    rw [hrw, hrwl, BitVec.and_allOnes, BitVec.and_assoc]
    exact evtCtlWord_moves _ arm
  have hrsvd : rsvdEvents (gauPg k) 0xc0 ⟨rq, m, BitVec.allOnes 32, evtCtlWord (s.reg (gauPg k) 0xc0) arm⟩ = [] := by
    refine if_neg ?_
    change ¬(evtCtlWord (s.reg (gauPg k) 0xc0) arm &&& BitVec.allOnes 32 &&& ~~~definedMask .gau k 0xc0 != 0) = true
    rw [hdef, BitVec.and_allOnes, evtCtlWord_reserved]
    decide
  rw [State.writeEvents, hrsvd, lockMask_evtCtl s hk, freezes_evtCtl,
    List.filter_eq_nil_iff.mpr fun f hf => by rw [hmoves f hf]; decide]
  simp

/-- That write moves ARM, whether or not the fields beside it are frozen, and its effect follows. -/
theorem writeField_evtCtl (rq : Requester) (m arm : Bool) :
    writeField s (gauPg k) 0xc0 ⟨rq, m, BitVec.allOnes 32, evtCtlWord (s.reg (gauPg k) 0xc0) arm⟩ none =
      gauWritten (s.setF (gauPg k) 0xc0 0 0 (bit arm)) k 0xc0
        ⟨rq, m, BitVec.allOnes 32, evtCtlWord (s.reg (gauPg k) 0xc0) arm⟩ (s.reg (gauPg k) 0xc0) := by
  have hw1c : ∀ x : Word, x &&& ~~~(regMask .gau k 0xc0 .w1c &&& evtCtlWord (s.reg (gauPg k) 0xc0) arm) = x := by
    intro x
    have hzero : ∀ v : Word, 0 &&& v = 0 := fun _ => BitVec.zero_and
    rw [(evtCtl_masks hk).2.2.1, hzero]
    exact BitVec.and_allOnes
  have hopen : s.open_ (gauPg k) 0xc0 = 1 ∨ s.open_ (gauPg k) 0xc0 = 0x1f7 := by
    rw [open_evtCtl s hk]
    cases s.evtArm k <;> simp
  rw [writeField_plain s _ _ _ _ (writeEvents_evtCtl s hk rq m arm) (fun _ _ => rfl)]
  simp only [BitVec.and_allOnes, evtCtlWord_through _ _ hopen]
  unfold applyWrite
  simp only [Write.x, BitVec.and_allOnes]
  rw [if_neg (by decide), show (gauPg k).ty = .gau from rfl, show (gauPg k).inst = k from rfl, hw1c]
  rfl

end EvtCtl

/-! ### What the write comes to -/

theorem evtArm_bit (s : State) (k : Nat) : s.evtArm k = (s.reg (gauPg k) 0xc0).getLsbD 0 := by
  rw [State.evtArm, State.f, fld1, bit_eq]

theorem evtArm_setF (s : State) (k : Nat) (arm : Bool) : (s.setF (gauPg k) 0xc0 0 0 (bit arm)).evtArm k = arm := by
  rw [State.evtArm, f_setF_same _ _ _ _ _ _ (by decide) (by decide)]
  cases arm <;> rfl

/-- ARM has been written to a disarmed unit (R354). -/
theorem gauWritten_arm {s : State} {k : Nat} (w : Write) (h : s.evtArm k = false) :
    gauWritten (s.setF (gauPg k) 0xc0 0 0 1) k 0xc0 w (s.reg (gauPg k) 0xc0) = gauArm (s.setF (gauPg k) 0xc0 0 0 1) k := by
  have hnew : (s.setF (gauPg k) 0xc0 0 0 1).evtArm k = true := evtArm_setF s k true
  unfold gauWritten
  rw [if_neg (by decide), if_pos rfl, ← evtArm_bit, h, hnew]

/-- ARM = 0 has been written to an armed unit (R354). -/
theorem gauWritten_disarm {s : State} {k : Nat} (w : Write) (h : s.evtArm k = true) :
    gauWritten (s.setF (gauPg k) 0xc0 0 0 0) k 0xc0 w (s.reg (gauPg k) 0xc0) = gauDisarm (s.setF (gauPg k) 0xc0 0 0 0) k := by
  have hnew : (s.setF (gauPg k) 0xc0 0 0 0).evtArm k = false := evtArm_setF s k false
  unfold gauWritten
  rw [if_neg (by decide), if_pos rfl, ← evtArm_bit, h, hnew]

/-- The times of R354 as the registers hold them permit ARM = 1. -/
def State.mayArm (s : State) (k : Nat) : Bool :=
  armOk (s.f (gauPg k) 0xc0 2 1) (s.reg64 (gauPg k) 0xc8) (s.reg64 (gauPg k) 0xd0) (s.reg (gauPg k) 0xd8).toNat

theorem gauArm_setF (s : State) (k : Nat) :
    gauArm (s.setF (gauPg k) 0xc0 0 0 1) k = if s.mayArm k then s.setF (gauPg k) 0xc0 0 0 1
      else gauCfgErr ((s.setF (gauPg k) 0xc0 0 0 1).setF (gauPg k) 0xc0 0 0 0) k 1 := by
  have hmay : (s.setF (gauPg k) 0xc0 0 0 1).mayArm k = s.mayArm k := by
    have hmode := f_setF_above s (gauPg k) 0xc0 0 0 1 2 1 (by decide) (by decide) (by decide)
    have htime : ∀ o, o / 4 ≠ 0xc0 / 4 → (s.setF (gauPg k) 0xc0 0 0 1).reg (gauPg k) o = s.reg (gauPg k) o :=
      fun o ho => reg_setF_other s 0 0 1 (regKey_ne_off _ ho)
    simp only [State.mayArm, State.reg64, hmode, htime 0xc8 (by decide), htime (0xc8 + 4) (by decide),
      htime 0xd0 (by decide), htime (0xd0 + 4) (by decide), htime 0xd8 (by decide)]
  rw [← hmay]
  rfl

theorem exec_gauEvtArm {s : State} {rq : Requester} {k : Nat} (hs : s.serves rq) (hk : k < 16) (arm : Bool) :
    exec (.gauEvtArm rq k arm) s = .next (settle (keepTick s
      (gauWritten (s.setF (gauPg k) 0xc0 0 0 (bit arm)) k 0xc0
        ⟨rq, s.modeOf rq, BitVec.allOnes 32, evtCtlWord (s.reg (gauPg k) 0xc0) arm⟩ (s.reg (gauPg k) 0xc0)) k)) := by
  have hfield := writeAt_field s rq (gauPg k) 0xc0 15 (evtCtlWord (s.reg (gauPg k) 0xc0) arm) (s.modeOf rq) none hs.2
    (by decide) (decide_eq_true hk) (by decide) (by decide) (evtCtl_masks hk).2.2.2.2 (by cases rq <;> rfl) rfl
    (nomatch ·.1) rfl rfl
  have hwrite : regPut s rq (gauPg k) 0xc0 ((s.reg (gauPg k) 0xc0 &&& 0x1f6).toNat + bit arm) = keepTick s
      (gauWritten (s.setF (gauPg k) 0xc0 0 0 (bit arm)) k 0xc0
        ⟨rq, s.modeOf rq, BitVec.allOnes 32, evtCtlWord (s.reg (gauPg k) 0xc0) arm⟩ (s.reg (gauPg k) 0xc0)) k := by
    unfold regPut regWrite
    rw [if_pos (by simp [State.reaches, hs.1]), ← evtCtlWord, writeReg, hfield, be_all, writeField_evtCtl s hk]
    exact if_pos ⟨rfl, by decide⟩
  rw [← hwrite]
  rfl

/-- Nothing of the event unit changes within the tick: ARM, MODE and the Gauge value that it follows. -/
theorem evt_keepTick {old new : State} {k : Nat} (hst : (new.gauge k).stale = (old.gauge k).stale)
    (hval : ∀ j, (new.gauge j).value = (old.gauge j).value) :
    (keepTick old new k).evtArmed k = old.evtArmed k ∧ (keepTick old new k).evtMode k = old.evtMode k ∧
      (keepTick old new k).evtG k = old.evtG k := by
  have hctl : (keepTick old new k).gin k 0xc0 = old.gin k 0xc0 := gin_keepTick hst (by decide)
  have hgval : ∀ j, (keepTick old new k).gval j = old.gval j := by
    intro j
    rw [State.gval, State.gval, ← hval]
    by_cases hj : j = k
    · rw [hj, gauge_keepTick_same]
    · rw [gauge_keepTick_other _ _ hj]
  simp only [State.evtArmed, State.evtMode, State.evtG, State.ginF, hctl, hgval, and_self]

/-! ### The obligation -/

theorem exec_oneShotFire (s : State) (k : Nat) : exec (.oneShotFire k) s = .next (settle (oneShotFire s k)) := rfl
theorem exec_periodicFire (s : State) (k : Nat) : exec (.periodicFire k) s = .next (settle (periodicFire s k)) := rfl
theorem exec_windowFire (s : State) (k : Nat) : exec (.windowFire k) s = .next (settle (windowFire s k)) := rfl
theorem exec_pulseEnd (s : State) (k : Nat) : exec (.pulseEnd k) s = .next (settle (pulseEnd s k)) := rfl

@[simp] theorem settle_evtArmed (s : State) (k : Nat) : (settle s).evtArmed k = s.evtArmed k := by
  simp only [State.evtArmed, State.ginF, settle_gin]

@[simp] theorem settle_evtA (s : State) (k : Nat) : (settle s).evtA k = s.evtA k := by
  simp only [State.evtA, State.gin64, settle_gin]

@[simp] theorem settle_evtArm (s : State) (k : Nat) : (settle s).evtArm k = s.evtArm k := by
  simp only [State.evtArm, settle_f]

/-- Whether a time of 64 bits is due. -/
theorem reached64_eq_true {g a : Nat} (ha : a < 2 ^ 64) : reached64 g a = true ↔ (g + 2 ^ 64 - a) % 2 ^ 64 < 2 ^ 63 := by
  rw [reached64_iff, behind_of_lt g ha]

theorem reached64_eq_false {g a : Nat} (ha : a < 2 ^ 64) : reached64 g a = false ↔ ¬(g + 2 ^ 64 - a) % 2 ^ 64 < 2 ^ 63 := by
  rw [← reached64_eq_true ha, Bool.not_eq_true]

theorem withGauges_withGauges (s : State) (a b : Tab Gauge) : (s.withGauges a).withGauges b = s.withGauges b := rfl

theorem regs_keepTick (old new : State) (k : Nat) : (keepTick old new k).regs = new.regs := by
  rw [keepTick_eq]
  split <;> rfl

/-- A register write of the page touches the registers and the Gauges alone. -/
theorem keepTick_touches {s new : State} (k : Nat) (hnew : new = (s.withRegs new.regs).withGauges new.gauges) :
    keepTick s new k = (s.withRegs (keepTick s new k).regs).withGauges (keepTick s new k).gauges := by
  calc keepTick s new k = new.withGauges (keepTick s new k).gauges := keepTick_withGauges s new k
    _ = ((s.withRegs new.regs).withGauges new.gauges).withGauges (keepTick s new k).gauges := by
      rw [← hnew]
    _ = (s.withRegs (keepTick s new k).regs).withGauges (keepTick s new k).gauges := by
      rw [withGauges_withGauges, regs_keepTick]

theorem keepTick_evtArm (old new : State) (k : Nat) : (keepTick old new k).evtArm k = new.evtArm k := by
  rw [State.evtArm, f_keepTick, State.evtArm]

/-- A write of registers and of a Gauge touches nothing else. -/
theorem setReg_touches (s : State) (p : PageId) (off : Nat) (v : Word) :
    s.setReg p off v = (s.withRegs (s.setReg p off v).regs).withGauges (s.setReg p off v).gauges := rfl

theorem setGauge_touches {s new : State} (k : Nat) (g : Gauge) (hnew : new = (s.withRegs new.regs).withGauges new.gauges) :
    new.setGauge k g = (s.withRegs (new.setGauge k g).regs).withGauges (new.setGauge k g).gauges := by
  calc new.setGauge k g = new.withGauges (new.setGauge k g).gauges := rfl
    _ = ((s.withRegs new.regs).withGauges new.gauges).withGauges (new.setGauge k g).gauges := by rw [← hnew]
    _ = (s.withRegs (new.setGauge k g).regs).withGauges (new.setGauge k g).gauges := rfl

section Arm
variable {s : State} {rq : Requester} {k : Nat} (hs : s.serves rq) (hk : k < 16)
include hs hk

/-- ARM = 1 where R354 permits it: the unit goes on as it was until the next tick. -/
theorem arm_accepted (harm : s.evtArm k = false) (hok : s.mayArm k = true) :
    exec (.gauEvtArm rq k true) s = .next (settle (keepTick s (s.setF (gauPg k) 0xc0 0 0 1) k)) := by
  have hexec := exec_gauEvtArm hs hk true
  rwa [show bit true = 1 from rfl, gauWritten_arm _ harm, gauArm_setF, if_pos hok] at hexec

theorem arm_refused (harm : s.evtArm k = false) (hbad : s.mayArm k = false) :
    exec (.gauEvtArm rq k true) s = .next (settle (keepTick s
      (gauCfgErr ((s.setF (gauPg k) 0xc0 0 0 1).setF (gauPg k) 0xc0 0 0 0) k 1) k)) := by
  have hexec := exec_gauEvtArm hs hk true
  rwa [show bit true = 1 from rfl, gauWritten_arm _ harm, gauArm_setF, if_neg (by rw [hbad]; decide)] at hexec

theorem disarm_accepted (harm : s.evtArm k = true) :
    exec (.gauEvtArm rq k false) s = .next (settle (keepTick s (gauDisarm (s.setF (gauPg k) 0xc0 0 0 0) k) k)) := by
  have hexec := exec_gauEvtArm hs hk false
  rwa [show bit false = 0 from rfl, gauWritten_disarm _ harm] at hexec

end Arm

theorem gauge_gauDisarm (s : State) (k : Nat) : (gauDisarm s k).gauge k = { s.gauge k with cut := true } :=
  gauge_setGauge_same ..

theorem value_gauDisarm (s : State) (k j : Nat) : ((gauDisarm s k).gauge j).value = (s.gauge j).value := by
  by_cases hj : j = k
  · rw [hj, gauge_gauDisarm]
  · rw [gauDisarm, gauge_setGauge_other _ _ hj]

/-- Settles O43: ARM by what its write leaves in force, each firing by the case that is due, a periodic unit by the number of
periods that `skipCount` passes over. -/
theorem gaugeEvents : Obligations.GaugeEvents := by
  intro s k hk p g acts written waits due
  have hdue : reached64 (s.evtG k) (s.evtA k) = true ↔ due := reached64_eq_true (gin64_lt s k 0xc8)
  have hready : ∀ m, acts → s.evtMode k = m → s.evtReady k m = true := by
    rintro m ⟨hon, hsel, harm⟩ hmode
    exact (evtReady_iff s k m).mpr ⟨by simp [State.unitActs, hsel]; exact hon, by simp [State.evtArmed, harm], hmode⟩
  refine ⟨fun rq hs => ⟨?accepted, ?refused, ?disarmed⟩, ?oneShot, ?periodic, ?window, ?pulse⟩
  case accepted =>
    intro harm hok
    refine ⟨_, arm_accepted hs hk harm hok, ⟨?_, ?_⟩, ?_, ?_⟩
    · exact keepTick_touches k (setReg_touches ..)
    · exact evt_keepTick (by rw [gauge_setF]) fun _ => by rw [gauge_setF]
    · rw [keepTick_evtArm]
      exact evtArm_setF s k true
    · rw [gauge_keepTick_same, gauge_setF]
  case refused =>
    intro harm hbad
    refine ⟨_, arm_refused hs hk harm hbad, ?_, ?_⟩
    · rw [settle_evtArm, keepTick_evtArm, State.evtArm, State.f, gauCfgErr, reg_raise_gauPg _ _ _ _ (by decide)]
      exact evtArm_setF _ k false
    · rw [settle_f, f_keepTick, gauCfgErr, raise_sticky _ _ _ _ _ (by decide) (by decide), if_pos rfl]
  case disarmed =>
    intro harm
    refine ⟨_, disarm_accepted hs hk harm, ⟨?_, ?_⟩, ?_, ?_⟩
    · exact keepTick_touches k (setGauge_touches k _ (setReg_touches ..))
    · exact evt_keepTick (by rw [gauge_gauDisarm, gauge_setF]) fun _ => by rw [value_gauDisarm, gauge_setF]
    · rw [keepTick_evtArm]
      exact evtArm_setF s k false
    · rw [gauge_keepTick_same, gauge_gauDisarm, gauge_setF]
  case oneShot =>
    intro hacts hmode hnone
    refine ⟨fun h hw => ?_, fun h hw => ?_, fun h => ?_⟩
    · have hfire := oneShotFire_of_due (hready 0 hacts hmode) hnone (hdue.mpr h)
      rw [if_pos hw] at hfire
      rw [exec_oneShotFire, hfire]
      refine ⟨fun hst => ?_, _, rfl, ?_, ?_⟩
      · rw [gauPutF_of_fresh (by rw [gauge_setFired]; exact hst)]
        rfl
      · rw [settle_f, gauPutF, fired_gauPut _ _ (by decide), fired_setFired]
      · rw [settle_evtArmed, evtArmed_gauPutF]
    · rw [exec_oneShotFire, oneShotFire_of_due (hready 0 hacts hmode) hnone (hdue.mpr h), if_neg hw]
      rfl
    · rw [exec_oneShotFire, oneShotFire_of_not_due (Bool.eq_false_iff.mpr fun hr => h (hdue.mp hr))]
  case periodic =>
    intro hacts hmode hB h
    have hr := hready 1 hacts hmode
    have hd := hdue.mpr h
    obtain ⟨hmissed, hnext⟩ := missed_spec (s.evtG k) (s.evtA k) (Nat.pos_of_ne_zero hB) (gin64_lt s k 0xd0)
    have hbehind : ∀ a, behind (s.evtG k) a = (s.evtG k + 2 ^ 64 - a % 2 ^ 64) % 2 ^ 64 := fun _ => rfl
    refine ⟨_, missed (s.evtG k) (s.evtA k) (s.evtB k), exec_periodicFire s k, ?_, ?_, hmissed, ?_, ?_, fun hn => ?_⟩
    · rw [settle_evtA, evtA_periodicFire hr hd]
    · rw [settle_evtA, evtA_periodicFire hr hd]
      exact hnext
    · rw [settle_f, fired_periodicFire hr hd]
    · rw [settle_gauge]
      exact gauge_periodicFire hr hd
    · rw [settle_f, missed_periodicFire hr hd hn]
  case window =>
    intro hacts hmode
    have hr := hready 2 hacts hmode
    refine ⟨fun h => ?_, fun hoff hnow => ?_, fun hon hnow => ?_⟩
    · rw [exec_windowFire, windowFire_of_same hr h]
    · rw [exec_windowFire, windowFire_of_changed hr hnow hoff]
      rfl
    · rw [exec_windowFire, windowFire_of_changed hr hnow hon]
      rfl
  case pulse =>
    intro e he
    have hpast : reached64 (s.evtG k) e.toNat = true ↔ (s.evtG k + 2 ^ 64 - e.toNat) % 2 ^ 64 < 2 ^ 63 :=
      reached64_eq_true e.isLt
    refine ⟨fun h hu hmode => ?_, fun h hu hmode => ?_, fun h => ?_⟩
    · rw [exec_pulseEnd, pulseEnd_of_past he hu (hpast.mpr h), if_pos hmode]
      refine ⟨fun hst => ?_, _, rfl, ?_, ?_⟩
      · rw [gauPutF_of_fresh (by rw [gauge_setGauge_same]; exact hst)]
      · rw [settle_gauge, gauPutF, gauge_gauPut, gauge_setGauge_same]
      · rw [settle_evtArmed, evtArmed_gauPutF]
    · rw [exec_pulseEnd, pulseEnd_of_past he hu (hpast.mpr h), if_neg hmode]
    · rw [exec_pulseEnd, pulseEnd_of_not_past he (h.imp_left fun hn => Bool.eq_false_iff.mpr fun hr => hn (hpast.mp hr))]

end Sys2Proof.Machine

/-! What the Gauges take from a state, and what leaves that alone: the pins and the UARTs, and all that a trace unit does when it
writes to HBM over the ring. -/
namespace Sys2Proof.Machine

/-! ### The view of the Gauges -/

/-- What a reference tick of the Gauges reads and reaches: the Gauges, the registers and marks of their pages, the tick's number,
and the edge lines as the tick in hand and the one before found them. -/
structure GaugeView where
  gauges : Tab Gauge
  regs : Fin 16 → Fin 4096 → Word
  marks : Fin 16 → Fin 32 → Bool
  ticks : Nat
  edl3 : BitVec 32
  edl4 : BitVec 32

def State.gaugeView (s : State) : GaugeView :=
  ⟨s.gauges, fun k o => s.reg (gauPg k) o, fun k b => s.fresh (gauPg k) b, s.ticks, s.pins.edl3, s.pins.edl4⟩

section View
variable (s : State)

@[simp] theorem view_withOut (v : List OutMsg) : (s.withOut v).gaugeView = s.gaugeView := rfl
@[simp] theorem view_withFree (v : Nat) : (s.withFree v).gaugeView = s.gaugeView := rfl
@[simp] theorem view_withDrw (v : Drawer) : (s.withDrw v).gaugeView = s.gaugeView := rfl
@[simp] theorem view_withVnr (v : Veneer) : (s.withVnr v).gaugeView = s.gaugeView := rfl
@[simp] theorem view_withHbm (v : Tab (BitVec 8)) : (s.withHbm v).gaugeView = s.gaugeView := rfl
@[simp] theorem view_withHbmUe (v : List Nat) : (s.withHbmUe v).gaugeView = s.gaugeView := rfl
@[simp] theorem view_withAlarms (v : Tab Bool) : (s.withAlarms v).gaugeView = s.gaugeView := rfl
@[simp] theorem view_withTraces (v : Tab TraceUnit) : (s.withTraces v).gaugeView = s.gaugeView := rfl
@[simp] theorem view_withCores (v : Tab Core) : (s.withCores v).gaugeView = s.gaugeView := rfl
@[simp] theorem view_withNet (v : List RingReq) : (s.withNet v).gaugeView = s.gaugeView := rfl
@[simp] theorem view_withWd (v : Dispatcher) : (s.withWd v).gaugeView = s.gaugeView := rfl
@[simp] theorem view_withHst (v : HostIf) : (s.withHst v).gaugeView = s.gaugeView := rfl
@[simp] theorem view_withPwr (v : Power) : (s.withPwr v).gaugeView = s.gaugeView := rfl
theorem view_withPins (v : Pins) :
    (s.withPins v).gaugeView = { s.gaugeView with edl3 := v.edl3, edl4 := v.edl4 } := rfl
theorem view_withTicks (n : Nat) : (s.withTicks n).gaugeView = { s.gaugeView with ticks := n } := rfl
theorem view_withRecent_nil : (s.withRecent []).gaugeView = { s.gaugeView with marks := fun _ _ => false } := rfl

@[simp] theorem view_ite (c : Prop) [Decidable c] (a b : State) :
    (if c then a else b).gaugeView = if c then a.gaugeView else b.gaugeView := by
  split <;> rfl

theorem view_foldl {α : Type} (f : State → α → State) (l : List α) (h : ∀ t, ∀ a ∈ l, (f t a).gaugeView = t.gaugeView) :
    (l.foldl f s).gaugeView = s.gaugeView := by
  induction l generalizing s with
  | nil => rfl
  | cons a l ih =>
    rw [List.foldl_cons, ih (f s a) fun t b hb => h t b (List.mem_cons_of_mem a hb), h s a List.mem_cons_self]

end View

/-! ### Other pages -/

/-- The page is none of the Gauges': its number lies below or above theirs. -/
def OffGauges (p : PageId) : Prop := pageNum p < 0x1b000 ∨ 0x1b010 ≤ pageNum p

theorem pageNum_gauPg (k : Nat) : pageNum (gauPg k) = 0x1b000 + k := by
  change 0x1b * 4096 + k = _
  omega

theorem regKey_eq (p : PageId) (off : Nat) : regKey p off = pageNum p * 1024 + off / 4 := rfl

theorem ringPg_offGauges (k : Nat) : OffGauges (ringPg k) := by
  right
  simp only [pageNum, ringPg, pageCode]
  omega

theorem trcPg_offGauges (c : Nat) : OffGauges (trcPg c) := by
  right
  simp only [pageNum, trcPg, pageCode]
  omega

theorem edlPg_offGauges : OffGauges (pg .edl) := by
  right
  decide

theorem vnrPg_offGauges (addr : Nat) : OffGauges (vnrPg (stackOf addr)) := by
  left
  unfold stackOf
  split <;> decide

section OffGauges
variable (s : State) {p : PageId} (hp : OffGauges p)
include hp

theorem view_setReg {off : Nat} (v : Word) (ho : off < 4096) : (s.setReg p off v).gaugeView = s.gaugeView := by
  have hregs : ∀ (k : Fin 16) (o : Fin 4096), (s.setReg p off v).reg (gauPg k) o = s.reg (gauPg k) o := by
    intro k o
    refine reg_setReg_other s v ?_
    have hk := k.isLt
    have ho' := o.isLt
    unfold OffGauges at hp
    rw [regKey_eq, regKey_eq, pageNum_gauPg]
    omega
  unfold State.gaugeView
  simp only [hregs]
  rfl

theorem view_mark {b : Nat} (hb : b < 32) : (s.mark p b).gaugeView = s.gaugeView := by
  have hmarks : ∀ (k : Fin 16) (i : Fin 32), (s.mark p b).fresh (gauPg k) i = s.fresh (gauPg k) i := by
    intro k i
    have hk := k.isLt
    have hi := i.isLt
    have hne : periodMark (gauPg k) i ≠ periodMark p b := by
      unfold OffGauges at hp
      unfold periodMark
      rw [pageNum_gauPg]
      omega
    simp [State.fresh, State.mark, hne]
  unfold State.gaugeView
  simp only [hmarks]
  rfl

theorem view_setF {off : Nat} (hi lo v : Nat) (ho : off < 4096) : (s.setF p off hi lo v).gaugeView = s.gaugeView :=
  view_setReg s hp _ ho

theorem view_bump {off : Nat} (hi lo n : Nat) (ho : off < 4096) : (s.bump p off hi lo n).gaugeView = s.gaugeView :=
  view_setF s hp hi lo _ ho

theorem view_raiseAt {b : Nat} (info a : Nat) (hb : b < 32) : (raiseAt s p b info a).gaugeView = s.gaugeView := by
  refine raiseAt_keeps (g := State.gaugeView) (fun t off v hoff => view_setReg t hp v ?_) (fun t i hi => view_mark t hp ?_) s
    info a
  · simp only [List.mem_cons, List.not_mem_nil, or_false] at hoff
    omega
  · simp only [List.mem_cons, List.not_mem_nil, or_false] at hi
    omega

theorem view_raise {b : Nat} (info : Nat) (hb : b < 32) : (raise s p b info).gaugeView = s.gaugeView :=
  view_raiseAt s hp info 0 hb

end OffGauges

/-! ### The ring network -/

theorem view_noRoute (s : State) (src dst code : Nat) : (noRoute s src dst code).gaugeView = s.gaugeView :=
  view_raise s (ringPg_offGauges _) _ (by decide)

theorem view_flits (s : State) (k n : Nat) : (s.bump (ringPg k) 0x40 31 0 n).gaugeView = s.gaugeView :=
  view_bump s (ringPg_offGauges k) _ _ _ (by decide)

theorem view_countFlits (s : State) (src dst ring n : Nat) : (countFlits s src dst ring n).gaugeView = s.gaugeView := by
  unfold countFlits
  dsimp only
  repeat' split
  all_goals simp only [view_flits]

theorem view_flitError (s : State) (src dst hub ring stop code : Nat) :
    (flitError s src dst hub ring stop code).gaugeView = s.gaugeView :=
  view_raise s (ringPg_offGauges _) _ (by decide)

theorem view_tripLost (s : State) (q : RingReq) (stage : RingStage) : (tripLost s q stage).gaugeView = s.gaugeView := by
  unfold tripLost ringTimedOut
  rw [view_withNet, view_raise _ (ringPg_offGauges _) _ (by decide), view_bump s (ringPg_offGauges _) _ _ _ (by decide)]

theorem view_tripGo (s : State) (q : RingReq) (t : HostTrip) : (tripGo s q t).2.gaugeView = s.gaugeView := by
  unfold tripGo
  dsimp only
  repeat' split
  all_goals simp only [view_withNet, view_noRoute, view_countFlits, view_flitError, view_tripLost]

theorem view_tripEnd (s : State) (q : RingReq) (k status cls : Nat) (data : List Nat) :
    (tripEnd s q k status cls data).gaugeView = s.gaugeView := by
  unfold tripEnd
  split
  · rfl
  · exact view_countFlits ..

/-! ### Veneer -/

theorem view_hbmWrite (s : State) (a : Nat) (bs : List Nat) : (s.hbmWrite a bs).gaugeView = s.gaugeView := rfl

theorem view_putBlock (s : State) (stack rgn : Nat) (r : Region) (i b : Nat) (bytes : List Nat) :
    (putBlock s stack rgn r i b bytes).gaugeView = s.gaugeView := rfl

theorem view_bumpTree (s : State) (stack rgn : Nat) (r : Region) (n i b e : Nat) :
    (bumpTree s stack rgn r n i b e).gaugeView = s.gaugeView := by
  induction n generalizing s i b e with
  | zero => rfl
  | succ n ih =>
    unfold bumpTree
    rw [view_putBlock, view_ite, ih]
    exact ite_self _

theorem view_linePut (s : State) (stack rgn addr : Nat) (bytes : List Nat) :
    (linePut s stack rgn addr bytes).gaugeView = s.gaugeView := by
  unfold linePut
  dsimp only
  split
  · rw [view_hbmWrite, view_hbmWrite, view_bumpTree]
  · exact view_hbmWrite ..

theorem view_showPoison (s : State) (addr : Nat) : (showPoison s (stackOf addr)).gaugeView = s.gaugeView := by
  unfold showPoison
  rw [view_foldl, view_setF s (vnrPg_offGauges addr) _ _ _ (by decide)]
  intro t i hi
  have := List.mem_range.mp hi
  exact view_setF t (vnrPg_offGauges addr) _ _ _ (by omega)

theorem view_addPoison (s : State) (addr rgn lvl b : Nat) :
    (addPoison s (stackOf addr) rgn lvl b).gaugeView = s.gaugeView := by
  unfold addPoison
  rw [view_showPoison, view_withVnr]

/-- The mark of an alarm is none of the Gauges' pages'. -/
theorem view_alarmMark (s : State) : (s.withRecent (alarmMark :: s.recent)).gaugeView = s.gaugeView := by
  have hmarks : ∀ (k : Fin 16) (i : Fin 32), (s.withRecent (alarmMark :: s.recent)).fresh (gauPg k) i =
      s.fresh (gauPg k) i := by
    intro k i
    have hne : periodMark (gauPg k) i ≠ alarmMark := by
      unfold periodMark alarmMark
      rw [pageNum_gauPg]
      omega
    simp [State.fresh, hne]
  unfold State.gaugeView
  simp only [hmarks]
  rfl

theorem view_alarm (s : State) (addr : Nat) : (alarm s (stackOf addr)).gaugeView = s.gaugeView := by
  unfold alarm
  dsimp only
  generalize (List.range 9).foldl _ _ = a
  refine (view_alarmMark ((s.bump (vnrPg (stackOf addr)) 0x50 31 0).withAlarms a)).trans ?_
  rw [view_withAlarms, view_bump s (vnrPg_offGauges addr) _ _ _ (by decide)]

theorem classSticky_lt (cls : Nat) : classSticky cls < 32 := by
  unfold classSticky
  repeat' split
  all_goals decide

theorem view_vnrFail (s : State) (addr cls : Nat) (write : Bool) (rq : VRequester) (region a : Nat) :
    (vnrFail s (stackOf addr) cls write rq region a).gaugeView = s.gaugeView := by
  have hraise := view_raiseAt s (vnrPg_offGauges addr) (vnrInfo cls write rq region) (a / 64 * 64) (classSticky_lt cls)
  unfold vnrFail
  dsimp only
  split
  · rw [view_alarm, hraise]
  · exact hraise

theorem view_vnrLine (s : State) (rq : VRequester) (addr : Nat) (wr : Option (List Nat × Nat)) :
    (vnrLine s rq addr wr).2.2.gaugeView = s.gaugeView := by
  unfold vnrLine
  dsimp only
  repeat' split
  all_goals simp only [view_vnrFail, view_addPoison, view_linePut]

/-- A write of the capture unit crosses the ring, is performed at its stack, and its answer crosses back. -/
theorem view_netWrite (s : State) (rq : VRequester) (addr : Nat) (bytes : List Nat) (be : Nat) (t : HostTrip) :
    (netWrite s rq addr bytes be t).2.gaugeView = s.gaugeView := by
  have hwrite : ∀ u : State, (vnrWrite u rq addr bytes be).2.gaugeView = u.gaugeView := by
    intro u
    unfold vnrWrite
    with_reducible exact view_vnrLine u rq addr _
  unfold netWrite
  split
  case h_1 => exact hwrite s
  case h_2 src _ =>
    have hgo := view_tripGo s (s.unitReq src (hbmNode addr) 2 addr bytes.length bytes) t
    dsimp only
    split <;> rename_i htrip <;> rw [htrip] at hgo
    · rw [view_tripEnd, hwrite, hgo]
    · exact hgo

theorem view_vnrWriteRun (s : State) (rq : VRequester) (addr : Nat) (bytes : List Nat) :
    (vnrWriteRun s rq addr bytes).2.gaugeView = s.gaugeView := by
  unfold vnrWriteRun
  generalize linePieces (bytes.length / 64 + 2) addr bytes.length = l
  suffices ∀ acc : Nat × State, (l.foldl (fun (acc : Nat × State) e =>
      if acc.1 ≠ 0 then acc
      else netWrite acc.2 rq e.1 ((bytes.drop (e.1 - addr)).take e.2) (2 ^ e.2 - 1) clearTrip) acc).2.gaugeView =
        acc.2.gaugeView from this (0, s)
  induction l with
  | nil => exact fun _ => rfl
  | cons e l ih =>
    intro acc
    rw [List.foldl_cons, ih]
    split
    · rfl
    · exact view_netWrite ..

/-! ### Trace units and cores -/

theorem view_setTr (s : State) (c : Nat) (t : TraceUnit) : (s.setTr c t).gaugeView = s.gaugeView := rfl

theorem view_traceDrain (s : State) (c : Nat) : (traceDrain s c).gaugeView = s.gaugeView := by
  have hset : ∀ (v : Word) (b : Nat), ((s.setReg (trcPg c) 0x64 v).setF (trcPg c) 0x44 3 3 b).gaugeView = s.gaugeView := by
    intro v b
    rw [view_setF _ (trcPg_offGauges c) _ _ _ (by decide), view_setReg s (trcPg_offGauges c) _ (by decide)]
  unfold traceDrain
  dsimp only
  split
  · rfl
  · split
    · repeat' split
      all_goals
        simp only [view_raise _ (trcPg_offGauges c) _ (show (11 : Nat) < 32 by decide), view_setTr, view_vnrWriteRun, hset]
    · rw [view_setTr, hset]

theorem view_countCycle (s : State) (c : Nat) : (countCycle s c).gaugeView = s.gaugeView := by
  unfold countCycle
  dsimp only
  split <;> rfl

/-! ### The pins, before the Gauges -/

/-- Pins whose edge lines of the last two ticks stand leave the view. -/
theorem view_samePins (s : State) (v : Pins) (h3 : v.edl3 = s.pins.edl3) (h4 : v.edl4 = s.pins.edl4) :
    (s.withPins v).gaugeView = s.gaugeView := by
  rw [view_withPins, h3, h4]
  rfl

theorem view_setPort (s : State) (p : Nat) (x : Port) : (s.setPort p x).gaugeView = s.gaugeView := rfl

theorem view_drivePad (s : State) (pin : Nat) (v : BitVec 2) : (drivePad s pin v).gaugeView = s.gaugeView := by
  unfold drivePad
  split <;> rfl

theorem view_driveFn (s : State) (p fn : Nat) (v : BitVec 2) : (driveFn s p fn v).gaugeView = s.gaugeView :=
  view_foldl s _ _ fun t pin _ => view_drivePad t pin v

theorem view_lateArrives (s : State) (e : LateDrive) : (lateArrives s e).gaugeView = s.gaugeView := by
  unfold lateArrives
  split
  · exact view_drivePad ..
  · split <;> rfl

theorem view_latePads (s : State) : (latePads s).gaugeView = s.gaugeView := by
  unfold latePads
  dsimp only
  rw [view_foldl]
  · exact view_samePins s _ rfl rfl
  · intro t e _
    rw [view_ite, view_lateArrives, ite_self]

theorem view_uartShow (s : State) (p : Nat) (lvl : Bool) : (uartShow s p lvl).gaugeView = s.gaugeView := by
  unfold uartShow
  dsimp only
  split
  · rfl
  · rw [view_driveFn, view_setPort]

theorem view_uartTick (s : State) (p : Nat) : (uartTick s p).gaugeView = s.gaugeView := by
  unfold uartTick uartStart
  dsimp only
  repeat' split
  all_goals simp only [view_uartShow, view_setPort]

theorem view_i2cShow (s : State) (p : Nat) (l : BitVec 2) : (i2cShow s p l).gaugeView = s.gaugeView := by
  unfold i2cShow
  dsimp only
  repeat' split
  all_goals simp only [view_driveFn, view_setPort]

theorem view_i2cTick (s : State) (p : Nat) : (i2cTick s p).gaugeView = s.gaugeView := by
  unfold i2cTick
  dsimp only
  repeat' split
  all_goals simp only [view_i2cShow, view_setPort]

theorem view_targetDrives (s : State) (t : TargetLevels) : (targetDrives s t).gaugeView = s.gaugeView := rfl

theorem view_drawerSettles (s : State) : (drawerSettles s).gaugeView = s.gaugeView := by
  unfold drawerSettles
  split <;> rfl

/-! ### The edge lines, after the Gauges -/

/-- Events of the edge lines leave the view; a line that has lost its source reads 0. -/
theorem view_edgeSources (s : State) : (edgeSources s).gaugeView = { s.gaugeView with edl3 := s.pins.edl3 &&& s.edlOk } := by
  unfold edgeSources
  dsimp only
  rw [view_foldl]
  · rfl
  · intro t n _
    split
    · exact view_raise t edlPg_offGauges n (by decide)
    · rfl

/-- The pipeline moves: what a tick found, the next one finds a tick old. -/
theorem view_edgeLines (s : State) : ∃ e, (edgeLines s).gaugeView = { s.gaugeView with edl3 := e, edl4 := s.pins.edl3 } :=
  ⟨_, view_edgeSources _⟩

/-! ### The tick -/

/-- The state in which the Gauges take their turns: a new period has begun, and the pins have moved. -/
def beforeGauges (s : State) (t : TargetLevels) : State :=
  targetDrives ((List.range 12).foldl (fun s p => i2cTick (uartTick s p) p) (latePads (s.withRecent []))) t

theorem view_beforeGauges (s : State) (t : TargetLevels) :
    (beforeGauges s t).gaugeView = { s.gaugeView with marks := fun _ _ => false } := by
  unfold beforeGauges
  rw [view_targetDrives, view_foldl _ _ _ fun t p _ => by rw [view_i2cTick, view_uartTick], view_latePads, view_withRecent_nil]

/-- After the Gauges' turns: the edge lines move, and the tick is counted. -/
def afterGauges (s : State) : State :=
  let s := edgeLines s
  (s.withTicks (s.ticks + 1)).withPins
    { s.pins with sync1 := s.pins.ball, sync2 := s.pins.sync1, keys := agedKeys s.pins.keys }

theorem view_afterGauges (s : State) : ∃ e, (afterGauges s).gaugeView =
    { s.gaugeView with ticks := s.ticks + 1, edl3 := e, edl4 := s.pins.edl3 } := by
  obtain ⟨e, he⟩ := view_edgeLines s
  have hticks : (edgeLines s).ticks = s.ticks := congrArg GaugeView.ticks he
  have hedl3 : (edgeLines s).pins.edl3 = e := congrArg GaugeView.edl3 he
  have hedl4 : (edgeLines s).pins.edl4 = s.pins.edl3 := congrArg GaugeView.edl4 he
  refine ⟨e, ?_⟩
  unfold afterGauges
  dsimp only
  rw [view_withPins, view_withTicks, he, hticks, hedl3, hedl4]

theorem referenceTick_of_runs {s : State} (t : TargetLevels) (h : s.refRuns = true) :
    referenceTick s t = afterGauges ((List.range 16).foldl gaugeTick (beforeGauges s t)) := if_pos h

theorem referenceTick_of_stopped {s : State} (t : TargetLevels) (h : s.refRuns = false) :
    referenceTick s t = s.withRecent [] :=
  if_neg (by rw [show (s.withRecent []).refRuns = s.refRuns from rfl, h]; decide)

/-- The state of a tick in which `referenceTick` begins: the forced step and the vectors' conditions are those of a new period, and
the Drawer's buffer holds the writes of the last one. -/
def periodBegun (s : State) : State :=
  let s := s.withPwr { s.pwr with justForced := false }
  drawerSettles (s.withHst { s.hst with conds := s.vectorConds, rearms := 0 })

theorem refRuns_periodBegun (s : State) : (periodBegun s).refRuns = s.refRuns := by
  unfold periodBegun drawerSettles
  dsimp only
  split <;> rfl

theorem view_periodBegun (s : State) : (periodBegun s).gaugeView = s.gaugeView := by
  unfold periodBegun
  dsimp only
  rw [view_drawerSettles, view_withHst, view_withPwr]

theorem tick_of_stopped {s : State} (t : TargetLevels) (h : s.refRuns = false) :
    tick s t = (periodBegun s).withRecent [] := by
  have hstop := referenceTick_of_stopped t ((refRuns_periodBegun s).trans h)
  change (let s := referenceTick (periodBegun s) t; if s.refRuns then _ else s) = _
  rw [hstop]
  exact if_neg (by rw [show ((periodBegun s).withRecent []).refRuns = (periodBegun s).refRuns from rfl,
    refRuns_periodBegun, h]; decide)

/-- What follows the Gauges in a tick, and what follows a command, leave the view. -/
theorem view_tick (s : State) (t : TargetLevels) : (tick s t).gaugeView = (referenceTick (periodBegun s) t).gaugeView := by
  change (let s := referenceTick (periodBegun s) t
    if s.refRuns then (List.range 8).foldl (fun s c => countCycle (traceDrain s c) c) (s.withWd { s.wd with records := 0, turn := 0 })
    else s).gaugeView = _
  dsimp only
  rw [view_ite, view_foldl _ _ _ fun u c _ => by rw [view_countCycle, view_traceDrain], view_withWd, ite_self]

theorem view_settle (s : State) : (settle s).gaugeView = s.gaugeView := by
  simp only [State.gaugeView, State.fresh, settle_gauges, settle_reg, settle_recent, settle_ticks, settle_pins_edl3,
    settle_pins_edl4]

end Sys2Proof.Machine

/-! A reference tick of one Gauge (R333-R335, R341, R346): which register and which part of the Gauge it moves, and to what; and
that of another Gauge's tick it sees nothing. -/
namespace Sys2Proof.Machine

/-! ### What was written takes effect -/

/-- The Gauge as a tick begins with it: no register is kept in force, and a source that was written is selected afresh. -/
def Gauge.writesTaken (g : Gauge) : Gauge :=
  if g.chosen then
    { g with stale := [], chosen := false, edge := none, winAt := none, count := 0, closed := none, ref := none, lost := false }
  else { g with stale := [] }

theorem gauge_enterHoldover (s : State) (k reason : Nat) (href : (s.gauge k).ref = none) (hlost : (s.gauge k).lost = false) :
    (enterHoldover s k reason).gauge k = s.gauge k := by
  unfold enterHoldover
  dsimp only
  rw [gauge_raise, gauge_setF, gauge_setF]
  split
  · rfl
  · rw [gauge_setGauge_same, ← href, ← hlost]

/-- Holdover is entered, or met again: its Gauge is in it, its edges counted afresh, with the reason recorded. -/
theorem enterHoldover_regs (s : State) (k reason : Nat) :
    (enterHoldover s k reason).holdover k = true ∧ (enterHoldover s k reason).f (gauPg k) 0x44 6 4 = 0 ∧
      (enterHoldover s k reason).f (gauPg k) 0x10 8 8 = 1 := by
  unfold enterHoldover
  dsimp only
  refine ⟨?_, ?_, ?_⟩
  · rw [State.holdover, State.f, reg_raise_gauPg _ _ _ _ (by decide), ← State.f,
      f_setF_below _ _ _ _ _ _ _ _ (by decide) (by decide) (by decide) (by decide),
      f_setF_same _ _ _ _ _ _ (by decide) (by decide)]
    rfl
  · rw [State.f, reg_raise_gauPg _ _ _ _ (by decide), ← State.f]
    exact (f_setF_same _ _ _ _ _ _ (by decide) (by decide)).trans rfl
  · rw [raise_sticky _ _ _ _ _ (by decide) (by decide), if_pos rfl]

/-- The state of a Gauge whose source is selected afresh, before holdover begins or ends. -/
def sourceReset (s : State) (k : Nat) : State :=
  (s.setGauge k { s.gauge k with stale := [] }).setGauge k (s.gauge k).writesTaken

theorem gauge_sourceReset (s : State) (k : Nat) : (sourceReset s k).gauge k = (s.gauge k).writesTaken :=
  gauge_setGauge_same ..

theorem writesTaken_stale (g : Gauge) : g.writesTaken.stale = [] := by
  unfold Gauge.writesTaken
  split <;> rfl

theorem writesTaken_of_chosen {g : Gauge} (h : g.chosen = true) : g.writesTaken =
    { g with stale := [], chosen := false, edge := none, winAt := none, count := 0, closed := none, ref := none, lost := false } :=
  if_pos h

theorem writesTaken_of_not_chosen {g : Gauge} (h : g.chosen = false) : g.writesTaken = { g with stale := [] } :=
  if_neg (by rw [h]; decide)

theorem takeWrites_of_not_chosen {s : State} {k : Nat} (h : (s.gauge k).chosen = false) :
    takeWrites s k = s.setGauge k (s.gauge k).writesTaken := by
  have hkept : ¬({ s.gauge k with stale := [] } : Gauge).chosen = true := Bool.eq_false_iff.mp h
  unfold takeWrites
  dsimp only
  rw [gauge_setGauge_same, writesTaken_of_not_chosen h]
  exact if_neg hkept

/-- A source that was written: PPS or TCLK begins in holdover, LOCAL in the place of another ends it (R341, R346). -/
theorem takeWrites_of_chosen {s : State} {k : Nat} (h : (s.gauge k).chosen = true) :
    takeWrites s k = if s.f (gauPg k) 0x40 1 0 ≠ 0 then enterHoldover (sourceReset s k) k 3
      else if s.gauSrc k ≠ 0 then
        raise (((sourceReset s k).setF (gauPg k) 0x44 1 1 0).setF (gauPg k) 0x44 6 4 0) (gauPg k) 8 3
      else sourceReset s k := by
  have hreset : sourceReset s k = (s.setGauge k { s.gauge k with stale := [] }).setGauge k { s.gauge k with
      stale := [], chosen := false, edge := none, winAt := none, count := 0, closed := none, ref := none, lost := false } := by
    rw [sourceReset, writesTaken_of_chosen h]
  have hsrc : (sourceReset s k).gauSrc k = s.f (gauPg k) 0x40 1 0 := by
    rw [State.gauSrc, State.ginF, gin_of_fresh (by rw [gauge_sourceReset, writesTaken_stale])]
    rfl
  unfold takeWrites sourceChosen
  dsimp only
  rw [gauge_setGauge_same, if_pos h, ← hreset, hsrc]

theorem gauge_takeWrites (s : State) (k : Nat) : (takeWrites s k).gauge k = (s.gauge k).writesTaken := by
  cases h : (s.gauge k).chosen with
  | false => rw [takeWrites_of_not_chosen h, gauge_setGauge_same]
  | true =>
    rw [takeWrites_of_chosen h]
    split
    · rw [gauge_enterHoldover, gauge_sourceReset]
      · rw [gauge_sourceReset, writesTaken_of_chosen h]
      · rw [gauge_sourceReset, writesTaken_of_chosen h]
    · split
      · rw [gauge_raise, gauge_setF, gauge_setF, gauge_sourceReset]
      · exact gauge_sourceReset ..

/-! ### The tick of a Gauge, in two steps -/

/-- What was written has taken effect, and LOCAL has taken its increment (R334, R335). -/
def incTaken (s : State) (k : Nat) : State :=
  if (takeWrites s k).gauSrc k = 0 then
    (takeWrites s k).setReg64 (gauPg k) 0x58 ((takeWrites s k).reg64 (gauPg k) 0x50 % 2 ^ 40)
  else takeWrites s k

/-- The Gauge after the tick, from the state in which its writes have taken effect, and its source. -/
def movedGauge (u : State) (k src : Nat) : Gauge :=
  let p := gauPg k
  let g := eventTick (u.unitActs k) (u.f p 0xc0 8 8 == 1) (u.gauge k)
  if u.on p then
    gaugeWindow src (u.f p 0x7c 4 0) u.ticks
      (gaugeEdge src (u.f p 0x40 9 9 == 1) (u.edgeBefore k) (u.edgeLevel k) u.ticks (gaugeAdvance g (u.reg64 p 0x58 % 2 ^ 40)))
  else g

theorem gaugeTick_eq (s : State) (k : Nat) :
    gaugeTick s k = (incTaken s k).setGauge k (movedGauge (incTaken s k) k ((takeWrites s k).gauSrc k)) := by
  unfold movedGauge
  rw [apply_ite ((incTaken s k).setGauge k)]
  rfl

/-! ### What the tick of a Gauge leaves alone -/

section Keeps
variable {β : Type} {g : State → β} {k : Nat} (hgauge : ∀ t x, g (State.setGauge t k x) = g t)
  (hmark : ∀ (t : State) b, b ∈ [3, 4, 5, 8] → g (t.mark (gauPg k) b) = g t)

section TakeWrites
variable (hreg : ∀ (t : State) off v, off ∈ [0x10, 0x18, 0x1c, 0x44] → g (t.setReg (gauPg k) off v) = g t)
include hmark hreg

theorem raise_gauPg_keeps (s : State) (info : Nat) : g (raise s (gauPg k) 8 info) = g s := by
  refine raise_keeps (fun t off v hoff => ?_) (fun t i hi => hmark t i ?_) s info
  · rcases hoff with hoff | ⟨hty, -⟩
    · refine hreg t off v ?_
      simp only [List.mem_cons, List.not_mem_nil, or_false] at hoff ⊢
      omega
    · exact nomatch hty
  · simp only [List.mem_cons, List.not_mem_nil, or_false] at hi ⊢
    omega

include hgauge

theorem enterHoldover_keeps (s : State) (reason : Nat) : g (enterHoldover s k reason) = g s := by
  have hif : g (if s.holdover k then s else s.setGauge k { s.gauge k with ref := none, lost := false }) = g s := by
    split
    · rfl
    · exact hgauge ..
  unfold enterHoldover
  dsimp only
  rw [raise_gauPg_keeps hmark hreg, State.setF, hreg _ _ _ (by simp), State.setF, hreg _ _ _ (by simp), hif]

theorem takeWrites_keeps (s : State) : g (takeWrites s k) = g s := by
  have hreset : g (sourceReset s k) = g s := (hgauge ..).trans (hgauge ..)
  cases h : (s.gauge k).chosen with
  | false => rw [takeWrites_of_not_chosen h, hgauge]
  | true =>
    rw [takeWrites_of_chosen h]
    split
    · rw [enterHoldover_keeps hgauge hmark hreg, hreset]
    · split
      · rw [raise_gauPg_keeps hmark hreg, State.setF, hreg _ _ _ (by simp), State.setF, hreg _ _ _ (by simp), hreset]
      · exact hreset

end TakeWrites

variable (hreg : ∀ (t : State) off v, off ∈ [0x10, 0x18, 0x1c, 0x44, 0x58, 0x5c] → g (t.setReg (gauPg k) off v) = g t)
include hgauge hmark hreg

theorem incTaken_keeps (s : State) : g (incTaken s k) = g s := by
  have htake : g (takeWrites s k) = g s := by
    refine takeWrites_keeps hgauge hmark (fun t off v hoff => hreg t off v ?_) s
    simp only [List.mem_cons, List.not_mem_nil, or_false] at hoff ⊢
    omega
  unfold incTaken
  split
  · rw [State.setReg64, hreg _ _ _ (by simp), hreg _ _ _ (by simp), htake]
  · exact htake

/-- A reading that no change of the Gauge, of these registers and of the marks of its page reaches, its tick does not reach. -/
theorem gaugeTick_keeps (s : State) : g (gaugeTick s k) = g s := by
  rw [gaugeTick_eq, hgauge, incTaken_keeps hgauge hmark hreg]

end Keeps

/-! ### What the tick finds in force -/

section InForce
variable (s : State) (k : Nat)

theorem reg_takeWrites {o : Nat} (h : 0x20 ≤ o) (h44 : o / 4 ≠ 0x44 / 4) :
    (takeWrites s k).reg (gauPg k) o = s.reg (gauPg k) o := by
  refine takeWrites_keeps (g := fun t => t.reg (gauPg k) o) (fun _ _ => rfl) (fun _ _ _ => rfl) (fun t off v hoff => ?_) s
  refine reg_setReg_other t v (regKey_ne_off _ ?_)
  simp only [List.mem_cons, List.not_mem_nil, or_false] at hoff
  omega

theorem reg_incTaken {o : Nat} (h : 0x20 ≤ o) (h44 : o / 4 ≠ 0x44 / 4) (h58 : o / 4 ≠ 0x58 / 4) (h5c : o / 4 ≠ 0x5c / 4) :
    (incTaken s k).reg (gauPg k) o = s.reg (gauPg k) o := by
  refine incTaken_keeps (g := fun t => t.reg (gauPg k) o) (fun _ _ => rfl) (fun _ _ _ => rfl) (fun t off v hoff => ?_) s
  refine reg_setReg_other t v (regKey_ne_off _ ?_)
  simp only [List.mem_cons, List.not_mem_nil, or_false] at hoff
  omega

theorem on_incTaken (j : Nat) : (incTaken s k).on (gauPg j) = s.on (gauPg j) := by
  refine incTaken_keeps (g := fun t => t.on (gauPg j)) (fun _ _ => rfl) (fun _ _ _ => rfl) (fun t off v hoff => ?_) s
  have hkey : regKey (gauPg j) 0x0c ≠ regKey (gauPg k) off := by
    simp only [List.mem_cons, List.not_mem_nil, or_false] at hoff
    simp only [regKey_eq, pageNum_gauPg]
    omega
  simp only [State.on, State.st, f_setReg_other t _ _ v hkey]

theorem pins_incTaken : (incTaken s k).pins = s.pins :=
  incTaken_keeps (g := State.pins) (fun _ _ => rfl) (fun _ _ _ => rfl) (fun _ _ _ _ => rfl) s

theorem ticks_incTaken : (incTaken s k).ticks = s.ticks :=
  incTaken_keeps (g := State.ticks) (fun _ _ => rfl) (fun _ _ _ => rfl) (fun _ _ _ _ => rfl) s

theorem gauge_incTaken : (incTaken s k).gauge k = (s.gauge k).writesTaken := by
  rw [← gauge_takeWrites]
  unfold incTaken
  split <;> rfl

theorem gin_incTaken {o : Nat} (h : 0x20 ≤ o) (h44 : o / 4 ≠ 0x44 / 4) (h58 : o / 4 ≠ 0x58 / 4) (h5c : o / 4 ≠ 0x5c / 4) :
    (incTaken s k).gin k o = s.reg (gauPg k) o := by
  rw [gin_of_fresh (by rw [gauge_incTaken, writesTaken_stale]), reg_incTaken s k h h44 h58 h5c]

theorem gauSrc_takeWrites : (takeWrites s k).gauSrc k = s.f (gauPg k) 0x40 1 0 := by
  rw [State.gauSrc, State.ginF, gin_of_fresh (by rw [gauge_takeWrites, writesTaken_stale]),
    reg_takeWrites s k (by decide) (by decide), State.f]

/-- The increment of the tick (R334, R335): that of LOCAL is GAU_INC, of another source the one in force. -/
def State.tickInc : Nat :=
  if s.f (gauPg k) 0x40 1 0 = 0 then s.reg64 (gauPg k) 0x50 % 2 ^ 40 else s.reg64 (gauPg k) 0x58 % 2 ^ 40

theorem inc_incTaken : (incTaken s k).reg64 (gauPg k) 0x58 % 2 ^ 40 = s.tickInc k := by
  have h58 : (takeWrites s k).reg64 (gauPg k) 0x58 = s.reg64 (gauPg k) 0x58 := by
    simp only [State.reg64, reg_takeWrites s k (show 0x20 ≤ 0x58 by decide) (by decide),
      reg_takeWrites s k (show 0x20 ≤ 0x58 + 4 by decide) (by decide)]
  have h50 : (takeWrites s k).reg64 (gauPg k) 0x50 = s.reg64 (gauPg k) 0x50 := by
    simp only [State.reg64, reg_takeWrites s k (show 0x20 ≤ 0x50 by decide) (by decide),
      reg_takeWrites s k (show 0x20 ≤ 0x50 + 4 by decide) (by decide)]
  rw [incTaken, gauSrc_takeWrites, State.tickInc]
  split
  · rw [reg64_set _ _ _ _ (by omega), h50, Nat.mod_mod]
  · rw [h58]

/-- The Gauge as the tick leaves it, from the state before the tick. -/
def tickedGauge : Gauge :=
  let p := gauPg k
  let src := s.f p 0x40 1 0
  let line := s.f p 0x40 8 4
  let g := eventTick (s.on p && s.on (gauPg (s.f p 0xc0 7 4))) (s.f p 0xc0 8 8 == 1) (s.gauge k).writesTaken
  if s.on p then
    gaugeWindow src (s.f p 0x7c 4 0) s.ticks (gaugeEdge src (s.f p 0x40 9 9 == 1) (s.pins.edl4.getLsbD line)
      (s.pins.edl3.getLsbD line) s.ticks (gaugeAdvance g (s.tickInc k)))
  else g

theorem gauge_gaugeTick : (gaugeTick s k).gauge k = tickedGauge s k := by
  have hreg := @reg_incTaken s k
  have hgin := @gin_incTaken s k
  rw [gaugeTick_eq, gauge_setGauge_same, gauSrc_takeWrites, movedGauge, tickedGauge]
  simp only [State.unitActs, State.ginF, State.edgeBefore, State.edgeLevel, inc_incTaken, gauge_incTaken, on_incTaken,
    pins_incTaken, ticks_incTaken, State.f, hgin (show 0x20 ≤ 0x40 by decide) (by decide) (by decide) (by decide),
    hgin (show 0x20 ≤ 0xc0 by decide) (by decide) (by decide) (by decide),
    hreg (show 0x20 ≤ 0x40 by decide) (by decide) (by decide) (by decide),
    hreg (show 0x20 ≤ 0x7c by decide) (by decide) (by decide) (by decide),
    hreg (show 0x20 ≤ 0xc0 by decide) (by decide) (by decide) (by decide)]

end InForce

/-! ### The tick's effect on one Gauge -/

/-- What the tick of Gauge k leaves in a state t, from the state s before it: in the Gauge, in GAU_CTL, GAU_STS and GAU_INC_NOW, and
among the events and marks of its page. -/
structure GaugeTicked (s t : State) (k : Nat) : Prop where
  gauge : t.gauge k = tickedGauge s k
  src : t.f (gauPg k) 0x40 1 0 = s.f (gauPg k) 0x40 1 0
  keeps : (s.gauge k).chosen = false → (∀ b, b < 32 → t.fresh (gauPg k) b = s.fresh (gauPg k) b) ∧ t.holdover k = s.holdover k
  enters : (s.gauge k).chosen = true → s.f (gauPg k) 0x40 1 0 ≠ 0 →
    t.holdover k = true ∧ t.f (gauPg k) 0x44 6 4 = 0 ∧ t.f (gauPg k) 0x10 8 8 = 1
  leaves : (s.gauge k).chosen = true → s.f (gauPg k) 0x40 1 0 = 0 → s.gauSrc k ≠ 0 →
    t.holdover k = false ∧ t.f (gauPg k) 0x10 8 8 = 1
  inc : s.f (gauPg k) 0x40 1 0 = 0 → t.reg64 (gauPg k) 0x58 = s.tickInc k

/-- Below GAU_INC_NOW the registers are those that the writes taken have left. -/
theorem reg_gaugeTick (s : State) (k : Nat) {o : Nat} (h : o < 0x58) :
    (gaugeTick s k).reg (gauPg k) o = (takeWrites s k).reg (gauPg k) o := by
  rw [gaugeTick_eq, reg_setGauge, incTaken]
  split
  · rw [reg_set64_other _ _ _ _ _ _ (regKey_ne_off _ (by omega)) (regKey_ne_off _ (by omega))]
  · rfl

theorem fresh_gaugeTick (s : State) (k : Nat) (p : PageId) (b : Nat) :
    (gaugeTick s k).fresh p b = (takeWrites s k).fresh p b := by
  rw [gaugeTick_eq]
  change (incTaken s k).fresh p b = _
  unfold incTaken
  split <;> rfl

theorem f_gaugeTick (s : State) (k : Nat) {o : Nat} (hi lo : Nat) (h : o < 0x58) :
    (gaugeTick s k).f (gauPg k) o hi lo = (takeWrites s k).f (gauPg k) o hi lo := by
  rw [State.f, reg_gaugeTick s k h, State.f]

theorem holdover_gaugeTick (s : State) (k : Nat) : (gaugeTick s k).holdover k = (takeWrites s k).holdover k := by
  rw [State.holdover, f_gaugeTick s k _ _ (by decide), State.holdover]

theorem gaugeTicked_gaugeTick (s : State) (k : Nat) : GaugeTicked s (gaugeTick s k) k where
  gauge := gauge_gaugeTick s k
  src := by rw [f_gaugeTick s k _ _ (by decide), State.f, reg_takeWrites s k (by decide) (by decide), State.f]
  keeps h := by
    simp only [fresh_gaugeTick, holdover_gaugeTick, takeWrites_of_not_chosen h]
    exact ⟨fun _ _ => rfl, rfl⟩
  enters h hsrc := by
    rw [holdover_gaugeTick, f_gaugeTick s k _ _ (by decide), f_gaugeTick s k _ _ (by decide), takeWrites_of_chosen h,
      if_pos hsrc]
    exact enterHoldover_regs ..
  leaves h hsrc hold := by
    rw [holdover_gaugeTick, f_gaugeTick s k _ _ (by decide), takeWrites_of_chosen h, if_neg (fun hne => hne hsrc), if_pos hold]
    refine ⟨?_, ?_⟩
    · rw [State.holdover, State.f, reg_raise_gauPg _ _ _ _ (by decide), ← State.f,
        f_setF_below _ _ _ _ _ _ _ _ (by decide) (by decide) (by decide) (by decide),
        f_setF_same _ _ _ _ _ _ (by decide) (by decide)]
      rfl
    · rw [raise_sticky _ _ _ _ _ (by decide) (by decide), if_pos rfl]
  inc h := by
    have hmod : s.tickInc k < 2 ^ 40 := by
      rw [State.tickInc, if_pos h]
      exact Nat.mod_lt _ (by decide)
    have hlt : (incTaken s k).reg64 (gauPg k) 0x58 < 2 ^ 40 := by
      rw [incTaken, gauSrc_takeWrites, if_pos h, reg64_set _ _ _ _ (by omega)]
      exact Nat.mod_lt _ (by decide)
    rw [gaugeTick_eq, ← inc_incTaken, Nat.mod_eq_of_lt hlt]
    rfl

/-! ### The Gauges take their turns -/

/-- One Gauge's part of the view: the Gauge, and the registers and marks of its page. -/
structure GaugePart where
  gauge : Gauge
  regs : Fin 4096 → Word
  marks : Fin 32 → Bool

def GaugeView.part (v : GaugeView) (k : Fin 16) : GaugePart :=
  ⟨Tab.get (fun _ => Gauge.empty) v.gauges k, v.regs k, v.marks k⟩

/-- What one Gauge's turn reads: its part, the tick's number, the edge lines, and which Gauges' pages are ON. -/
structure GaugeTurn where
  part : GaugePart
  ticks : Nat
  edl3 : BitVec 32
  edl4 : BitVec 32
  on : Fin 16 → Bool

def GaugeView.turn (v : GaugeView) (k : Fin 16) : GaugeTurn :=
  ⟨v.part k, v.ticks, v.edl3, v.edl4, fun j => fld (v.regs j ⟨0x0c, by decide⟩).toNat 1 0 == stOn⟩

theorem turn_eq (s : State) (k : Fin 16) : s.gaugeView.turn k =
    ⟨⟨s.gauge k, fun o => s.reg (gauPg k) o, fun b => s.fresh (gauPg k) b⟩, s.ticks, s.pins.edl3, s.pins.edl4,
      fun j => s.on (gauPg j)⟩ := rfl

/-- A Gauge's turn is nothing to another Gauge. -/
theorem turn_gaugeTick_other (s : State) {j : Nat} {k : Fin 16} (h : j ≠ k) :
    (gaugeTick s j).gaugeView.turn k = s.gaugeView.turn k := by
  have hk := k.isLt
  refine gaugeTick_keeps (g := fun t => t.gaugeView.turn k) (fun t x => ?_) (fun t b hb => ?_) (fun t off v hoff => ?_) s
  · rw [turn_eq, turn_eq, gauge_setGauge_other t x (Ne.symm h)]
    rfl
  · have hfresh : ∀ i : Fin 32, (t.mark (gauPg j) b).fresh (gauPg k) i = t.fresh (gauPg k) i := by
      intro i
      have hi := i.isLt
      have hne : periodMark (gauPg k) i ≠ periodMark (gauPg j) b := by
        simp only [List.mem_cons, List.not_mem_nil, or_false] at hb
        simp only [periodMark, pageNum_gauPg]
        omega
      simp [State.fresh, State.mark, hne]
    simp only [turn_eq, hfresh]
    rfl
  · simp only [List.mem_cons, List.not_mem_nil, or_false] at hoff
    have hregs : ∀ o : Fin 4096, (t.setReg (gauPg j) off v).reg (gauPg k) o = t.reg (gauPg k) o := by
      intro o
      have ho := o.isLt
      refine reg_setReg_other t v ?_
      simp only [regKey_eq, pageNum_gauPg]
      omega
    have hon : ∀ i : Fin 16, (t.setReg (gauPg j) off v).on (gauPg i) = t.on (gauPg i) := by
      intro i
      have hkey : regKey (gauPg i) 0x0c ≠ regKey (gauPg j) off := by
        simp only [regKey_eq, pageNum_gauPg]
        omega
      simp only [State.on, State.st, f_setReg_other t _ _ v hkey]
    simp only [turn_eq, hregs, hon]
    rfl

/-- Where every turn but its own is nothing to a reading, the fold of the turns shows what its own turn shows, taken in a state
that shows what the fold began with. -/
theorem foldl_turn {β : Type} {f : State → Nat → State} {g : State → β} {k : Nat} (l : List Nat) (hl : l.Nodup) (hk : k ∈ l)
    (hother : ∀ t, ∀ j ∈ l, j ≠ k → g (f t j) = g t) (s : State) : ∃ w, g w = g s ∧ g (l.foldl f s) = g (f w k) := by
  induction l generalizing s with
  | nil => exact absurd hk List.not_mem_nil
  | cons a l ih =>
    obtain ⟨hnot, hl⟩ := List.nodup_cons.mp hl
    have htail : ∀ t, ∀ j ∈ l, j ≠ k → g (f t j) = g t := fun t j hj => hother t j (List.mem_cons_of_mem a hj)
    by_cases ha : a = k
    · subst ha
      have hrest : ∀ (m : List Nat) (t : State), (∀ j ∈ m, j ∈ l) → g (m.foldl f t) = g t := by
        intro m
        induction m with
        | nil => exact fun _ _ => rfl
        | cons b m ihm =>
          intro t hm
          have hb := hm b List.mem_cons_self
          rw [List.foldl_cons, ihm _ fun j hj => hm j (List.mem_cons_of_mem b hj),
            htail t b hb fun e => hnot (e ▸ hb)]
      exact ⟨s, rfl, hrest l (f s a) fun _ hj => hj⟩
    · obtain ⟨w, hw, hfold⟩ := ih hl ((List.mem_cons.mp hk).resolve_left (Ne.symm ha)) htail (f s a)
      exact ⟨w, hw.trans (hother s a List.mem_cons_self ha), hfold⟩

section SamePart
variable {s u : State} {k : Fin 16} (h : s.gaugeView.part k = u.gaugeView.part k)
include h

theorem gauge_of_part : s.gauge k = u.gauge k := congrArg GaugePart.gauge h

theorem reg_of_part {o : Nat} (ho : o < 4096) : s.reg (gauPg k) o = u.reg (gauPg k) o :=
  congrFun (congrArg GaugePart.regs h) ⟨o, ho⟩

theorem f_of_part {o : Nat} (hi lo : Nat) (ho : o < 4096) : s.f (gauPg k) o hi lo = u.f (gauPg k) o hi lo := by
  rw [State.f, reg_of_part h ho, State.f]

theorem reg64_of_part {o : Nat} (ho : o + 4 < 4096) : s.reg64 (gauPg k) o = u.reg64 (gauPg k) o := by
  rw [State.reg64, reg_of_part h (by omega), reg_of_part h ho, State.reg64]

theorem fresh_of_part {b : Nat} (hb : b < 32) : s.fresh (gauPg k) b = u.fresh (gauPg k) b :=
  congrFun (congrArg GaugePart.marks h) ⟨b, hb⟩

theorem holdover_of_part : s.holdover k = u.holdover k := by
  rw [State.holdover, f_of_part h _ _ (by decide), State.holdover]

theorem gauSrc_of_part : s.gauSrc k = u.gauSrc k := by
  simp only [State.gauSrc, State.ginF, gin_def, gauge_of_part h, reg_of_part h (show 0x40 < 4096 by decide)]

theorem tickInc_of_part : s.tickInc k = u.tickInc k := by
  simp (disch := decide) only [State.tickInc, f_of_part h, reg64_of_part h]

end SamePart

theorem on_of_turn {s u : State} {k : Fin 16} (h : s.gaugeView.turn k = u.gaugeView.turn k) {j : Nat} (hj : j < 16) :
    s.on (gauPg j) = u.on (gauPg j) := congrFun (congrArg GaugeTurn.on h) ⟨j, hj⟩

theorem tickedGauge_of_turn {s u : State} {k : Fin 16} (h : s.gaugeView.turn k = u.gaugeView.turn k) :
    tickedGauge s k = tickedGauge u k := by
  have hpart : s.gaugeView.part k = u.gaugeView.part k := congrArg GaugeTurn.part h
  have hsel : s.on (gauPg (u.f (gauPg k) 0xc0 7 4)) = u.on (gauPg (u.f (gauPg k) 0xc0 7 4)) := on_of_turn h (fld_lt _ 7 4)
  have hticks : s.ticks = u.ticks := congrArg GaugeTurn.ticks h
  have hedl3 : s.pins.edl3 = u.pins.edl3 := congrArg GaugeTurn.edl3 h
  have hedl4 : s.pins.edl4 = u.pins.edl4 := congrArg GaugeTurn.edl4 h
  unfold tickedGauge
  simp (disch := decide) only [f_of_part hpart, gauge_of_part hpart, on_of_turn h k.isLt, tickInc_of_part hpart, hsel, hticks,
    hedl3, hedl4]

/-- What the tick of a Gauge leaves, told of a state that shows the same of the Gauge's turn before it, and of one that shows the
same of the Gauge's part after it. -/
theorem GaugeTicked.congr {s t u v : State} {k : Fin 16} (hs : s.gaugeView.turn k = u.gaugeView.turn k)
    (ht : t.gaugeView.part k = v.gaugeView.part k) (h : GaugeTicked u v k) : GaugeTicked s t k := by
  have hpart : s.gaugeView.part k = u.gaugeView.part k := congrArg GaugeTurn.part hs
  have hgauge := gauge_of_part hpart
  have hsrc : s.f (gauPg k) 0x40 1 0 = u.f (gauPg k) 0x40 1 0 := f_of_part hpart _ _ (by decide)
  refine ⟨?gauge, ?src, fun hc => ?keeps, fun hc h0 => ?enters, fun hc h0 hold => ?leaves, fun h0 => ?inc⟩
  case gauge => rw [gauge_of_part ht, h.gauge, tickedGauge_of_turn hs]
  case src => rw [f_of_part ht _ _ (by decide), h.src, hsrc]
  case keeps =>
    obtain ⟨hfresh, hhold⟩ := h.keeps (hgauge ▸ hc)
    refine ⟨fun b hb => ?_, ?_⟩
    · rw [fresh_of_part ht hb, hfresh b hb, fresh_of_part hpart hb]
    · rw [holdover_of_part ht, hhold, holdover_of_part hpart]
  case enters =>
    rw [holdover_of_part ht, f_of_part ht _ _ (by decide), f_of_part ht _ _ (by decide)]
    exact h.enters (hgauge ▸ hc) (hsrc ▸ h0)
  case leaves =>
    rw [holdover_of_part ht, f_of_part ht _ _ (by decide)]
    exact h.leaves (hgauge ▸ hc) (hsrc ▸ h0) (gauSrc_of_part hpart ▸ hold)
  case inc => rw [reg64_of_part ht (by decide), h.inc (hsrc ▸ h0), tickInc_of_part hpart]

/-- The Gauges' turns, taken one after another, tick each Gauge. -/
theorem gaugeTicked_foldl (s : State) (k : Fin 16) : GaugeTicked s ((List.range 16).foldl gaugeTick s) k := by
  obtain ⟨w, hw, hfold⟩ := foldl_turn (g := fun t => t.gaugeView.turn k) (List.range 16) List.nodup_range
    (List.mem_range.mpr k.isLt) (fun t j _ hj => turn_gaugeTick_other t hj) s
  exact (gaugeTicked_gaugeTick w k).congr hw.symm (congrArg GaugeTurn.part hfold)

/-- The turns leave the tick's number and the edge lines. -/
theorem foldl_gaugeTick_ticks (s : State) : ((List.range 16).foldl gaugeTick s).ticks = s.ticks ∧
    ((List.range 16).foldl gaugeTick s).pins = s.pins := by
  have hkeep : ∀ t k, (gaugeTick t k).ticks = t.ticks ∧ (gaugeTick t k).pins = t.pins := fun t k =>
    ⟨gaugeTick_keeps (g := State.ticks) (fun _ _ => rfl) (fun _ _ _ => rfl) (fun _ _ _ _ => rfl) t,
      gaugeTick_keeps (g := State.pins) (fun _ _ => rfl) (fun _ _ _ => rfl) (fun _ _ _ _ => rfl) t⟩
  induction List.range 16 generalizing s with
  | nil => exact ⟨rfl, rfl⟩
  | cons k l ih =>
    rw [List.foldl_cons]
    exact ⟨(ih _).1.trans (hkeep s k).1, (ih _).2.trans (hkeep s k).2⟩

/-- A reference tick of the device ticks each Gauge, in a new period of which nothing is marked, and counts. -/
theorem gaugeTicked_tick {s : State} (lv : TargetLevels) (h : s.refRuns = true) :
    (settle (tick s lv)).ticks = s.ticks + 1 ∧ (settle (tick s lv)).pins.edl4 = s.pins.edl3 ∧
      ∀ k : Fin 16, GaugeTicked (s.withRecent []) (settle (tick s lv)) k := by
  obtain ⟨u, hu⟩ : ∃ u, u = beforeGauges (periodBegun s) lv := ⟨_, rfl⟩
  have hbefore : u.gaugeView = (s.withRecent []).gaugeView := by
    rw [hu, view_beforeGauges, view_periodBegun, view_withRecent_nil]
  obtain ⟨hticks, hpins⟩ := foldl_gaugeTick_ticks u
  obtain ⟨e, he⟩ := view_afterGauges ((List.range 16).foldl gaugeTick u)
  have hview := (view_settle _).trans ((view_tick s lv).trans
    (congrArg State.gaugeView (referenceTick_of_runs lv ((refRuns_periodBegun s).trans h))))
  rw [← hu, he, hticks, hpins] at hview
  refine ⟨?_, ?_, fun k => ?_⟩
  · exact (congrArg GaugeView.ticks hview).trans (congrArg (GaugeView.ticks · + 1) hbefore)
  · exact (congrArg GaugeView.edl4 hview).trans (congrArg GaugeView.edl3 hbefore)
  · have hpart : (settle (tick s lv)).gaugeView.part k = ((List.range 16).foldl gaugeTick u).gaugeView.part k :=
      (congrArg (GaugeView.part · k) hview).trans rfl
    exact (gaugeTicked_foldl u k).congr (congrArg (GaugeView.turn · k) hbefore).symm hpart

end Sys2Proof.Machine

/-! Settling O41: what the tick leaves in each part of a Gauge. -/
namespace Sys2Proof.Machine

/-! ### The parts of a Gauge, item by item of R334 -/

@[simp] theorem writesTaken_fields (g : Gauge) : let t := g.writesTaken
    t.stale = [] ∧ t.chosen = false ∧ t.value = g.value ∧ t.resid = g.resid ∧ t.set_ = g.set_ ∧ t.adj = g.adj ∧
      t.pulse = g.pulse ∧ t.winOn = g.winOn ∧ t.cut = g.cut ∧ t.edge = (if g.chosen then none else g.edge) ∧
      t.ref = (if g.chosen then none else g.ref) ∧ t.lost = (!g.chosen && g.lost) := by
  cases h : g.chosen with
  | false => simp [writesTaken_of_not_chosen h, h]
  | true => simp [writesTaken_of_chosen h]

@[simp] theorem eventTick_fields (acts inv : Bool) (g : Gauge) : let t := eventTick acts inv g
    t.inv = inv ∧ t.cut = false ∧ t.pulse = (if g.cut then none else g.pulse) ∧ t.winOn = (g.winOn && !g.cut && acts) ∧
      t.stale = g.stale ∧ t.chosen = g.chosen ∧ t.value = g.value ∧ t.resid = g.resid ∧ t.set_ = g.set_ ∧ t.adj = g.adj ∧
      t.edge = g.edge ∧ t.ref = g.ref ∧ t.lost = g.lost := by
  cases h : g.cut <;> simp [eventTick, h]

@[simp] theorem gaugeAdvance_fields (g : Gauge) (inc : Nat) : let t := gaugeAdvance g inc
    t.set_ = none ∧ t.adj = none ∧ t.stale = g.stale ∧ t.chosen = g.chosen ∧ t.inv = g.inv ∧ t.cut = g.cut ∧
      t.pulse = g.pulse ∧ t.winOn = g.winOn ∧ t.edge = g.edge ∧ t.ref = g.ref ∧ t.lost = g.lost := by
  rcases hset : g.set_ with _ | x
  · rcases hadj : g.adj with _ | a <;> simp [gaugeAdvance, hset, hadj]
  · simp [gaugeAdvance, hset]

theorem gaugeAdvance_of_set {g : Gauge} {x : BitVec 64} (inc : Nat) (h : g.set_ = some x) :
    (gaugeAdvance g inc).value = x ∧ (gaugeAdvance g inc).resid = 0 := by
  simp [gaugeAdvance, h]

theorem gaugeAdvance_of_no_set {g : Gauge} (inc : Nat) (h : g.set_ = none) :
    let n := g.value.toNat * 2 ^ 16 + g.resid.toNat + inc
    (gaugeAdvance g inc).resid = BitVec.ofNat 16 n ∧
      (gaugeAdvance g inc).value = BitVec.ofNat 64 (n / 2 ^ 16) + g.adj.getD 0 := by
  rcases hadj : g.adj with _ | a <;> simp [gaugeAdvance, h, hadj]

@[simp] theorem gaugeEdge_fields (src : Nat) (fall before level : Bool) (tick : Nat) (g : Gauge) :
    let t := gaugeEdge src fall before level tick g
    t.value = g.value ∧ t.resid = g.resid ∧ t.set_ = g.set_ ∧ t.adj = g.adj ∧ t.stale = g.stale ∧ t.chosen = g.chosen ∧
      t.inv = g.inv ∧ t.cut = g.cut ∧ t.pulse = g.pulse ∧ t.winOn = g.winOn ∧ t.ref = g.ref ∧ t.lost = g.lost := by
  unfold gaugeEdge
  dsimp only
  split
  · simp
  · split
    · simp
    · split <;> simp

theorem gaugeEdge_pps (fall before level : Bool) (tick : Nat) (g : Gauge) :
    (gaugeEdge 1 fall before level tick g).edge =
      if level ≠ before ∧ level ≠ fall then some (g.value, tick) else g.edge := by
  unfold gaugeEdge
  by_cases h : level ≠ before ∧ level ≠ fall
  · simp [h]
  · have hmiss : (level != before && level != fall) = false := Bool.eq_false_iff.mpr fun hit => h (by simpa using hit)
    simp [h, hmiss]

@[simp] theorem gaugeWindow_fields (src win tick : Nat) (g : Gauge) : let t := gaugeWindow src win tick g
    t.value = g.value ∧ t.resid = g.resid ∧ t.set_ = g.set_ ∧ t.adj = g.adj ∧ t.stale = g.stale ∧ t.chosen = g.chosen ∧
      t.inv = g.inv ∧ t.cut = g.cut ∧ t.pulse = g.pulse ∧ t.winOn = g.winOn ∧ t.edge = g.edge ∧ t.ref = g.ref ∧
      t.lost = g.lost := by
  unfold gaugeWindow
  split <;> simp

/-! ### The parts of a Gauge after the tick -/

section Parts
variable (s : State) (k : Nat)

/-- What the tick does to the event unit of a Gauge, once what was written has taken effect. -/
def unitTaken : Gauge :=
  eventTick (s.on (gauPg k) && s.on (gauPg (s.f (gauPg k) 0xc0 7 4))) (s.f (gauPg k) 0xc0 8 8 == 1) (s.gauge k).writesTaken

@[simp] theorem unitTaken_fields : let g := s.gauge k; let t := unitTaken s k
    t.stale = [] ∧ t.chosen = false ∧ t.inv = (s.f (gauPg k) 0xc0 8 8 == 1) ∧ t.cut = false ∧
      t.pulse = (if g.cut then none else g.pulse) ∧
      t.winOn = (g.winOn && !g.cut && s.on (gauPg k) && s.on (gauPg (s.f (gauPg k) 0xc0 7 4))) ∧
      t.ref = (if g.chosen then none else g.ref) ∧ t.lost = (!g.chosen && g.lost) ∧
      t.edge = (if g.chosen then none else g.edge) ∧
      t.value = g.value ∧ t.resid = g.resid ∧ t.set_ = g.set_ ∧ t.adj = g.adj := by
  simp [unitTaken, Bool.and_assoc]

variable {s k}

theorem tickedGauge_of_off (h : s.on (gauPg k) = false) : tickedGauge s k = unitTaken s k :=
  if_neg (Bool.eq_false_iff.mp h)

theorem tickedGauge_of_on (h : s.on (gauPg k) = true) : tickedGauge s k =
    gaugeWindow (s.f (gauPg k) 0x40 1 0) (s.f (gauPg k) 0x7c 4 0) s.ticks
      (gaugeEdge (s.f (gauPg k) 0x40 1 0) (s.f (gauPg k) 0x40 9 9 == 1) (s.pins.edl4.getLsbD (s.f (gauPg k) 0x40 8 4))
        (s.pins.edl3.getLsbD (s.f (gauPg k) 0x40 8 4)) s.ticks (gaugeAdvance (unitTaken s k) (s.tickInc k))) :=
  if_pos h

variable (s k) in
/-- The parts that no advance moves are those of the event unit. -/
theorem tickedGauge_fields : let t := tickedGauge s k; let u := unitTaken s k
    t.stale = u.stale ∧ t.chosen = u.chosen ∧ t.inv = u.inv ∧ t.cut = u.cut ∧ t.pulse = u.pulse ∧ t.winOn = u.winOn ∧
      t.ref = u.ref ∧ t.lost = u.lost := by
  cases h : s.on (gauPg k) with
  | false => simp [tickedGauge_of_off h]
  | true => simp [tickedGauge_of_on h]

theorem tickedGauge_stands (h : s.on (gauPg k) = false) : let t := tickedGauge s k
    t.value = (s.gauge k).value ∧ t.resid = (s.gauge k).resid ∧ t.set_ = (s.gauge k).set_ ∧ t.adj = (s.gauge k).adj := by
  simp [tickedGauge_of_off h]

theorem tickedGauge_nothing_pending (h : s.on (gauPg k) = true) :
    (tickedGauge s k).set_ = none ∧ (tickedGauge s k).adj = none := by
  simp [tickedGauge_of_on h]

theorem tickedGauge_set (h : s.on (gauPg k) = true) {x : BitVec 64} (hx : (s.gauge k).set_ = some x) :
    (tickedGauge s k).value = x ∧ (tickedGauge s k).resid = 0 := by
  have hset : (unitTaken s k).set_ = some x := by simp [hx]
  simp [tickedGauge_of_on h, gaugeAdvance_of_set _ hset]

/-- Without a pending SET the increment is added to the 80 bits, and a pending ADJ to the value. -/
theorem tickedGauge_advances (h : s.on (gauPg k) = true) (hset : (s.gauge k).set_ = none) :
    let n := (s.gauge k).value.toNat * 2 ^ 16 + (s.gauge k).resid.toNat + s.tickInc k
    (tickedGauge s k).resid = BitVec.ofNat 16 n ∧
      (tickedGauge s k).value = BitVec.ofNat 64 (n / 2 ^ 16) + (s.gauge k).adj.getD 0 := by
  have hset : (unitTaken s k).set_ = none := by simp [hset]
  simp [tickedGauge_of_on h, gaugeAdvance_of_no_set _ hset]

theorem tickedGauge_edge (h : s.on (gauPg k) = true) (hsrc : s.f (gauPg k) 0x40 1 0 = 1) :
    let level := s.pins.edl3.getLsbD (s.f (gauPg k) 0x40 8 4)
    (tickedGauge s k).edge =
      if level ≠ s.pins.edl4.getLsbD (s.f (gauPg k) 0x40 8 4) ∧ level ≠ (s.f (gauPg k) 0x40 9 9 == 1) then
        some ((tickedGauge s k).value, s.ticks)
      else if (s.gauge k).chosen then none else (s.gauge k).edge := by
  simp only [tickedGauge_of_on h, gaugeWindow_fields, gaugeEdge_fields, hsrc, gaugeEdge_pps, gaugeAdvance_fields,
    unitTaken_fields]

end Parts

/-! ### The device's tick -/

/-- Without a reference clock the tick only begins a new period, of which nothing is marked. -/
theorem exec_referenceTick_of_stopped {s : State} (lv : TargetLevels) (h : s.refRuns = false) :
    exec (.referenceTick lv) s = .next (settle ((periodBegun s).withRecent [])) := by
  rw [← tick_of_stopped lv h]
  rfl

theorem periodBegun_eq (s : State) :
    let u := (s.withPwr { s.pwr with justForced := false }).withHst { s.hst with conds := s.vectorConds, rearms := 0 }
    periodBegun s = if s.drw.fresh = true then
      u.withDrw { s.drw with buffer := s.drw.buffer.map (fun _ => captureWords u), fresh := false } else u := by
  rfl

/-- Settles O41: each Gauge's turn moves its own part of the state alone, so the tick leaves it what its turn makes of the state
before the tick, and that is read off item by item of R334. (`gaugeTick` is the model's own name for one Gauge's turn.) -/
theorem gaugesTakeReferenceTick : Obligations.GaugeTick := by
  unfold Obligations.GaugeTick
  refine fun s lv => ⟨fun hstop => ?_, fun hrun => ?_⟩
  · rw [exec_referenceTick_of_stopped lv hstop, periodBegun_eq]
  · obtain ⟨hticks, hedl, hgauges⟩ := gaugeTicked_tick lv hrun
    refine ⟨settle (tick s lv), rfl, hticks, hedl, fun k hk => ?_⟩
    obtain ⟨hgauge, hsrc, hkeeps, henters, hleaves, hinc⟩ := hgauges ⟨k, hk⟩
    replace hgauge : (settle (tick s lv)).gauge k = tickedGauge s k := hgauge
    obtain ⟨hstale, hchosen, hinv, hcut, hpulse, hwin, href, hlost⟩ := tickedGauge_fields s k
    obtain ⟨ustale, uchosen, uinv, ucut, upulse, uwin, uref, ulost, -⟩ := unitTaken_fields s k
    dsimp only
    simp only [hgauge]
    refine ⟨?src, hchosen.trans uchosen, hkeeps, fun hc h0 => ?enters, hleaves, fun hon h1 => ?edge, hinc, hstale.trans ustale,
      hinv.trans uinv, hcut.trans ucut, hpulse.trans upulse, hwin.trans uwin, tickedGauge_stands, fun hon => ?moves⟩
    case src =>
      rw [State.gauSrc, State.ginF, gin_of_fresh (by rw [hgauge, hstale, ustale]), ← State.f]
      exact hsrc
    case enters =>
      obtain ⟨hhold, hcount, hevent⟩ := henters hc h0
      exact ⟨hhold, hcount, hevent, by rw [href, uref, if_pos hc], by rw [hlost, ulost, hc]; rfl⟩
    case edge =>
      have hedge := tickedGauge_edge hon h1
      exact ⟨fun hrises => hedge.trans (if_pos hrises), fun hrises => hedge.trans (if_neg hrises)⟩
    case moves =>
      obtain ⟨hset, hadj⟩ := tickedGauge_nothing_pending hon
      exact ⟨hset, hadj, fun x => tickedGauge_set hon, tickedGauge_advances hon⟩

end Sys2Proof.Machine
